-- ==== Sys2Proof/Word.lean ====
section
/-!
DEFINITION. The word types of the Glaoc and the sparse table that holds register files, caches and
the device's tables as plain data (spec/03 R49, spec/15 R302).
-/
namespace Sys2Proof

/-- A byte of memory. -/
abbrev Byte := BitVec 8
/-- A vector-register element or a scalar word of the instruction stream. -/
abbrev W32 := BitVec 32
/-- A scalar register (spec/15 R302). -/
abbrev W64 := BitVec 64
/-- A lane word of the instruction stream (spec/05 R90). -/
abbrev W96 := BitVec 96
/-- A lane mask: bit i stands for lane i (spec/18 R324). -/
abbrev Mask := BitVec 128
/-- A cause code (spec/13 R269); 0 is "no cause". -/
abbrev Cause := BitVec 9

/-- A sparse table: entries by key, in rising order of the keys. A key that is not listed has the
table's own default, which each reader names. -/
abbrev Tbl (α : Type) := List (Nat × α)

/-- A scalar register number. -/
abbrev SReg := BitVec 6
/-- A vector register number. -/
abbrev VReg := BitVec 11
/-- A lane predicate number. -/
abbrev PReg := BitVec 3
/-- A scalar predicate number. -/
abbrev QReg := BitVec 3

end Sys2Proof
end

