-- ==== Sys2Proof/Types.lean ====
section
/-!
DEFINITION. The operand types that instructions carry: types, rounding modes, scopes, conditions,
guards, sources and one record for each operand shape of the lane words (spec/05 R98 to R102).
-/
namespace Sys2Proof

/-- Type codes of the lane stream (spec/05 R102). -/
inductive Ty where
  | i32 | n32 | i64 | n64 | i16 | n16 | i8 | n8 | f32 | f16 | bf16 | bpi | f64
  deriving DecidableEq, Repr

/-- Rounding modes (spec/03 R55). -/
inductive Rm where
  | rne | rtz | rup | rdn | rto
  deriving DecidableEq, Repr

/-- The ten scopes, narrowest first (spec/04 R83). -/
inductive Scope where
  | ln | bd | wg | tl | qd | gg | di | dv | sy | fb
  deriving DecidableEq, Repr

/-- Condition codes (spec/05 R102). -/
inductive Cond where
  | eq | ne | lt | le | gt | ge | ord | uno
  deriving DecidableEq, Repr

/-- The access sizes of the scalar stream: 1, 2, 4 or 8 bytes (spec/06 R118). -/
inductive Width where
  | w1 | w2 | w4 | w8
  deriving DecidableEq, Repr

/-- The sizes of sext and zext: 8, 16 or 32 bits (spec/06 R116). -/
inductive ExtSize where
  | b8 | b16 | b32
  deriving DecidableEq, Repr

/-- Guard predicate, its inversion and the stall count of a lane word (spec/01 R13, R14). -/
structure Guard where
  pg    : PReg
  neg   : Bool
  stall : BitVec 4
  deriving DecidableEq, Repr

/-- What issue itself takes from a word, beside the instruction: the guard and stall count that every
lane word carries (spec/05 R98), the source register of the `srw` rows that name their register and of `hkill`
(spec/06 R128, R133), and the second word of `sig.chk` (spec/05 R90). The fields a word does not have are 0. -/
structure Extra where
  guard : Guard
  src   : SReg
  next  : W32
  deriving DecidableEq, Repr

/-- A source of a lane instruction: a vector register or a scalar register (spec/01 R11). -/
inductive Src where
  | v (n : VReg)
  | s (n : SReg)
  deriving DecidableEq, Repr

/-- The address operand of a memory instruction: base, per-lane offset, displacement (spec/05 R101). -/
structure MemAddr where
  base : Option SReg
  ofs  : Option VReg
  imm  : BitVec 20
  deriving DecidableEq, Repr

/-- Two sources. -/
structure Bin where
  ty : Ty
  d : VReg
  a : Src
  b : Src
  deriving DecidableEq, Repr

/-- One source and an immediate (spec/07 R137). -/
structure BinI where
  ty : Ty
  d : VReg
  a : Src
  imm : W32
  deriving DecidableEq, Repr

/-- Two sources and a rounding mode. -/
structure BinR where
  ty : Ty
  rm : Rm
  d : VReg
  a : Src
  b : Src
  deriving DecidableEq, Repr

/-- One source, an immediate and a rounding mode. -/
structure BinRI where
  ty : Ty
  rm : Rm
  d : VReg
  a : Src
  imm : W32
  deriving DecidableEq, Repr

/-- Three sources. -/
structure Tri where
  ty : Ty
  d : VReg
  a : Src
  b : Src
  c : Src
  deriving DecidableEq, Repr

/-- Three sources and a rounding mode. -/
structure TriR where
  ty : Ty
  rm : Rm
  d : VReg
  a : Src
  b : Src
  c : Src
  deriving DecidableEq, Repr

/-- One source. -/
structure Un where
  ty : Ty
  d : VReg
  a : Src
  deriving DecidableEq, Repr

/-- One source and a rounding mode. -/
structure UnR where
  ty : Ty
  rm : Rm
  d : VReg
  a : Src
  deriving DecidableEq, Repr

/-- A broadcast immediate (spec/07 R145). -/
structure ImmD where
  ty : Ty
  d : VReg
  imm : W32
  deriving DecidableEq, Repr

/-- A select on a lane predicate (spec/07 R145). -/
structure SelOp where
  ty : Ty
  d : VReg
  a : Src
  b : Src
  p : PReg
  np : Bool
  deriving DecidableEq, Repr

/-- A compare into a lane predicate (spec/07 R146, R150). -/
structure CmpOp where
  cond : Cond
  ty : Ty
  p : PReg
  a : Src
  b : Src
  deriving DecidableEq, Repr

/-- A compare with an immediate. -/
structure CmpI where
  cond : Cond
  ty : Ty
  p : PReg
  a : Src
  imm : W32
  deriving DecidableEq, Repr

/-- A conversion; fmt is the format word when a side is bpi (spec/07 R152). -/
structure CvtOp where
  dst : Ty
  src : Ty
  rm : Rm
  d : VReg
  a : Src
  fmt : Option Src
  deriving DecidableEq, Repr

/-- The keyed random function (spec/07 R154). -/
structure RngOp where
  ty : Ty
  d : VReg
  a : Src
  b : SReg
  c : SReg
  deriving DecidableEq, Repr

/-- A lane load (spec/08 R157). -/
structure LdOp where
  ty : Ty
  sc : Scope
  m : MemAddr
  d : VReg
  deriving DecidableEq, Repr

/-- ldy.n64: a yield-hinted load (spec/08 R160). -/
structure LdyOp where
  sc : Scope
  m : MemAddr
  d : VReg
  deriving DecidableEq, Repr

/-- A lane store or a reduction: the data register is a vector, or a scalar under VDSC. -/
structure StOp where
  ty : Ty
  sc : Scope
  m : MemAddr
  data : Src
  deriving DecidableEq, Repr

/-- An atomic: d takes the old value, c is the operand (spec/08 R161). -/
structure AtomOp where
  ty : Ty
  sc : Scope
  m : MemAddr
  d : VReg
  c : VReg
  deriving DecidableEq, Repr

/-- The destination of a ballot: a vector, or half h of a scalar (spec/08 R165). -/
inductive BallotDst where
  | v (d : VReg)
  | s (d : SReg) (h : Bool)
  deriving DecidableEq, Repr

/-- vote.uni. -/
structure VoteUniOp where
  ty : Ty
  q : QReg
  a : VReg
  deriving DecidableEq, Repr

/-- Shuffle modes (spec/08 R167). -/
inductive ShflMode where
  | idx | up | down | xor
  deriving DecidableEq, Repr

/-- A shuffle. -/
structure ShflOp where
  mode : ShflMode
  wide : Bool
  d : VReg
  a : VReg
  b : Src
  f : PReg
  deriving DecidableEq, Repr

/-- A permute (spec/08 R168). -/
structure PermOp where
  wide : Bool
  d : VReg
  a : VReg
  b : Src
  f : PReg
  deriving DecidableEq, Repr

/-- Operations of lred (spec/08 R169). -/
inductive LredFn where
  | add | min | max | and | or | xor
  deriving DecidableEq, Repr

/-- A cross-lane reduction; the destination is a vector or, under VDS, a scalar. -/
structure LredOp where
  fn : LredFn
  ty : Ty
  rm : Rm
  d : Src
  a : VReg
  deriving DecidableEq, Repr

/-- plog (spec/08 R170). -/
structure PlogOp where
  tt : BitVec 4
  d : PReg
  a : PReg
  b : PReg
  deriving DecidableEq, Repr

/-- A matrix product request (spec/09 R191). -/
structure MmaOp where
  rm : Rm
  f : VReg
  op : SReg
  ra : SReg
  rb : SReg
  deriving DecidableEq, Repr

/-- acc.ld (spec/09 R198). -/
structure AccLdOp where
  ty : Ty
  rm : Rm
  d : VReg
  sel : SReg
  deriving DecidableEq, Repr

/-- acc.out (spec/09 R199). -/
structure AccOutOp where
  rm : Rm
  f : VReg
  op : SReg
  rc : SReg
  deriving DecidableEq, Repr

/-- The atomic and reduction operations of a memory port (spec/08 R162). -/
inductive AtomFn where
  | add | min | max | and | or | xor | addsat | xchg | cas
  deriving DecidableEq, Repr

/-- The settings of a virtual interface that MGMT writes (spec/20 R338). -/
inductive VifSetting where
  | ringBase | ringSize | faultBase | faultSize | gpatCnt | gpatFirst | poolBase | poolSlots
  | saveBase | saveSize | share0 | share1
  | root (ctx : Nat)
  deriving DecidableEq, Repr

/-- What a management transaction asks for (spec/20 R336, R338, R345, R367). -/
inductive MgmtCmd where
  /-- read a status word -/
  | status
  /-- write one interface setting -/
  | set (vif : Nat) (what : VifSetting) (value : Nat)
  /-- enable an interface -/
  | enable (vif : Nat)
  /-- disable an interface -/
  | disable (vif : Nat)
  /-- extend one of MEAS4 to MEAS7 for the host's own use -/
  | extend (i : Nat) (digest : BitVec 512)
  /-- ask for an attestation report over a 64-byte nonce -/
  | attest (nonce : BitVec 512)
  deriving DecidableEq, Repr

/-- The system registers that have no row of their own (spec/15 R309), ATTCFG and a tile's ERRCNT as system software reads them
(spec/14 R301, spec/19 R332), and its map from a PEERID to a set of links, whose place the spec does not give (spec/20 R343). -/
inductive SysReg where
  | pwrceil
  | diebudget (die : Nat)
  | qrate (quad : Nat)
  | tempcls (tile : Nat)
  | attstat (tile : Nat)
  | dieenergy (die : Nat)
  | attcfg
  | errcnt (tile : Nat)
  | peerLinks (peer : Nat)
  deriving DecidableEq, Repr

/-- A firmware image as the boot ROM sees it (spec/20 R344): its bytes, its signature and the public key. -/
structure Firmware where
  image : List Byte
  signature : List Byte
  key : List Byte
  deriving DecidableEq, Repr

/-- What an AV1 sequence header says (spec/10 R218): profile, level as major × 10 + minor, bit depth, mono_chrome, and whether
its chroma is 4:2:0. -/
structure Av1Seq where
  profile : Nat
  level : Nat
  depth : Nat
  mono : Bool
  sub420 : Bool
  deriving DecidableEq, Repr, Inhabited

/-- What an OBU that can carry a frame says (spec/10 R218, R222): whether the header of its frame has been parsed, whether the
frame ends with it, whether that is shown, a key frame, and one that a slot holds and that is shown again, the reference slots it
needs and those it refreshes, its size in luma samples, and whether it uses large_scale_tile. -/
structure Av1Obu where
  header : Bool
  frame : Bool
  shown : Bool
  key : Bool
  again : Bool
  refs : BitVec 8
  refresh : BitVec 8
  width : Nat
  height : Nat
  largeScale : Bool
  deriving DecidableEq, Repr, Inhabited

/-- What is measured on a die in one dispatch window (spec/20 R342, spec/15 R309, spec/19 R333): power of the stacks
and links, the die's own power, the energy of the window, and the junction temperature of each of its tiles in °C. -/
structure Measured where
  stackPower : Nat
  own : Nat
  energy : Nat
  temps : List Nat
  deriving DecidableEq, Repr

end Sys2Proof
end

