-- ==== Sys2Proof/Syntax.lean ====
section
/-!
DEFINITION. One constructor for every row of spec/opcode_table.json: the scalar instructions, the lane
instructions and the steps that the device takes on its own. The agent or the input a step of the
device concerns stands in the turn that takes it (Config.lean), the guard and stall count of a lane word
in Extra (Types.lean). Constructors with operands come first: a compiled program can tell at most 244
of them apart.
-/
namespace Sys2Proof

/-- The instructions and steps of the Glaoc (spec/opcode_table.json). -/
inductive Instr where
  -- The scalar stream (spec/06, spec/09 to spec/12).
  /-- R111: Scalar add: sd gets sa + sb modulo 2^64. -/
  | add (d : SReg) (a : SReg) (b : SReg)
  /-- R111: Scalar subtract: sd gets sa − sb. -/
  | sub (d : SReg) (a : SReg) (b : SReg)
  /-- R111: Scalar multiply: sd gets the low 64 bits of sa × sb. -/
  | mul (d : SReg) (a : SReg) (b : SReg)
  /-- R111: Scalar signed multiply high: sd gets bits [127:64] of the signed product. -/
  | mulhI64 (d : SReg) (a : SReg) (b : SReg)
  /-- R111: Scalar unsigned multiply high: sd gets bits [127:64] of the unsigned product. -/
  | mulhN64 (d : SReg) (a : SReg) (b : SReg)
  /-- R111: Scalar bitwise AND. -/
  | and (d : SReg) (a : SReg) (b : SReg)
  /-- R111: Scalar bitwise OR. -/
  | or (d : SReg) (a : SReg) (b : SReg)
  /-- R111: Scalar bitwise XOR. -/
  | xor (d : SReg) (a : SReg) (b : SReg)
  /-- R111: Scalar shift left by bits [5:0] of sb. -/
  | shl (d : SReg) (a : SReg) (b : SReg)
  /-- R111: Scalar logical shift right by bits [5:0] of sb. -/
  | shr (d : SReg) (a : SReg) (b : SReg)
  /-- R111: Scalar arithmetic shift right by bits [5:0] of sb. -/
  | sar (d : SReg) (a : SReg) (b : SReg)
  /-- R111: Scalar signed minimum. -/
  | minI64 (d : SReg) (a : SReg) (b : SReg)
  /-- R111: Scalar signed maximum. -/
  | maxI64 (d : SReg) (a : SReg) (b : SReg)
  /-- R111: Scalar unsigned minimum. -/
  | minN64 (d : SReg) (a : SReg) (b : SReg)
  /-- R111: Scalar unsigned maximum. -/
  | maxN64 (d : SReg) (a : SReg) (b : SReg)
  /-- R112: Scalar compare of sa and sb under a condition and signedness, writing a scalar predicate. -/
  | cmp (cond : Cond) (unsigned : Bool) (d : QReg) (a : SReg) (b : SReg)
  /-- R113: Scalar add of a sign-extended 14-bit immediate. -/
  | addi (d : SReg) (a : SReg) (imm : BitVec 14)
  /-- R113: Scalar AND with a sign-extended immediate. -/
  | andi (d : SReg) (a : SReg) (imm : BitVec 14)
  /-- R113: Scalar OR with a sign-extended immediate. -/
  | ori (d : SReg) (a : SReg) (imm : BitVec 14)
  /-- R113: Scalar XOR with a sign-extended immediate. -/
  | xori (d : SReg) (a : SReg) (imm : BitVec 14)
  /-- R113: Scalar shift left by an immediate amount. -/
  | shli (d : SReg) (a : SReg) (amt : BitVec 6)
  /-- R113: Scalar logical shift right by an immediate amount. -/
  | shri (d : SReg) (a : SReg) (amt : BitVec 6)
  /-- R113: Scalar arithmetic shift right by an immediate amount. -/
  | sari (d : SReg) (a : SReg) (amt : BitVec 6)
  /-- R113: Scalar multiply by a sign-extended immediate. -/
  | muli (d : SReg) (a : SReg) (imm : BitVec 14)
  /-- R114: Loads a sign-extended 20-bit immediate into sd. -/
  | movi (d : SReg) (imm : BitVec 20)
  /-- R114: Loads the PC-relative address of a label into sd. -/
  | la (d : SReg) (imm : BitVec 20)
  /-- R115: Scaled add: sd gets sa + (sb shifted left by k). -/
  | adds (d : SReg) (a : SReg) (b : SReg) (k : BitVec 6)
  /-- R115: Scaled add of the zero-extended low word of sb. -/
  | addsw (d : SReg) (a : SReg) (b : SReg) (k : BitVec 6)
  /-- R115: Inserts bits [15:0] of sb above bits [47:0] of sa. -/
  | hins (d : SReg) (a : SReg) (b : SReg)
  /-- R116: Sign-extends sa from 8, 16 or 32 bits. -/
  | sext (sz : ExtSize) (d : SReg) (a : SReg)
  /-- R116: Zero-extends sa from 8, 16 or 32 bits. -/
  | zext (sz : ExtSize) (d : SReg) (a : SReg)
  /-- R116: Extracts a bit field of sa described by sb, zero-extended. -/
  | ext (d : SReg) (a : SReg) (b : SReg)
  /-- R116: Extracts a bit field of sa described by sb, sign-extended. -/
  | exts (d : SReg) (a : SReg) (b : SReg)
  /-- R116: Inserts the low bits of sa into a field of sd. -/
  | ins (d : SReg) (a : SReg) (b : SReg)
  /-- R116: Scalar count of leading zeros. -/
  | clz (d : SReg) (a : SReg)
  /-- R116: Scalar count of one bits. -/
  | popc (d : SReg) (a : SReg)
  /-- R117: Selects sa or sb on a scalar predicate. -/
  | csel (d : SReg) (a : SReg) (b : SReg) (q : QReg) (neg : Bool)
  /-- R118: Scalar 1-byte load at band scope, zero-extended. -/
  | ldN8 (d : SReg) (a : SReg) (imm : BitVec 14)
  /-- R118: Scalar 2-byte load at band scope. -/
  | ldN16 (d : SReg) (a : SReg) (imm : BitVec 14)
  /-- R118: Scalar 4-byte load at band scope. -/
  | ldN32 (d : SReg) (a : SReg) (imm : BitVec 14)
  /-- R118: Scalar 8-byte load at band scope. -/
  | ldN64 (d : SReg) (a : SReg) (imm : BitVec 14)
  /-- R118: Scalar 1-byte store at band scope. -/
  | stN8 (d : SReg) (a : SReg) (imm : BitVec 14)
  /-- R118: Scalar 2-byte store at band scope. -/
  | stN16 (d : SReg) (a : SReg) (imm : BitVec 14)
  /-- R118: Scalar 4-byte store at band scope. -/
  | stN32 (d : SReg) (a : SReg) (imm : BitVec 14)
  /-- R118: Scalar 8-byte store at band scope. -/
  | stN64 (d : SReg) (a : SReg) (imm : BitVec 14)
  /-- R121: Scalar branch, taken when q[qc] XOR neg is 1. -/
  | br (q : QReg) (neg : Bool) (off : BitVec 22)
  /-- R122: Conditional call: sets s63, pushes the shadow return stack and jumps. -/
  | call (q : QReg) (neg : Bool) (off : BitVec 22)
  /-- R122: Jumps to the address in sa. -/
  | jr (a : SReg)
  /-- R122: Pops the shadow stack, checks it against sa and jumps to sa. -/
  | ret (a : SReg)
  /-- R123: Jumps through the following table of always-taken branches. -/
  | jt (a : SReg) (n : BitVec 14)
  /-- R123: Calls through the following table of always-taken branches. -/
  | callt (a : SReg) (n : BitVec 14)
  /-- R125: Appends a lane block to the lane block queue, capturing JTO, STALLCHK and the bound table. -/
  | lpost (addr : BitVec 20)
  /-- R128: Reads a special register into sd. -/
  | srr (d : SReg) (num : BitVec 14)
  /-- R128: Writes sa to a special register that has no row of its own. -/
  | srw (num : BitVec 14) (a : SReg)
  /-- R127: Checks and copies a permitted-target table and binds it for later blocks. -/
  | tgtBind (off : BitVec 20)
  /-- R119: Scalar load of 1 to 8 bytes performed at a given scope. -/
  | ldScoped (w : Width) (sc : Scope) (d : SReg) (a : SReg)
  /-- R119: Scalar store of 1 to 8 bytes performed at a given scope. -/
  | stScoped (w : Width) (sc : Scope) (a : SReg) (b : SReg)
  /-- R85: Scalar-stream fence of a given scope. -/
  | scalarFence (sc : Scope)
  /-- R119: Scalar 8-byte yield-hinted load that drives back-off. -/
  | scalarLdy (sc : Scope) (d : SReg) (a : SReg)
  /-- R210: Issues a byte copy to the tile's copy queue. -/
  | copy (d : SReg) (a : SReg) (b : SReg) (t : SReg)
  /-- R210: Issues a copy packing n32 integers into bit planes. -/
  | copyPack (d : SReg) (a : SReg) (b : SReg) (t : SReg)
  /-- R210: Issues a copy unpacking bit planes into n32 integers. -/
  | copyUnpack (d : SReg) (a : SReg) (b : SReg) (t : SReg)
  /-- R212: Forks a plain copy and parks the band until it completes. -/
  | yieldc (d : SReg) (a : SReg) (b : SReg) (off : BitVec 8)
  /-- R215: Initialises a barrier object with EXPECTED. -/
  | binit (sc : Scope) (a : SReg) (b : SReg)
  /-- R214: Arrives at a barrier with count c and returns the result word. -/
  | barr (sc : Scope) (d : SReg) (a : SReg) (b : SReg)
  /-- R215: Arrives at a barrier and traps after the step on OVERRUN or INVALID. -/
  | barrT (sc : Scope) (d : SReg) (a : SReg) (b : SReg)
  /-- R215: Makes a poisoned barrier arrival. -/
  | barrP (sc : Scope) (d : SReg) (a : SReg) (b : SReg)
  /-- R216: Reads a barrier phase and returns CHANGED or parks until the phase changes. -/
  | bwait (sc : Scope) (d : SReg) (a : SReg) (b : SReg)
  /-- R215: Clears OVERRUN, POISONED, PCOUNT and LASTOVR of a barrier. -/
  | bclr (sc : Scope) (a : SReg)
  /-- R217: Defers one barrier arrival to the matrix engine until RETIRED reaches r. -/
  | barrMx (sc : Scope) (a : SReg) (b : SReg)
  /-- R208: Waits on a completion object for a count, a status or a bound. -/
  | cwait (sc : Scope) (d : SReg) (a : SReg) (b : SReg)
  /-- R208: Signals a count and status to a completion object or barrier. -/
  | csig (sc : Scope) (a : SReg) (b : SReg)
  /-- R219: Queues an AV1 decode command on a decoder of the die. -/
  | vdec (a : SReg) (n : BitVec 4)
  /-- R224: Writes a stride-pattern entry in all eight stacks. -/
  | gpatSet (a : SReg) (b : SReg)
  /-- R224: Makes a stride-pattern entry invalid in all eight stacks. -/
  | gpatClr (a : SReg)
  /-- R224: Reads a stride-pattern entry. -/
  | gpatGet (d : SReg) (a : SReg)
  /-- R226: Registers a sequence with a slack and returns its handle. -/
  | bfqReg (d : SReg) (a : SReg)
  /-- R226: Ends a sequence, retiring its waiting requests KILLED. -/
  | bfqUnreg (a : SReg)
  /-- R226: Sets the slack of a sequence. -/
  | bfqSlack (a : SReg) (b : SReg)
  /-- R226: Reads a request descriptor and posts the request to the batch-forming queue. -/
  | bfqPost (d : SReg) (a : SReg)
  /-- R226: Waits for a formed batch and writes its batch record. -/
  | bfqTake (d : SReg) (a : SReg)
  /-- R226: Gives the next unserved request of the taken batch and reloads the budget. -/
  | bfqNext (d : SReg)
  /-- R227: Retires a request of the taken batch with a status and signals it. -/
  | bfqDone (a : SReg) (b : SReg)
  /-- R184: Requests accumulator tiles per array for the workgroup, parking until granted whole. -/
  | accAlloc (d : SReg) (a : SReg)
  /-- R185: Releases held accumulator tiles after their entries retire. -/
  | accFree (a : SReg)
  /-- R185: Returns the workgroup's held tile mask. -/
  | accHeld (d : SReg)
  /-- R189: Invalidates one record-cache entry in the issuing quad. -/
  | rfenceQdAddr (a : SReg)
  /-- R189: Invalidates one record-cache entry in every quad. -/
  | rfenceDvAddr (a : SReg)
  /-- R201: Reads MXSTAT and clears its STATUS. -/
  | mstat (d : SReg)
  /-- R201: Waits until RETIRED reaches sa, as a join of the given scope. -/
  | mwait (sc : Scope) (a : SReg)
  /-- R231: Checks the configuration, reads x[0] and opens a relaxation region. -/
  | rlxBegin (t : SReg) (c : SReg) (x : SReg) (nb : BitVec 4)
  /-- R246: Waits until no region is open or held and returns RXOUT. -/
  | rlxWait (d : SReg)
  /-- R257: Queues a Cabinet command that finds or creates a node. -/
  | ddMk (a : SReg) (t : SReg)
  /-- R257: Queues a Cabinet command combining two diagrams by a truth table. -/
  | ddApply (a : SReg) (t : SReg) (tt : BitVec 4)
  /-- R257: Queues a Cabinet if-then-else of three diagrams. -/
  | ddIte (a : SReg) (t : SReg)
  /-- R258: Queues a Cabinet restriction of a diagram by a cube. -/
  | ddRestrict (a : SReg) (t : SReg)
  /-- R258: Queues a Cabinet existential quantification over a cube. -/
  | ddExists (a : SReg) (t : SReg)
  /-- R260: Queues a weighted count of a diagram in f64. -/
  | ddWcount (a : SReg) (t : SReg)
  /-- R261: Queues an exact 128-bit count of satisfying assignments. -/
  | ddSatcount (a : SReg) (t : SReg)
  /-- R264: Queues an increment of a node's reference count. -/
  | ddRef (a : SReg) (t : SReg)
  /-- R264: Queues a decrement of a node's reference count. -/
  | ddDeref (a : SReg) (t : SReg)
  /-- R262: Queues an exclusive swap of two adjacent variable levels. -/
  | ddSwap (a : SReg) (t : SReg)
  /-- R263: Queues an exclusive reordering to a target permutation by swaps. -/
  | ddOrder (a : SReg) (t : SReg)
  /-- R265: Queues an exclusive collection of every live node with REF 0. -/
  | ddGc (t : SReg)
  /-- R266: Queues a write of the Cabinet statistics record. -/
  | ddStat (a : SReg) (t : SReg)
  /-- R131: Raises a user cause from the scalar stream. -/
  | trap (code : BitVec 14)
  /-- R133: Handler read of a lane's vector register. -/
  | hgetN32 (d : SReg) (a : SReg) (b : SReg)
  /-- R133: Handler read of a lane's register pair. -/
  | hgetN64 (d : SReg) (a : SReg) (b : SReg)
  /-- R133: Handler read of a lane's predicate. -/
  | hgetp (d : SReg) (a : SReg) (b : SReg)
  /-- R133: Handler read of a lane's state word. -/
  | hstat (d : SReg) (a : SReg)
  /-- R133: Handler write of a lane's vector register. -/
  | hputN32 (d : SReg) (a : SReg) (b : SReg)
  /-- R133: Handler write of a lane's register pair. -/
  | hputN64 (d : SReg) (a : SReg) (b : SReg)
  /-- R133: Handler write of a lane's predicate. -/
  | hputp (d : SReg) (a : SReg) (b : SReg)
  -- The lane stream (spec/07 to spec/09, spec/11).
  /-- R140: Lane integer add, wrapping. -/
  | laneAdd (o : Bin)
  /-- R140: Lane integer add of an immediate. -/
  | laneAddImm (o : BinI)
  /-- R140: Lane integer subtract. -/
  | laneSub (o : Bin)
  /-- R140: Lane integer subtract of an immediate. -/
  | laneSubImm (o : BinI)
  /-- R140: Lane integer multiply, low bits. -/
  | laneMul (o : Bin)
  /-- R140: Lane integer multiply by an immediate. -/
  | laneMulImm (o : BinI)
  /-- R140: Lane integer multiply, high bits. -/
  | mulhi (o : Bin)
  /-- R140: Lane integer multiply high by an immediate. -/
  | mulhiImm (o : BinI)
  /-- R140: Lane integer multiply-add. -/
  | mad (o : Tri)
  /-- R140: Lane saturating add. -/
  | addsat (o : Bin)
  /-- R140: Lane saturating add of an immediate. -/
  | addsatImm (o : BinI)
  /-- R140: Lane saturating subtract. -/
  | subsat (o : Bin)
  /-- R140: Lane saturating subtract of an immediate. -/
  | subsatImm (o : BinI)
  /-- R140: Lane bitwise AND. -/
  | laneAnd (o : Bin)
  /-- R140: Lane bitwise AND with an immediate. -/
  | laneAndImm (o : BinI)
  /-- R140: Lane bitwise OR. -/
  | laneOr (o : Bin)
  /-- R140: Lane bitwise OR with an immediate. -/
  | laneOrImm (o : BinI)
  /-- R140: Lane bitwise XOR. -/
  | laneXor (o : Bin)
  /-- R140: Lane bitwise XOR with an immediate. -/
  | laneXorImm (o : BinI)
  /-- R140: Lane a AND NOT b. -/
  | andn (o : Bin)
  /-- R140: Lane a AND NOT immediate. -/
  | andnImm (o : BinI)
  /-- R141: Lane shift left, unmasked amount. -/
  | laneShl (o : Bin)
  /-- R141: Lane shift left by an immediate. -/
  | laneShlImm (o : BinI)
  /-- R141: Lane shift right, logical or arithmetic by type. -/
  | laneShr (o : Bin)
  /-- R141: Lane shift right by an immediate. -/
  | laneShrImm (o : BinI)
  /-- R140: Lane integer minimum. -/
  | laneMin (o : Bin)
  /-- R140: Lane integer minimum with an immediate. -/
  | laneMinImm (o : BinI)
  /-- R140: Lane integer maximum. -/
  | laneMax (o : Bin)
  /-- R140: Lane integer maximum with an immediate. -/
  | laneMaxImm (o : BinI)
  /-- R143: Lane integer absolute value. -/
  | abs (o : Un)
  /-- R143: Lane integer negation. -/
  | neg (o : Un)
  /-- R142: Lane integer division truncating toward zero. -/
  | div (o : Bin)
  /-- R142: Lane integer division by an immediate. -/
  | divImm (o : BinI)
  /-- R142: Lane integer remainder. -/
  | laneRem (o : Bin)
  /-- R142: Lane integer remainder by an immediate. -/
  | laneRemImm (o : BinI)
  /-- R144: Lane bit-field extract. -/
  | bfe (o : Bin)
  /-- R144: Lane bit-field extract with an immediate descriptor. -/
  | bfeImm (o : BinI)
  /-- R144: Lane bit-field insert. -/
  | bfi (o : Bin)
  /-- R144: Lane bit-field insert with an immediate descriptor. -/
  | bfiImm (o : BinI)
  /-- R143: Lane count of one bits. -/
  | lanePopc (o : Un)
  /-- R143: Lane count of leading zeros. -/
  | laneClz (o : Un)
  /-- R143: Lane count of trailing zeros. -/
  | ctz (o : Un)
  /-- R143: Lane bit reversal. -/
  | brev (o : Un)
  /-- R145: Lane select on a lane predicate. -/
  | sel (o : SelOp)
  /-- R145: Lane move or scalar broadcast. -/
  | mov (o : Un)
  /-- R145: Lane broadcast of an immediate. -/
  | movImm (o : ImmD)
  /-- R146: Lane integer compare into a lane predicate. -/
  | icmp (o : CmpOp)
  /-- R146: Lane integer compare with an immediate. -/
  | icmpImm (o : CmpI)
  /-- R145: Writes each lane's number. -/
  | lidx (d : VReg)
  /-- R147: Lane floating add, correctly rounded by rm. -/
  | fadd (o : BinR)
  /-- R147: Lane floating add of an immediate. -/
  | faddImm (o : BinRI)
  /-- R147: Lane floating subtract. -/
  | fsub (o : BinR)
  /-- R147: Lane floating subtract of an immediate. -/
  | fsubImm (o : BinRI)
  /-- R147: Lane floating multiply. -/
  | fmul (o : BinR)
  /-- R147: Lane floating multiply by an immediate. -/
  | fmulImm (o : BinRI)
  /-- R147: Lane floating divide. -/
  | fdiv (o : BinR)
  /-- R147: Lane floating divide by an immediate. -/
  | fdivImm (o : BinRI)
  /-- R147: Lane floating square root. -/
  | fsqrt (o : UnR)
  /-- R148: Lane floating maximum treating NaN as missing. -/
  | fmax (o : Bin)
  /-- R148: Lane floating maximum with an immediate. -/
  | fmaxImm (o : BinI)
  /-- R148: Lane floating minimum treating NaN as missing. -/
  | fmin (o : Bin)
  /-- R148: Lane floating minimum with an immediate. -/
  | fminImm (o : BinI)
  /-- R147: Lane fused multiply-add with one rounding. -/
  | ffma (o : TriR)
  /-- R149: Clears the sign bit. -/
  | fabs (o : Un)
  /-- R149: Inverts the sign bit. -/
  | fneg (o : Un)
  /-- R150: Lane floating compare into a lane predicate. -/
  | fcmp (o : CmpOp)
  /-- R150: Lane floating compare with an immediate. -/
  | fcmpImm (o : CmpI)
  /-- R147: Rounds to an integral value by rm. -/
  | frnd (o : UnR)
  /-- R151: Approximated e^x. -/
  | fexp (o : Un)
  /-- R151: Approximated 2^x. -/
  | fexp2 (o : Un)
  /-- R151: Approximated natural logarithm. -/
  | flog (o : Un)
  /-- R151: Approximated base-2 logarithm. -/
  | flog2 (o : Un)
  /-- R151: Approximated hyperbolic tangent. -/
  | ftanh (o : Un)
  /-- R151: Approximated logistic sigmoid. -/
  | fsig (o : Un)
  /-- R151: Approximated reciprocal square root. -/
  | frsqrt (o : Un)
  /-- R151: Approximated sine. -/
  | fsin (o : Un)
  /-- R151: Approximated cosine. -/
  | fcos (o : Un)
  /-- R152: Converts between types, including bit-plane integers. -/
  | cvt (o : CvtOp)
  /-- R154: Evaluates the keyed random function per lane. -/
  | rng (o : RngOp)
  /-- R158: Lane load at a scope after all-lane checks. -/
  | laneLd (o : LdOp)
  /-- R158: Lane store at a scope after all-lane checks. -/
  | laneSt (o : StOp)
  /-- R160: Lane 8-byte yield-hinted load driving back-off. -/
  | laneLdy (o : LdyOp)
  /-- R161: Atomic add returning the old value. -/
  | atomAdd (o : AtomOp)
  /-- R161: Atomic minimum returning the old value. -/
  | atomMin (o : AtomOp)
  /-- R161: Atomic maximum returning the old value. -/
  | atomMax (o : AtomOp)
  /-- R161: Atomic AND returning the old value. -/
  | atomAnd (o : AtomOp)
  /-- R161: Atomic OR returning the old value. -/
  | atomOr (o : AtomOp)
  /-- R161: Atomic XOR returning the old value. -/
  | atomXor (o : AtomOp)
  /-- R161: Atomic saturating add returning the old value. -/
  | atomAddsat (o : AtomOp)
  /-- R161: Atomic exchange. -/
  | atomXchg (o : AtomOp)
  /-- R162: Atomic compare-and-swap on bit patterns. -/
  | atomCas (o : AtomOp)
  /-- R161: Memory-side add reduction. -/
  | redAdd (o : StOp)
  /-- R161: Memory-side minimum reduction. -/
  | redMin (o : StOp)
  /-- R161: Memory-side maximum reduction. -/
  | redMax (o : StOp)
  /-- R161: Memory-side AND reduction. -/
  | redAnd (o : StOp)
  /-- R161: Memory-side OR reduction. -/
  | redOr (o : StOp)
  /-- R161: Memory-side XOR reduction. -/
  | redXor (o : StOp)
  /-- R161: Memory-side saturating add reduction. -/
  | redAddsat (o : StOp)
  /-- R163: Lane-stream fence of a scope for the issuing fragment. -/
  | laneFence (sc : Scope)
  /-- R165: Collects a lane predicate over A into a mask. -/
  | ballot (dst : BallotDst) (p : PReg)
  /-- R166: Counts lanes of A with the predicate set into a scalar. -/
  | voteCnt (d : SReg) (p : PReg)
  /-- R166: Sets a scalar predicate if any lane of A has the predicate. -/
  | voteAny (q : QReg) (p : PReg)
  /-- R166: Sets a scalar predicate if every lane of A has the predicate. -/
  | voteAll (q : QReg) (p : PReg)
  /-- R166: Sets a scalar predicate if va is uniform over A. -/
  | voteUni (o : VoteUniOp)
  /-- R167: Delivers another lane's element by idx, up, down or xor mode. -/
  | shfl (o : ShflOp)
  /-- R168: Scatters values to target lanes. -/
  | perm (o : PermOp)
  /-- R169: Cross-lane reduction over A in a fixed order. -/
  | lred (o : LredOp)
  /-- R170: Predicate logic by a truth table. -/
  | plog (o : PlogOp)
  /-- R170: Sets a predicate where a register is non-zero. -/
  | ptest (ty : Ty) (p : PReg) (a : VReg)
  /-- R170: Writes a predicate as 0 or 1 into a register. -/
  | pget (d : VReg) (p : PReg)
  /-- R172: Lane branch splitting the fragment by the active mask. -/
  | bra (imm : W32)
  /-- R173: Indirect lane branch through the captured permitted-target table. -/
  | bri (a : Src) (imm : W32)
  /-- R175: Lane call pushing a call entry. -/
  | lcall (imm : W32)
  /-- R175: Indirect lane call through the table. -/
  | lcalli (a : Src) (imm : W32)
  /-- R174: Matches and arrives at a reconvergence entry, fusing when complete. -/
  | join (imm : W32)
  /-- R178: Creates one child launch per active lane. -/
  | dlaunch (d : VReg) (a : Src)
  /-- R179: Raises a user cause in the lanes of A. -/
  | ltrap (imm : W32)
  /-- R179: Checks and resets the fragment's lane signature. -/
  | lsigChk (imm : W32)
  /-- R179: Writes each lane's recorded cause. -/
  | lcause (d : VReg)
  /-- R193: Votes formats and posts a matrix product request to one array. -/
  | mma (o : MmaOp)
  /-- R191: Posts a paired matrix product with the horizontal neighbour array. -/
  | mmah (o : MmaOp)
  /-- R191: Posts a paired matrix product with the vertical neighbour array. -/
  | mmav (o : MmaOp)
  /-- R198: Loads a row or column of an accumulator tile into lanes. -/
  | accLd (o : AccLdOp)
  /-- R198: Stores lane values into a row or column of an accumulator tile. -/
  | accSt (sel : SReg) (data : Src)
  /-- R199: Posts a write of an accumulator tile to memory through the down-converter. -/
  | accOut (o : AccOutOp)
  /-- R205: Votes a format word over A without trapping. -/
  | fvote (d : SReg) (a : Src)
  /-- R236: Reads the guessed state component and seeds its tangent. -/
  | rlxIn (d : VReg) (i : BitVec 3)
  /-- R236: Delivers a state component and its tangents to the sequencer. -/
  | rlxOut (a : VReg) (i : BitVec 3)
  /-- R236: Reads the committed state component. -/
  | rlxGet (d : VReg) (i : BitVec 3)
  /-- R236: Writes the lane's global step number. -/
  | rlxStep (d : VReg)
  /-- R236: Reads the lane's residual of the last pass. -/
  | rlxRes (d : VReg)
  -- Instructions without an operand of their own.
  /-- R126: Waits until the lane block queue is empty and the running block has ended. -/
  | lsync
  /-- R129: In handler mode, reloads the band's cycle budget counter with sa. -/
  | srwBudleft
  /-- R251: Exclusive write of the Cabinet table base, which makes the table unready. -/
  | srwDdbase
  /-- R251: Exclusive write of LIMIT and LOGN, which initialises the unique table or makes it unready. -/
  | srwDdcap
  /-- R251: Exclusive write of the order table base, loading the order when COUNT is non-zero. -/
  | srwVobase
  /-- R251: Exclusive write of the variable count, loading or unreadying the order. -/
  | srwVocount
  /-- R305: Writes the die-context SPECDEPTH at the die register port. -/
  | srwSpecdepth
  /-- R305: Writes the die-context batch row threshold. -/
  | srwBfqthr
  /-- R305: Writes the die-context maximum rows per batch. -/
  | srwBfqmax
  /-- R124: Two-word check of the scalar signature against an expected value, then reset. -/
  | sigChk
  /-- R189: Invalidates every record-cache entry of the context in the issuing quad. -/
  | rfenceQd
  /-- R189: Invalidates every record-cache entry of the context in every quad. -/
  | rfenceDv
  /-- R246: Closes an open region ABORTED at its next pass boundary, or a held one at once. -/
  | rlxAbort
  /-- R132: Ends the band, after draining lane blocks outside handler mode or at once in it. -/
  | exit
  /-- R132: Leaves handler mode and re-issues the instruction TRAPPC names. -/
  | tretRetry
  /-- R132: Leaves handler mode and resumes after the trapping instruction, or at it for a deferred cause. -/
  | tretSkip
  /-- R132: Discards every queued lane block that has not started. -/
  | lflush
  /-- R133: Makes a lane dead with the effects of R31. -/
  | hkill
  /-- R175: Arrives at the matching call entry and returns on fusion. -/
  | lret
  /-- R176: Untimed join ending the block for the arriving lanes. -/
  | lend
  /-- R177: Makes the lanes of A exit. -/
  | lexit
  -- Steps of the device (spec/02, spec/09 to spec/14, spec/16, spec/17, spec/20).
  /-- R23: The dispatcher places a workgroup or whole gang on tiles and starts its bands. -/
  | workgroupPlacement
  /-- R24: After 16 windows of waiting a gang gets a reserved rectangle. -/
  | gangReservation
  /-- R25: The next posted lane block starts as one fragment once the previous block has ended. -/
  | blockStart
  /-- R30: A reconvergence timer reaches its latched timeout and the arrived lanes continue. -/
  | joinTimeout
  /-- R41: A band's ldy back-off hold interval expires. -/
  | backoffEnd
  /-- R43: A band's cycle budget counter reaches 0 and traps. -/
  | budgetOverrun
  /-- R48: A deadlock watchdog count reaches WDLIM or EXTLIM and raises WATCHDOG. -/
  | watchdog
  /-- R274: A band takes a pending deferred cause and enters handler mode. -/
  | handlerEntry
  /-- R42: When a yieldc copy completes, the band resumes at its continuation. -/
  | yieldcResume
  /-- R211: A queued copy command starts running on the copy engine. -/
  | copyStart
  /-- R210: A copy finishes or faults and signals its target. -/
  | copyComplete
  /-- R216: A parked bwait returns CHANGED when a step changes the phase. -/
  | bwaitChanged
  /-- R216: A parked bwait's bound elapses and it returns TIMEOUT. -/
  | bwaitTimeout
  /-- R208: A waiting cwait sees its count or status condition and returns as a join. -/
  | cwaitReturn
  /-- R208: A waiting cwait's bound elapses. -/
  | cwaitBound
  /-- R217: The matrix engine makes a deferred arrival once r operations have retired. -/
  | barrMxArrival
  /-- R184: A waiting accumulator request is granted whole when tiles free. -/
  | accAllocGrant
  /-- R186: A cycle of waiting requests is found and the youngest is trapped. -/
  | accDeadlock
  /-- R185: A waiting acc.free releases its tiles once their entries have retired. -/
  | accFreeRelease
  /-- R181: An array finishes a pass; the operation retires or re-enters the walk. -/
  | passComplete
  /-- R196: A waiting reservation entry's class rises every 4,096 cycles. -/
  | classAging
  /-- R201: A waiting mwait returns once RETIRED reaches its target. -/
  | mwaitReturn
  /-- R219: A decoder starts a queued command and reads and checks its descriptor. -/
  | decodeStart
  /-- R221: A decoded or corrupt frame's window is written and FSIG signalled. -/
  | frameOutput
  /-- R223: After the last frame the decoder writes RESULT and signals COMPL. -/
  | decodeComplete
  /-- R227: The oldest request reaches WAITLIM and forces a batch. -/
  | batchWaitLimit
  /-- R226: A waiting bfq.take receives a formed batch. -/
  | bfqTakeReturn
  /-- R239: A multi-band region opens once all its bands have issued rlx.begin. -/
  | regionOpen
  /-- R237: After the body's last lend the sequencer tests, commits, falls back or repairs. -/
  | passEnd
  /-- R255: A queued Cabinet command starts in a pipeline and reads its block. -/
  | cabinetStart
  /-- R255: A Cabinet command writes its result and signals its status. -/
  | cabinetComplete
  /-- R277: A workgroup is saved and released at a point where all its bands are quiescent. -/
  | eviction
  /-- R35: A saved workgroup is restored on its physical tile. -/
  | readmission
  /-- R27: A workgroup's bands and engine operations are done and it is reported. -/
  | workgroupComplete
  /-- R285: Ends a workgroup's bands, discards its work and scrubs its storage. -/
  | workgroupKill
  /-- R286: A launch is killed, rolled back and replayed from its saved parameters. -/
  | launchReplay
  /-- R287: Ends all work of a context, stops its queues and quarantines poisoned pages. -/
  | addressSpaceKill
  /-- R311: Gated storage finishes waking and stalled accesses proceed. -/
  | wakeUpEnd
  /-- R293: Every HBP cycles an attendant sends a heartbeat to every neighbour. -/
  | heartbeatSend
  /-- R293: A neighbour receives and judges a heartbeat message. -/
  | heartbeat
  /-- R293: A miss period passes without a valid heartbeat. -/
  | heartbeatMiss
  /-- R294: Evidence lapses after VOTEWIN without a miss or anomaly. -/
  | evidenceLapse
  /-- R295: An attendant receives an accusation against a neighbour. -/
  | accuse
  /-- R295: An attendant receives a vote against a neighbour. -/
  | vote
  /-- R295: An attendant receives a withdrawal of a vote. -/
  | withdraw
  /-- R295: A vote window ends and the tally is dropped. -/
  | voteWindowEnd
  /-- R296: An attendant receives a cordon naming M voters and disables its link. -/
  | cordon
  /-- R298: A cordoned tile's self-test ends and it sends APPEAL. -/
  | selfTestComplete
  /-- R299: A neighbour receives an appeal and sends its verdict. -/
  | appeal
  /-- R299: A neighbour receives a verdict on an appellant. -/
  | verdict
  /-- R299: An appeal window ends below M and the tile stays cordoned. -/
  | appealWindowEnd
  /-- R299: A neighbour receives a readmission and re-enables its link. -/
  | readmit
  /-- R336: Host read of device memory through the interface's translation. -/
  | mrd
  /-- R337: Host posted write of device memory. -/
  | mwr
  /-- R336: Host atomic on device memory in the port's write queue. -/
  | matom
  /-- R337: Host writes an interface's ring tail index. -/
  | dbell
  /-- R338: Sideband management transaction: status, interface settings, firmware, attestation. -/
  | mgmt
  /-- R19: Ring command that accepts or refuses a launch descriptor. -/
  | launch
  /-- R339: Ring command making a system-scope signal. -/
  | signal
  /-- R339: Ring command that stops ring reading until a completion object is satisfied. -/
  | wait
  /-- R339: The awaited completion object is satisfied and ring reading resumes. -/
  | waitResume
  /-- R339: Ring command writing a context or die-context register. -/
  | wrreg
  /-- R329: Ring command writing the depth table indivisibly. -/
  | depth
  /-- R327: Ring command invalidating translations for a range. -/
  | inval
  /-- R341: Opens a loss-scale step, latching SCALE and clearing OVF. -/
  | stepbegin
  /-- R341: Closes the loss-scale step once earlier launches complete. -/
  | stepend
  /-- R341: After the step's launches complete, SCALE and LSCNT are updated. -/
  | lossScaleUpdate
  /-- R339: Rewrites a whole page and clears its quarantine. -/
  | pagewr
  /-- R339: Ends all work of a context and restarts its queues. -/
  | ctxreset
  /-- R301: System write of the attendant configuration register. -/
  | attcfgWrite
  /-- R332: System write of a tile's error counters. -/
  | errcntWrite
  /-- R309: System write of a power or other system register with no row of its own. -/
  | systemRegisterWrite
  /-- R342: Once per dispatch window the die governor sets budget, caps and clock. -/
  | governorUpdate
  /-- R343: A peer's whole link set fails. -/
  | peerLinkLoss
  /-- R346: Reset runs firmware check, training, self-test, attendants and mapping. -/
  | bringUp
  /-- R92: A fetched scalar or lane word whose opcode, function or sub-op is unassigned traps ILLEGAL_ENCODING precisely. -/
  | illegalEncoding
  /-- R40: After 64 consecutive waiting tile cycles without issue, a band's effective class in that stream rises by one, up to 7. -/
  | effectiveClassRise
  /-- R138: A variable-latency lane or scalar instruction, such as a load, atomic, division or vote, writes its result and clears its scoreboard bit. -/
  | variableLatencyResult
  /-- R317: A memory port applies the oldest write-queue entry for a granule, with its merged reductions in arrival order, to the array. -/
  | writeQueueApply
  /-- R294: An attendant receives a message of unassigned TYPE and counts it as an anomaly against its sender. -/
  | unassignedMessage
  deriving DecidableEq, Repr

end Sys2Proof
end

