-- ==== Sys2Proof/WellFormed.lean ====
section
/-!
DEFINITION. Which instructions an instruction word can hold: the types, scopes, conditions, pairs and
ranges each entry permits (spec/05 R92 to R102, spec/07 R139, spec/08 R157, R164). Each check of a
lane shape is a definition of its own. The steps of the device have no word and are well formed.
-/
namespace Sys2Proof

/-- The 64-bit types, whose vector operands are pairs (spec/03 R50). -/
def Ty.wide : Ty → Bool
  | .i64 | .n64 | .f64 => true
  | _ => false

/-- The INT types (spec/07 R139). -/
def Ty.isInt : Ty → Bool
  | .i32 | .n32 | .i64 | .n64 | .i16 | .n16 | .i8 | .n8 => true
  | _ => false

/-- The FP types (spec/07 R139). -/
def Ty.isFp : Ty → Bool
  | .f32 | .f16 | .bf16 | .f64 => true
  | _ => false

/-- The FN types (spec/07 R139). -/
def Ty.isFn : Ty → Bool
  | .f32 | .f16 | .bf16 => true
  | _ => false

/-- INT and FP: every type but bpi (spec/07 R139, spec/08 R157). -/
def Ty.isIntFp (t : Ty) : Bool := t.isInt || t.isFp

/-- The signed integer types. -/
def Ty.signed : Ty → Bool
  | .i32 | .i64 | .i16 | .i8 => true
  | _ => false

/-- i32 and n32 only: the bit fields (spec/07 R144). -/
def Ty.isWord : Ty → Bool
  | .i32 | .n32 => true
  | _ => false

/-- The integer types of 32 and 64 bits (spec/08 R162). -/
def Ty.isInt4 : Ty → Bool
  | .i32 | .n32 | .i64 | .n64 => true
  | _ => false

/-- The types of the arithmetic atomics (spec/08 R162). -/
def Ty.isAtom : Ty → Bool
  | .i32 | .n32 | .i64 | .n64 | .f32 => true
  | _ => false

/-- The types of lred add, min and max (spec/08 R169). -/
def Ty.isLred : Ty → Bool
  | .i32 | .n32 | .i64 | .n64 | .f32 | .f16 | .bf16 => true
  | _ => false

/-- n32 and n64: shuffles and permutes (spec/08 R164). -/
def Ty.isN : Ty → Bool
  | .n32 | .n64 => true
  | _ => false

/-- n32 and f32: rng (spec/07 R154). -/
def Ty.isRng : Ty → Bool
  | .n32 | .f32 => true
  | _ => false

/-- The signed types of abs (spec/07 R143). -/
def Ty.isAbs : Ty → Bool
  | .i32 | .i64 | .i16 | .i8 => true
  | _ => false

/-- A vector register that is named as a pair is even (spec/03 R50). -/
def vregOk (wide : Bool) (n : VReg) : Bool := !wide || n.toNat % 2 == 0

/-- A source that is named as a pair is even; a scalar source is never a pair (spec/07 R135). -/
def Src.ok (wide : Bool) : Src → Bool
  | .v n => vregOk wide n
  | .s _ => true

/-- pg = 0 with the inversion is no encoding (spec/05 R92). -/
def Guard.ok (g : Guard) : Bool := !(g.pg.toNat == 0 && g.neg)

/-- The condition codes of the integer compares (spec/07 R146). -/
def Cond.intOk : Cond → Bool
  | .ord | .uno => false
  | _ => true

/-- The immediate of an L-I form: none for f64, 16 bits for f16 and bf16 (spec/07 R137). -/
def immOk (t : Ty) (imm : W32) : Bool :=
  match t with
  | .f64 => false
  | .f16 | .bf16 => imm.toNat / 65536 == 0
  | _ => true

/-- The codes of trap and ltrap (spec/06 R131, spec/08 R179). -/
def userCode (n : Nat) : Bool := 0x1E0 ≤ n && n ≤ 0x1FF

/-- The addresses of an L-M word: a base, an offset register, or both (spec/05 R101). -/
def MemAddr.ok (m : MemAddr) : Bool := m.base.isSome || m.ofs.isSome

/-- Two sources of the given types; amount is false where vb is a 32-bit operand (spec/07 R135). -/
def Bin.ok (tys : Ty → Bool) (amount : Bool) (o : Bin) : Bool :=
  tys o.ty && vregOk o.ty.wide o.d && o.a.ok o.ty.wide && o.b.ok (o.ty.wide && !amount)

def BinI.ok (tys : Ty → Bool) (o : BinI) : Bool :=
  tys o.ty && vregOk o.ty.wide o.d && o.a.ok o.ty.wide && immOk o.ty o.imm

def BinR.ok (tys : Ty → Bool) (o : BinR) : Bool :=
  tys o.ty && vregOk o.ty.wide o.d && o.a.ok o.ty.wide && o.b.ok o.ty.wide

def BinRI.ok (tys : Ty → Bool) (o : BinRI) : Bool :=
  tys o.ty && vregOk o.ty.wide o.d && o.a.ok o.ty.wide && immOk o.ty o.imm

def Tri.ok (tys : Ty → Bool) (o : Tri) : Bool :=
  tys o.ty && vregOk o.ty.wide o.d && o.a.ok o.ty.wide && o.b.ok o.ty.wide && o.c.ok o.ty.wide

def TriR.ok (tys : Ty → Bool) (o : TriR) : Bool :=
  tys o.ty && vregOk o.ty.wide o.d && o.a.ok o.ty.wide && o.b.ok o.ty.wide && o.c.ok o.ty.wide

def Un.ok (tys : Ty → Bool) (o : Un) : Bool :=
  tys o.ty && vregOk o.ty.wide o.d && o.a.ok o.ty.wide

def UnR.ok (tys : Ty → Bool) (o : UnR) : Bool :=
  tys o.ty && vregOk o.ty.wide o.d && o.a.ok o.ty.wide

def ImmD.ok (o : ImmD) : Bool :=
  o.ty.isIntFp && vregOk o.ty.wide o.d && immOk o.ty o.imm

def SelOp.ok (o : SelOp) : Bool :=
  o.ty.isIntFp && vregOk o.ty.wide o.d && o.a.ok o.ty.wide && o.b.ok o.ty.wide

def CmpOp.ok (tys : Ty → Bool) (conds : Cond → Bool) (o : CmpOp) : Bool :=
  tys o.ty && conds o.cond && o.a.ok o.ty.wide && o.b.ok o.ty.wide

def CmpI.ok (tys : Ty → Bool) (conds : Cond → Bool) (o : CmpI) : Bool :=
  tys o.ty && conds o.cond && o.a.ok o.ty.wide && immOk o.ty o.imm

/-- A conversion: not both sides bpi, and a format word exactly where one side is (spec/07 R152). -/
def CvtOp.ok (o : CvtOp) : Bool :=
  !(o.dst == .bpi && o.src == .bpi) && vregOk o.dst.wide o.d && o.a.ok o.src.wide &&
    (o.fmt.isSome == (o.dst == .bpi || o.src == .bpi))

def RngOp.ok (o : RngOp) : Bool := o.ty.isRng

def LdOp.ok (o : LdOp) : Bool := o.ty.isIntFp && o.m.ok && vregOk o.ty.wide o.d

def LdyOp.ok (o : LdyOp) : Bool := o.m.ok && vregOk true o.d

def StOp.ok (tys : Ty → Bool) (o : StOp) : Bool :=
  tys o.ty && o.m.ok && o.data.ok o.ty.wide

def AtomOp.ok (tys : Ty → Bool) (o : AtomOp) : Bool :=
  tys o.ty && o.m.ok && vregOk o.ty.wide o.d && vregOk o.ty.wide o.c

def VoteUniOp.ok (o : VoteUniOp) : Bool := o.ty.isIntFp && vregOk o.ty.wide o.a

def ShflOp.ok (o : ShflOp) : Bool :=
  vregOk o.wide o.d && vregOk o.wide o.a && o.b.ok o.wide

def PermOp.ok (o : PermOp) : Bool := vregOk o.wide o.d && vregOk o.wide o.a

/-- The types of each reduction (spec/08 R169). -/
def LredFn.tys : LredFn → Ty → Bool
  | .add | .min | .max => Ty.isLred
  | _ => Ty.isInt4

/-- Rounding is used by the floating add alone (spec/08 R169). -/
def LredOp.rounds (fn : LredFn) (t : Ty) : Bool := fn == .add && t.isFp

def LredOp.ok (o : LredOp) : Bool :=
  o.fn.tys o.ty && vregOk o.ty.wide o.a && o.d.ok o.ty.wide &&
    (LredOp.rounds o.fn o.ty || o.rm == .rne)

def MmaOp.ok (o : MmaOp) : Bool := vregOk true o.f

def AccLdOp.ok (o : AccLdOp) : Bool := o.ty.isFn && (o.ty != .f32 || o.rm == .rne)

/-- The register numbers that srr and srw know (spec/15 R303). -/
def sysNum (n : Nat) : Bool :=
  n ≤ 0x008 || (0x010 ≤ n && n ≤ 0x015) || (0x018 ≤ n && n ≤ 0x01E) || (0x020 ≤ n && n ≤ 0x024) ||
    (0x040 ≤ n && n ≤ 0x046) || (0x060 ≤ n && n ≤ 0x067) || n == 0x080 || n == 0x081

/-- The register numbers whose srw has a row of its own in the table. -/
def srwOwnRow (n : Nat) : Bool := n == 0x013 || (0x040 ≤ n && n ≤ 0x046)

/-- An instruction that an instruction word can hold. -/
def Instr.wf : Instr → Bool
  | .cmp c _ _ _ _ => c.intOk
  | .jt _ n | .callt _ n => 1 ≤ n.toNat && n.toNat ≤ 256
  | .srr _ n => sysNum n.toNat
  | .srw n _ => sysNum n.toNat && !srwOwnRow n.toNat
  | .vdec _ n => n.toNat ≤ 8
  | .trap c => userCode c.toNat
  | .laneAdd o | .laneSub o | .laneMul o | .mulhi o | .addsat o | .subsat o | .laneAnd o | .laneOr o
  | .laneXor o | .andn o | .laneMin o | .laneMax o | .div o | .laneRem o => o.ok Ty.isInt false
  | .laneShl o | .laneShr o => o.ok Ty.isInt true
  | .laneAddImm o | .laneSubImm o | .laneMulImm o | .mulhiImm o | .addsatImm o | .subsatImm o
  | .laneAndImm o | .laneOrImm o | .laneXorImm o | .andnImm o | .laneShlImm o | .laneShrImm o
  | .laneMinImm o | .laneMaxImm o | .divImm o | .laneRemImm o => o.ok Ty.isInt
  | .bfe o | .bfi o => o.ok Ty.isWord true
  | .bfeImm o | .bfiImm o => o.ok Ty.isWord
  | .mad o => o.ok Ty.isInt
  | .abs o => o.ok Ty.isAbs
  | .neg o | .lanePopc o | .laneClz o | .ctz o | .brev o => o.ok Ty.isInt
  | .sel o => o.ok
  | .mov o => o.ok Ty.isIntFp
  | .movImm o => o.ok
  | .icmp o => o.ok Ty.isInt Cond.intOk
  | .icmpImm o => o.ok Ty.isInt Cond.intOk
  | .fcmp o => o.ok Ty.isFp (fun _ => true)
  | .fcmpImm o => o.ok Ty.isFp (fun _ => true)
  | .fadd o | .fsub o | .fmul o | .fdiv o => o.ok Ty.isFp
  | .faddImm o | .fsubImm o | .fmulImm o | .fdivImm o => o.ok Ty.isFp
  | .fsqrt o | .frnd o => o.ok Ty.isFp
  | .fmax o | .fmin o => o.ok Ty.isFp false
  | .fmaxImm o | .fminImm o => o.ok Ty.isFp
  | .ffma o => o.ok Ty.isFp
  | .fabs o | .fneg o => o.ok Ty.isFp
  | .fexp o | .fexp2 o | .flog o | .flog2 o | .ftanh o | .fsig o | .frsqrt o | .fsin o | .fcos o =>
      o.ok Ty.isFn
  | .cvt o => o.ok
  | .rng o => o.ok
  | .laneLd o => o.ok
  | .laneLdy o => o.ok
  | .laneSt o => o.ok Ty.isIntFp
  | .atomAdd o | .atomMin o | .atomMax o | .atomXchg o | .atomCas o => o.ok Ty.isAtom
  | .atomAnd o | .atomOr o | .atomXor o | .atomAddsat o => o.ok Ty.isInt4
  | .redAdd o | .redMin o | .redMax o => o.ok Ty.isAtom
  | .redAnd o | .redOr o | .redXor o | .redAddsat o => o.ok Ty.isInt4
  | .voteUni o => o.ok
  | .shfl o => o.ok
  | .perm o => o.ok
  | .lred o => o.ok
  | .ptest t _ a => t.isInt4 && vregOk t.wide a
  | .ltrap c => userCode c.toNat
  | .dlaunch _ a => a.ok true
  | .mma o | .mmah o | .mmav o => o.ok
  | .accLd o => o.ok
  | _ => true

/-- The lane instructions that take no guard (spec/05 R102, spec/08 R156). -/
def Instr.unguarded : Instr → Bool
  | .laneFence _ | .lret | .join _ | .lend | .lsigChk _ | .rlxIn _ _ => true
  | _ => false

/-- The guard of a lane word: any but the inverted p0, and none on an unguarded instruction
(spec/05 R92, R102). -/
def Instr.guardFits (i : Instr) (g : Guard) : Bool :=
  if i.unguarded then g.pg.toNat == 0 && !g.neg else g.ok

end Sys2Proof
end

