-- ==== Sys2Proof/Decode.lean ====
section
/-!
DEFINITION. Decoding instruction words (spec/05 R90 to R105, and the encodings of spec/06 to spec/12),
total on any word and refusing by name, and after it the encoder written from the same tables.
A word is judged for ILLEGAL_ENCODING before RESERVED_NONZERO (R91, R92).
-/
namespace Sys2Proof

/-- Why a word is no instruction (spec/05 R92). -/
inductive DecErr where
  | illegalEncoding
  | reservedNonzero
  deriving DecidableEq, Repr

/-- What decoding answers. -/
inductive Decoded where
  | ok (i : Instr) (x : Extra)
  | bad (e : DecErr)
  deriving DecidableEq, Repr

/-- Bits [lo + n - 1 : lo] of a word. -/
def fld {k : Nat} (w : BitVec k) (lo n : Nat) : BitVec n := w.extractLsb' lo n

/-- One bit of a word. -/
def bit1 {k : Nat} (w : BitVec k) (i : Nat) : Bool := w.getLsbD i

/-- The two encoding checks of a field: the first is ILLEGAL_ENCODING, the second RESERVED_NONZERO. -/
structure Chk where
  ill : Bool
  res : Bool
  deriving DecidableEq, Repr

/-- Both checks of two fields. -/
def Chk.both (a b : Chk) : Chk := ⟨a.ill || b.ill, a.res || b.res⟩

/-- The checks of a list of fields. -/
def Chk.all : List Chk → Chk
  | [] => ⟨false, false⟩
  | c :: cs => c.both (Chk.all cs)

/-- No guard, source register or second word. -/
def Extra.none : Extra := ⟨⟨0, false, 0⟩, 0, 0⟩

/-- Answer the instruction when every field passes, else the first cause in the order of R91. -/
def Chk.giveWith (c : Chk) (i : Instr) (x : Extra) : Decoded :=
  if c.ill then .bad .illegalEncoding else if c.res then .bad .reservedNonzero else .ok i x

/-- A scalar instruction that issue takes nothing from. -/
def Chk.give (c : Chk) (i : Instr) : Decoded := c.giveWith i Extra.none

/-- A scalar word whose fields need no check. -/
def Decoded.all (i : Instr) : Decoded := .ok i Extra.none

/-- A reserved field. -/
def ckZero {n : Nat} (x : BitVec n) : Chk := ⟨false, x != 0#n⟩

/-- A field value that the entry does not assign. -/
def ckIll (b : Bool) : Chk := ⟨b, false⟩

/-! ### Codes (R102) -/

def tyOf? (c : BitVec 4) : Option Ty :=
  match c.toNat with
  | 0 => some .i32 | 1 => some .n32 | 2 => some .i64 | 3 => some .n64 | 4 => some .i16
  | 5 => some .n16 | 6 => some .i8 | 7 => some .n8 | 8 => some .f32 | 9 => some .f16
  | 10 => some .bf16 | 11 => some .bpi | 12 => some .f64 | _ => none

def Ty.code : Ty → Nat
  | .i32 => 0 | .n32 => 1 | .i64 => 2 | .n64 => 3 | .i16 => 4 | .n16 => 5 | .i8 => 6 | .n8 => 7
  | .f32 => 8 | .f16 => 9 | .bf16 => 10 | .bpi => 11 | .f64 => 12

def rmOf? (c : BitVec 3) : Option Rm :=
  match c.toNat with
  | 0 => some .rne | 1 => some .rtz | 2 => some .rup | 3 => some .rdn | 4 => some .rto | _ => none

def Rm.code : Rm → Nat
  | .rne => 0 | .rtz => 1 | .rup => 2 | .rdn => 3 | .rto => 4

def scopeOf? (c : BitVec 4) : Option Scope :=
  match c.toNat with
  | 0 => some .ln | 1 => some .bd | 2 => some .wg | 3 => some .tl | 4 => some .qd
  | 5 => some .gg | 6 => some .di | 7 => some .dv | 8 => some .sy | 9 => some .fb | _ => none

def Scope.code : Scope → Nat
  | .ln => 0 | .bd => 1 | .wg => 2 | .tl => 3 | .qd => 4
  | .gg => 5 | .di => 6 | .dv => 7 | .sy => 8 | .fb => 9

def condOf? (n : Nat) : Option Cond :=
  match n with
  | 0 => some .eq | 1 => some .ne | 2 => some .lt | 3 => some .le
  | 4 => some .gt | 5 => some .ge | 6 => some .ord | 7 => some .uno | _ => none

def Cond.code : Cond → Nat
  | .eq => 0 | .ne => 1 | .lt => 2 | .le => 3 | .gt => 4 | .ge => 5 | .ord => 6 | .uno => 7

def widthOf (n : Nat) : Width :=
  match n with
  | 0 => .w1 | 1 => .w2 | 2 => .w4 | _ => .w8

def Width.code : Width → Nat
  | .w1 => 0 | .w2 => 1 | .w4 => 2 | .w8 => 3

def extOf (n : Nat) : ExtSize :=
  match n with
  | 0 => .b8 | 1 => .b16 | _ => .b32

def ExtSize.code : ExtSize → Nat
  | .b8 => 0 | .b16 => 1 | .b32 => 2

def shflModeOf (n : Nat) : ShflMode :=
  match n with
  | 0 => .idx | 1 => .up | 2 => .down | _ => .xor

def ShflMode.code : ShflMode → Nat
  | .idx => 0 | .up => 1 | .down => 2 | .xor => 3

def lredFnOf (n : Nat) : LredFn :=
  match n with
  | 0 => .add | 1 => .min | 2 => .max | 3 => .and | 4 => .or | _ => .xor

def LredFn.code : LredFn → Nat
  | .add => 0 | .min => 1 | .max => 2 | .and => 3 | .or => 4 | .xor => 5

/-- The type of a field, i32 standing in where the code is none. -/
def tyOf (c : BitVec 4) : Ty := (tyOf? c).getD .i32
def rmOf (c : BitVec 3) : Rm := (rmOf? c).getD .rne
def scopeOf (c : BitVec 4) : Scope := (scopeOf? c).getD .ln
def condOf (n : Nat) : Cond := (condOf? n).getD .eq

/-! ### Scalar words (R93 to R97) -/

/-- sd, sa and sb of a scalar word. -/
def sD (w : W32) : SReg := fld w 20 6
def sA (w : W32) : SReg := fld w 14 6
def sB (w : W32) : SReg := fld w 8 6
/-- fn of an S-R word, sub-op of an S-X word. -/
def sFn (w : W32) : BitVec 8 := fld w 0 8

/-- Major 0x00 (R111). -/
def decMajor00 (w : W32) : Decoded :=
  let d := sD w
  let a := sA w
  let b := sB w
  match (sFn w).toNat with
  | 0x01 => .all (.add d a b)
  | 0x02 => .all (.sub d a b)
  | 0x03 => .all (.mul d a b)
  | 0x04 => .all (.mulhI64 d a b)
  | 0x05 => .all (.mulhN64 d a b)
  | 0x06 => .all (.and d a b)
  | 0x07 => .all (.or d a b)
  | 0x08 => .all (.xor d a b)
  | 0x09 => .all (.shl d a b)
  | 0x0A => .all (.shr d a b)
  | 0x0B => .all (.sar d a b)
  | 0x0C => .all (.minI64 d a b)
  | 0x0D => .all (.maxI64 d a b)
  | 0x0E => .all (.minN64 d a b)
  | 0x0F => .all (.maxN64 d a b)
  | _ => .bad .illegalEncoding

/-- Major 0x01 (R112): fn [2:0] the condition, [4] unsigned, [3] and [7:5] zero. -/
def decCmp (w : W32) : Decoded :=
  let c := (fld w 0 3).toNat
  (Chk.all [ckIll (5 < c || bit1 w 3 || (fld w 5 3) != 0#3), ckZero (fld w 23 3)]).give
    (.cmp (condOf c) (bit1 w 4) (fld w 20 3) (sA w) (sB w))

/-- Majors 0x06 to 0x08: a shift amount, [13:6] reserved (R94, R113). -/
def decShiftImm (mk : SReg → SReg → BitVec 6 → Instr) (w : W32) : Decoded :=
  (ckZero (fld w 6 8)).give (mk (sD w) (sA w) (fld w 0 6))

/-- Major 0x0C (R115). -/
def decMajor0C (w : W32) : Decoded :=
  match (fld w 6 2).toNat with
  | 1 => .all (.adds (sD w) (sA w) (sB w) (fld w 0 6))
  | 2 => .all (.addsw (sD w) (sA w) (sB w) (fld w 0 6))
  | 3 => (ckIll (fld w 0 6 != 0#6)).give (.hins (sD w) (sA w) (sB w))
  | _ => .bad .illegalEncoding

/-- Major 0x0D (R116): sub-op [7:5] the operation, [4:3] the size, [2:0] zero. -/
def decMajor0D (w : W32) : Decoded :=
  let low := fld w 0 3 != 0#3
  let sz := (fld w 3 2).toNat
  match (fld w 5 3).toNat with
  | 1 => (Chk.all [ckIll (low || sz == 3), ckZero (sB w)]).give (.sext (extOf sz) (sD w) (sA w))
  | 2 => (Chk.all [ckIll (low || sz == 3), ckZero (sB w)]).give (.zext (extOf sz) (sD w) (sA w))
  | 3 => (ckIll (low || sz != 0)).give (.ext (sD w) (sA w) (sB w))
  | 4 => (ckIll (low || sz != 0)).give (.exts (sD w) (sA w) (sB w))
  | 5 => (ckIll (low || sz != 0)).give (.ins (sD w) (sA w) (sB w))
  | 6 => (Chk.all [ckIll (low || sz != 0), ckZero (sB w)]).give (.clz (sD w) (sA w))
  | 7 => (Chk.all [ckIll (low || sz != 0), ckZero (sB w)]).give (.popc (sD w) (sA w))
  | _ => .bad .illegalEncoding

/-- Major 0x0E (R117): fn [2:0] the predicate, [3] the inversion, [7:4] zero. -/
def decCsel (w : W32) : Decoded :=
  (ckIll (fld w 4 4 != 0#4)).give (.csel (sD w) (sA w) (sB w) (fld w 0 3) (bit1 w 3))

/-- Major 0x1A (R122). -/
def decMajor1A (w : W32) : Decoded :=
  match (sFn w).toNat with
  | 1 => (Chk.all [ckZero (sD w), ckZero (sB w)]).give (.jr (sA w))
  | 2 => (Chk.all [ckZero (sD w), ckZero (sB w)]).give (.ret (sA w))
  | _ => .bad .illegalEncoding

/-- Majors 0x1B and 0x1C (R123): an entry count from 1 to 256. -/
def decTableJump (mk : SReg → BitVec 14 → Instr) (w : W32) : Decoded :=
  let n : BitVec 14 := fld w 0 14
  (Chk.all [ckIll (!(1 ≤ n.toNat && n.toNat ≤ 256)), ckZero (sD w)]).give (mk (sA w) n)

/-- Major 0x22 (R128, R303). -/
def decSrr (w : W32) : Decoded :=
  let n : BitVec 14 := fld w 0 14
  (Chk.all [ckIll (!sysNum n.toNat), ckZero (sA w)]).give (.srr (sD w) n)

/-- The registers without a row of their own that an srw may write: JTO, STALLCHK, TVEC and RXSEQ (R128, R303). -/
def srwMayWrite (n : Nat) : Bool := n == 0x010 || n == 0x011 || n == 0x018 || n == 0x024

/-- Major 0x23 (R128, R303): eight registers have a row of their own. A read-only number is ILLEGAL_ENCODING, which ranks before
a reserved field (spec/05 R91); with the field zero the meaning of `srw` raises it. -/
def decSrw (w : W32) : Decoded :=
  let n : BitVec 14 := fld w 0 14
  let a := sA w
  let z := Chk.all [ckIll (!sysNum n.toNat ||
    (!srwOwnRow n.toNat && !srwMayWrite n.toNat && (sD w != 0))), ckZero (sD w)]
  let x : Extra := ⟨⟨0, false, 0⟩, a, 0⟩
  match n.toNat with
  | 0x013 => z.giveWith .srwBudleft x
  | 0x040 => z.giveWith .srwDdbase x
  | 0x041 => z.giveWith .srwDdcap x
  | 0x042 => z.giveWith .srwVobase x
  | 0x043 => z.giveWith .srwVocount x
  | 0x044 => z.giveWith .srwSpecdepth x
  | 0x045 => z.giveWith .srwBfqthr x
  | 0x046 => z.giveWith .srwBfqmax x
  | _ => z.give (.srw n a)

/-- The scope code of an engine major's sub-op [7:4] (R102). -/
def sScope (w : W32) : BitVec 4 := fld w 4 4
def ckScope (w : W32) : Chk := ckIll (scopeOf? (sScope w)).isNone

/-- Major 0x26 (R96, R119). -/
def decMajor26 (w : W32) : Decoded :=
  let sc := scopeOf (sScope w)
  let k := (fld w 0 4).toNat
  if k ≤ 3 then
    (Chk.all [ckScope w, ckZero (sB w)]).give (.ldScoped (widthOf k) sc (sD w) (sA w))
  else if k ≤ 7 then
    (Chk.all [ckScope w, ckZero (sD w)]).give (.stScoped (widthOf (k - 4)) sc (sA w) (sB w))
  else if k == 8 then
    (Chk.all [ckScope w, ckZero (sD w), ckZero (sA w), ckZero (sB w)]).give (.scalarFence sc)
  else if k == 9 then
    (Chk.all [ckScope w, ckZero (sB w)]).give (.scalarLdy sc (sD w) (sA w))
  else .bad .illegalEncoding

/-- Major 0x28 (R209). -/
def decCopy (w : W32) : Decoded :=
  match (fld w 6 2).toNat with
  | 0 => .all (.copy (sD w) (sA w) (sB w) (fld w 0 6))
  | 1 => .all (.copyPack (sD w) (sA w) (sB w) (fld w 0 6))
  | 2 => .all (.copyUnpack (sD w) (sA w) (sB w) (fld w 0 6))
  | _ => .bad .illegalEncoding

/-- Major 0x2A (R215). -/
def decBarrier (w : W32) : Decoded :=
  let sc := scopeOf (sScope w)
  match (fld w 0 4).toNat with
  | 0 => (Chk.all [ckScope w, ckZero (sD w)]).give (.binit sc (sA w) (sB w))
  | 1 => (ckScope w).give (.barr sc (sD w) (sA w) (sB w))
  | 2 => (ckScope w).give (.barrT sc (sD w) (sA w) (sB w))
  | 3 => (ckScope w).give (.barrP sc (sD w) (sA w) (sB w))
  | 4 => (ckScope w).give (.bwait sc (sD w) (sA w) (sB w))
  | 5 => (Chk.all [ckScope w, ckZero (sD w), ckZero (sB w)]).give (.bclr sc (sA w))
  | 6 => (Chk.all [ckScope w, ckZero (sD w)]).give (.barrMx sc (sA w) (sB w))
  | _ => .bad .illegalEncoding

/-- Major 0x2B (R208). -/
def decCompletion (w : W32) : Decoded :=
  let sc := scopeOf (sScope w)
  match (fld w 0 4).toNat with
  | 0 => (ckScope w).give (.cwait sc (sD w) (sA w) (sB w))
  | 1 => (Chk.all [ckScope w, ckZero (sD w)]).give (.csig sc (sA w) (sB w))
  | _ => .bad .illegalEncoding

/-- Major 0x2C (R219). -/
def decVdec (w : W32) : Decoded :=
  (Chk.all [ckIll (8 < (fld w 0 4).toNat), ckZero (sD w), ckZero (sB w), ckZero (sScope w)]).give
    (.vdec (sA w) (fld w 0 4))

/-- Major 0x2D (R224). -/
def decGpat (w : W32) : Decoded :=
  match (fld w 0 4).toNat with
  | 0 => (Chk.all [ckZero (sScope w), ckZero (sD w)]).give (.gpatSet (sA w) (sB w))
  | 1 => (Chk.all [ckZero (sScope w), ckZero (sD w), ckZero (sB w)]).give (.gpatClr (sA w))
  | 2 => (Chk.all [ckZero (sScope w), ckZero (sB w)]).give (.gpatGet (sD w) (sA w))
  | _ => .bad .illegalEncoding

/-- Major 0x2E (R226). -/
def decBfq (w : W32) : Decoded :=
  let z := ckZero (sScope w)
  match (fld w 0 4).toNat with
  | 0 => (Chk.all [z, ckZero (sB w)]).give (.bfqReg (sD w) (sA w))
  | 1 => (Chk.all [z, ckZero (sD w), ckZero (sB w)]).give (.bfqUnreg (sA w))
  | 2 => (Chk.all [z, ckZero (sD w)]).give (.bfqSlack (sA w) (sB w))
  | 3 => (Chk.all [z, ckZero (sB w)]).give (.bfqPost (sD w) (sA w))
  | 4 => (Chk.all [z, ckZero (sB w)]).give (.bfqTake (sD w) (sA w))
  | 5 => (Chk.all [z, ckZero (sA w), ckZero (sB w)]).give (.bfqNext (sD w))
  | 6 => (Chk.all [z, ckZero (sD w)]).give (.bfqDone (sA w) (sB w))
  | _ => .bad .illegalEncoding

/-- Major 0x30 (R184, R185). -/
def decAcc (w : W32) : Decoded :=
  match (sFn w).toNat with
  | 1 => (ckZero (sB w)).give (.accAlloc (sD w) (sA w))
  | 2 => (Chk.all [ckZero (sD w), ckZero (sB w)]).give (.accFree (sA w))
  | 3 => (Chk.all [ckZero (sA w), ckZero (sB w)]).give (.accHeld (sD w))
  | _ => .bad .illegalEncoding

/-- Major 0x31 (R189). -/
def decRfence (w : W32) : Decoded :=
  let z := (ckZero (sD w)).both (ckZero (sB w))
  match (sFn w).toNat with
  | 1 => z.give (.rfenceQdAddr (sA w))
  | 2 => (z.both (ckZero (sA w))).give .rfenceQd
  | 3 => z.give (.rfenceDvAddr (sA w))
  | 4 => (z.both (ckZero (sA w))).give .rfenceDv
  | _ => .bad .illegalEncoding

/-- Major 0x32 (R201). The reserved sub-op [7:4] of `mstat` stands where the scope of `mwait` lies, so that it is judged first as a
scope code (R92). -/
def decMstat (w : W32) : Decoded :=
  match (fld w 0 4).toNat with
  | 0 => (Chk.all [⟨(scopeOf? (sScope w)).isNone, sScope w != 0#4⟩, ckZero (sA w), ckZero (sB w)]).give (.mstat (sD w))
  | 1 => (Chk.all [ckScope w, ckZero (sD w), ckZero (sB w)]).give
      (.mwait (scopeOf (sScope w)) (sA w))
  | _ => .bad .illegalEncoding

/-- Major 0x34 (R229). -/
def decRlxBegin (w : W32) : Decoded :=
  (ckZero (sScope w)).give (.rlxBegin (sD w) (sA w) (sB w) (fld w 0 4))

/-- Major 0x35 (R246). -/
def decRlx (w : W32) : Decoded :=
  let z := (ckZero (sA w)).both (ckZero (sB w))
  match (sFn w).toNat with
  | 1 => z.give (.rlxWait (sD w))
  | 2 => (z.both (ckZero (sD w))).give .rlxAbort
  | _ => .bad .illegalEncoding

/-- Major 0x38 (R254). -/
def decDd38 (w : W32) : Decoded :=
  let z := ckZero (sD w)
  let y := z.both (ckZero (sScope w))
  match (fld w 0 4).toNat with
  | 0 => y.give (.ddMk (sA w) (sB w))
  | 1 => z.give (.ddApply (sA w) (sB w) (sScope w))
  | 2 => y.give (.ddIte (sA w) (sB w))
  | 3 => y.give (.ddRestrict (sA w) (sB w))
  | 4 => y.give (.ddExists (sA w) (sB w))
  | _ => .bad .illegalEncoding

/-- Major 0x39 (R254). -/
def decDd39 (w : W32) : Decoded :=
  let y := (ckZero (sD w)).both (ckZero (sScope w))
  match (fld w 0 4).toNat with
  | 0 => y.give (.ddWcount (sA w) (sB w))
  | 1 => y.give (.ddSatcount (sA w) (sB w))
  | _ => .bad .illegalEncoding

/-- Major 0x3A (R254). -/
def decDd3A (w : W32) : Decoded :=
  let y := (ckZero (sD w)).both (ckZero (sScope w))
  match (fld w 0 4).toNat with
  | 0 => y.give (.ddRef (sA w) (sB w))
  | 1 => y.give (.ddDeref (sA w) (sB w))
  | 2 => y.give (.ddSwap (sA w) (sB w))
  | 3 => y.give (.ddOrder (sA w) (sB w))
  | _ => .bad .illegalEncoding

/-- Major 0x3B (R254). -/
def decDd3B (w : W32) : Decoded :=
  let y := (ckZero (sD w)).both (ckZero (sScope w))
  match (fld w 0 4).toNat with
  | 0 => (y.both (ckZero (sA w))).give (.ddGc (sB w))
  | 1 => y.give (.ddStat (sA w) (sB w))
  | _ => .bad .illegalEncoding

/-- Major 0x3C (R132). -/
def decMajor3C (w : W32) : Decoded :=
  let z := Chk.all [ckZero (sD w), ckZero (sA w), ckZero (sB w)]
  match (sFn w).toNat with
  | 0 => z.give .exit
  | 1 => z.give .tretRetry
  | 2 => z.give .tretSkip
  | 3 => z.give .lflush
  | _ => .bad .illegalEncoding

/-- Major 0x3D (R131). -/
def decTrap (w : W32) : Decoded :=
  let c : BitVec 14 := fld w 0 14
  (Chk.all [ckIll (!userCode c.toNat), ckZero (sD w), ckZero (sA w)]).give (.trap c)

/-- Major 0x3E (R133). -/
def decMajor3E (w : W32) : Decoded :=
  match (sFn w).toNat with
  | 0x0 => .all (.hgetN32 (sD w) (sA w) (sB w))
  | 0x1 => .all (.hgetN64 (sD w) (sA w) (sB w))
  | 0x2 => .all (.hgetp (sD w) (sA w) (sB w))
  | 0x3 => (ckZero (sB w)).give (.hstat (sD w) (sA w))
  | 0x8 => .all (.hputN32 (sD w) (sA w) (sB w))
  | 0x9 => .all (.hputN64 (sD w) (sA w) (sB w))
  | 0xA => .all (.hputp (sD w) (sA w) (sB w))
  | 0xB => (Chk.all [ckZero (sD w), ckZero (sB w)]).giveWith .hkill ⟨⟨0, false, 0⟩, sA w, 0⟩
  | _ => .bad .illegalEncoding

/-- A scalar word and the word after it, which only sig.chk reads (R90, R95). -/
def decodeScalar (w next : W32) : Decoded :=
  let d := sD w
  let a := sA w
  let imm : BitVec 14 := fld w 0 14
  let imm20 : BitVec 20 := fld w 0 20
  match (fld w 26 6).toNat with
  | 0x00 => decMajor00 w
  | 0x01 => decCmp w
  | 0x02 => .all (.addi d a imm)
  | 0x03 => .all (.andi d a imm)
  | 0x04 => .all (.ori d a imm)
  | 0x05 => .all (.xori d a imm)
  | 0x06 => decShiftImm .shli w
  | 0x07 => decShiftImm .shri w
  | 0x08 => decShiftImm .sari w
  | 0x09 => .all (.muli d a imm)
  | 0x0A => .all (.movi d imm20)
  | 0x0B => .all (.la d imm20)
  | 0x0C => decMajor0C w
  | 0x0D => decMajor0D w
  | 0x0E => decCsel w
  | 0x10 => .all (.ldN8 d a imm)
  | 0x11 => .all (.ldN16 d a imm)
  | 0x12 => .all (.ldN32 d a imm)
  | 0x13 => .all (.ldN64 d a imm)
  | 0x14 => .all (.stN8 d a imm)
  | 0x15 => .all (.stN16 d a imm)
  | 0x16 => .all (.stN32 d a imm)
  | 0x17 => .all (.stN64 d a imm)
  | 0x18 => .all (.br (fld w 23 3) (bit1 w 22) (fld w 0 22))
  | 0x19 => .all (.call (fld w 23 3) (bit1 w 22) (fld w 0 22))
  | 0x1A => decMajor1A w
  | 0x1B => decTableJump .jt w
  | 0x1C => decTableJump .callt w
  | 0x20 => (ckZero d).give (.lpost imm20)
  | 0x21 => (ckZero (fld w 0 26)).give .lsync
  | 0x22 => decSrr w
  | 0x23 => decSrw w
  | 0x24 => (ckZero d).give (.tgtBind imm20)
  | 0x25 => (Chk.all [ckZero d, ckZero imm20]).giveWith .sigChk ⟨⟨0, false, 0⟩, 0, next⟩
  | 0x26 => decMajor26 w
  | 0x28 => decCopy w
  | 0x29 => .all (.yieldc d a (sB w) (fld w 0 8))
  | 0x2A => decBarrier w
  | 0x2B => decCompletion w
  | 0x2C => decVdec w
  | 0x2D => decGpat w
  | 0x2E => decBfq w
  | 0x30 => decAcc w
  | 0x31 => decRfence w
  | 0x32 => decMstat w
  | 0x34 => decRlxBegin w
  | 0x35 => decRlx w
  | 0x38 => decDd38 w
  | 0x39 => decDd39 w
  | 0x3A => decDd3A w
  | 0x3B => decDd3B w
  | 0x3C => decMajor3C w
  | 0x3D => decTrap w
  | 0x3E => decMajor3E w
  | _ => .bad .illegalEncoding

/-! ### Lane words (R98 to R105) -/

/-- Fields of every lane word (R98). -/
def lLo (w : W96) : BitVec 10 := fld w 86 10
def lStall (w : W96) : BitVec 4 := fld w 78 4
def lGuard (w : W96) : Guard := ⟨fld w 83 3, bit1 w 82, lStall w⟩
def lVd (w : W96) : BitVec 11 := fld w 67 11
def lVa (w : W96) : BitVec 11 := fld w 56 11
def lVb (w : W96) : BitVec 11 := fld w 45 11
def lVc (w : W96) : BitVec 11 := fld w 34 11
/-- Fields of L-R and L-M (R98, R99, R101). -/
def lTy (w : W96) : BitVec 4 := fld w 30 4
def lRm (w : W96) : BitVec 3 := fld w 27 3
def lVds (w : W96) : Bool := bit1 w 26
def lVas (w : W96) : Bool := bit1 w 25
def lVbs (w : W96) : Bool := bit1 w 24
def lVcs (w : W96) : Bool := bit1 w 23
def lScope (w : W96) : BitVec 4 := fld w 19 4
def lCond (w : W96) : BitVec 4 := fld w 15 4
def lSpec (w : W96) : BitVec 15 := fld w 0 15
/-- Fields of L-I (R100). -/
def iImm (w : W96) : W32 := fld w 13 32
def iTy (w : W96) : BitVec 4 := fld w 9 4
def iRm (w : W96) : BitVec 3 := fld w 6 3
def iVds (w : W96) : Bool := bit1 w 5
def iVas (w : W96) : Bool := bit1 w 4
def iVbs (w : W96) : Bool := bit1 w 3
def iCond (w : W96) : BitVec 3 := fld w 0 3
/-- Fields of L-M (R101). -/
def mScope (w : W96) : BitVec 4 := fld w 20 4

/-- The guard: pg = 0 with negate = 1 is illegal (R92). -/
def ckGuard (w : W96) : Chk := ckIll (fld w 83 3 == 0#3 && bit1 w 82)
/-- An unguarded instruction (R102). -/
def ckUnguarded (w : W96) : Chk := ckIll (fld w 83 3 != 0#3 || bit1 w 82)

/-- Answer a lane instruction with the guard and stall count of its word. -/
def Chk.lane (c : Chk) (w : W96) (i : Instr) : Decoded := c.giveWith i ⟨lGuard w, 0, 0⟩

/-- An operand that the entry does not name, with its scalar bit (R92). -/
def ckNo (n : BitVec 11) (s : Bool) : Chk := ⟨false, s || n != 0#11⟩
/-- A vector register only. -/
def ckV (wide : Bool) (n : BitVec 11) (s : Bool) : Chk := ckIll (s || (wide && n.toNat % 2 == 1))
/-- The reserved bits [10:6] of a scalar in an operand field (R102). -/
def ckS6 (n : BitVec 11) : Chk := ckZero (fld n 6 5)
/-- A vector or scalar register. -/
def ckVS (wide : Bool) (n : BitVec 11) (s : Bool) : Chk :=
  if s then ckS6 n else ckV wide n false
/-- A scalar register whose bit must be set. -/
def ckS (n : BitVec 11) (s : Bool) : Chk := if s then ckS6 n else ckIll true
/-- A predicate, [10:3] reserved (R102). -/
def ckP (n : BitVec 11) (s : Bool) : Chk := ⟨s, fld n 3 8 != 0#8⟩
/-- A scalar predicate as the destination of a vote: VDS = 1 is required (spec/08 R164, R166). -/
def ckQ (n : BitVec 11) (s : Bool) : Chk := ⟨!s, fld n 3 8 != 0#8⟩

/-- The source that a field and its scalar bit name. -/
def srcOf (n : BitVec 11) (s : Bool) : Src := if s then .s (fld n 0 6) else .v n

/-- A type the entry permits. -/
def ckTy (tys : Ty → Bool) (c : BitVec 4) : Chk := ckIll (!((tyOf? c).any tys))
/-- A type field that the entry does not use: 13 to 15 are judged as codes first (R92). -/
def ckNoTy (c : BitVec 4) : Chk := ⟨12 < c.toNat, c != 0#4⟩
def ckRm (c : BitVec 3) : Chk := ckIll (rmOf? c).isNone
def ckNoRm (c : BitVec 3) : Chk := ⟨4 < c.toNat, c != 0#3⟩
def ckNoScope (c : BitVec 4) : Chk := ⟨9 < c.toNat, c != 0#4⟩
def ckNoCond (c : BitVec 4) : Chk := ⟨7 < c.toNat, c != 0#4⟩

/-- SCOPE, COND and SPEC of an L-R word that uses none of them (R99). -/
def ckTail (w : W96) : Chk := Chk.all [ckNoScope (lScope w), ckNoCond (lCond w), ckZero (lSpec w)]

/-- ty, rm and the tail of an L-R word that uses none of them. -/
def ckPlain (w : W96) : Chk := Chk.all [ckNoTy (lTy w), ckNoRm (lRm w), ckTail w]

/-- L-R, two sources. `amount`: vb is a 32-bit operand (spec/07 R135). -/
def dBin (tys : Ty → Bool) (amount : Bool) (mk : Bin → Instr) (w : W96) : Decoded :=
  let t := tyOf (lTy w)
  (Chk.all [ckGuard w, ckTy tys (lTy w), ckNoRm (lRm w), ckV t.wide (lVd w) (lVds w),
    ckVS t.wide (lVa w) (lVas w), ckVS (t.wide && !amount) (lVb w) (lVbs w), ckNo (lVc w) (lVcs w),
    ckTail w]).lane w (mk ⟨t, lVd w, srcOf (lVa w) (lVas w), srcOf (lVb w) (lVbs w)⟩)

/-- L-R, two sources and a rounding mode. -/
def dBinR (mk : BinR → Instr) (w : W96) : Decoded :=
  let t := tyOf (lTy w)
  (Chk.all [ckGuard w, ckTy Ty.isFp (lTy w), ckRm (lRm w), ckV t.wide (lVd w) (lVds w),
    ckVS t.wide (lVa w) (lVas w), ckVS t.wide (lVb w) (lVbs w), ckNo (lVc w) (lVcs w),
    ckTail w]).lane w
    (mk ⟨t, rmOf (lRm w), lVd w, srcOf (lVa w) (lVas w), srcOf (lVb w) (lVbs w)⟩)

/-- L-R, three sources. -/
def dTri (tys : Ty → Bool) (mk : Tri → Instr) (w : W96) : Decoded :=
  let t := tyOf (lTy w)
  (Chk.all [ckGuard w, ckTy tys (lTy w), ckNoRm (lRm w), ckV t.wide (lVd w) (lVds w),
    ckVS t.wide (lVa w) (lVas w), ckVS t.wide (lVb w) (lVbs w), ckVS t.wide (lVc w) (lVcs w),
    ckTail w]).lane w
    (mk ⟨t, lVd w, srcOf (lVa w) (lVas w), srcOf (lVb w) (lVbs w), srcOf (lVc w) (lVcs w)⟩)

/-- L-R, three sources and a rounding mode. -/
def dTriR (mk : TriR → Instr) (w : W96) : Decoded :=
  let t := tyOf (lTy w)
  (Chk.all [ckGuard w, ckTy Ty.isFp (lTy w), ckRm (lRm w), ckV t.wide (lVd w) (lVds w),
    ckVS t.wide (lVa w) (lVas w), ckVS t.wide (lVb w) (lVbs w), ckVS t.wide (lVc w) (lVcs w),
    ckTail w]).lane w
    (mk ⟨t, rmOf (lRm w), lVd w, srcOf (lVa w) (lVas w), srcOf (lVb w) (lVbs w),
      srcOf (lVc w) (lVcs w)⟩)

/-- L-R, one source. -/
def dUn (tys : Ty → Bool) (mk : Un → Instr) (w : W96) : Decoded :=
  let t := tyOf (lTy w)
  (Chk.all [ckGuard w, ckTy tys (lTy w), ckNoRm (lRm w), ckV t.wide (lVd w) (lVds w),
    ckVS t.wide (lVa w) (lVas w), ckNo (lVb w) (lVbs w), ckNo (lVc w) (lVcs w),
    ckTail w]).lane w (mk ⟨t, lVd w, srcOf (lVa w) (lVas w)⟩)

/-- L-R, one source and a rounding mode. -/
def dUnR (mk : UnR → Instr) (w : W96) : Decoded :=
  let t := tyOf (lTy w)
  (Chk.all [ckGuard w, ckTy Ty.isFp (lTy w), ckRm (lRm w), ckV t.wide (lVd w) (lVds w),
    ckVS t.wide (lVa w) (lVas w), ckNo (lVb w) (lVbs w), ckNo (lVc w) (lVcs w),
    ckTail w]).lane w (mk ⟨t, rmOf (lRm w), lVd w, srcOf (lVa w) (lVas w)⟩)

/-- The immediate of an L-I word at its type (spec/07 R137). -/
def ckImm (t : Ty) (imm : W32) : Chk :=
  ⟨t == .f64, (t == .f16 || t == .bf16) && imm.toNat / 65536 != 0⟩

/-- L-I, one source and an immediate (spec/07 R137). -/
def dBinI (tys : Ty → Bool) (mk : BinI → Instr) (w : W96) : Decoded :=
  let t := tyOf (iTy w)
  (Chk.all [ckGuard w, ckTy tys (iTy w), ckNoRm (iRm w), ckV t.wide (lVd w) (iVds w),
    ckVS t.wide (lVa w) (iVas w), ckNo (lVb w) (iVbs w), ckZero (iCond w),
    ckImm t (iImm w)]).lane w (mk ⟨t, lVd w, srcOf (lVa w) (iVas w), iImm w⟩)

/-- L-I, one source, an immediate and a rounding mode. -/
def dBinRI (mk : BinRI → Instr) (w : W96) : Decoded :=
  let t := tyOf (iTy w)
  (Chk.all [ckGuard w, ckTy Ty.isFp (iTy w), ckRm (iRm w), ckV t.wide (lVd w) (iVds w),
    ckVS t.wide (lVa w) (iVas w), ckNo (lVb w) (iVbs w), ckZero (iCond w),
    ckImm t (iImm w)]).lane w
    (mk ⟨t, rmOf (iRm w), lVd w, srcOf (lVa w) (iVas w), iImm w⟩)

/-- mov with an immediate (spec/07 R137, R145). -/
def dImmD (mk : ImmD → Instr) (w : W96) : Decoded :=
  let t := tyOf (iTy w)
  (Chk.all [ckGuard w, ckTy Ty.isIntFp (iTy w), ckNoRm (iRm w), ckV t.wide (lVd w) (iVds w),
    ckNo (lVa w) (iVas w), ckNo (lVb w) (iVbs w), ckZero (iCond w), ckImm t (iImm w)]).lane w
    (mk ⟨t, lVd w, iImm w⟩)

/-- sel (spec/07 R145). -/
def dSel (w : W96) : Decoded :=
  let t := tyOf (lTy w)
  (Chk.all [ckGuard w, ckTy Ty.isIntFp (lTy w), ckNoRm (lRm w), ckV t.wide (lVd w) (lVds w),
    ckVS t.wide (lVa w) (lVas w), ckVS t.wide (lVb w) (lVbs w), ckP (lVc w) (lVcs w),
    ckNoScope (lScope w), ckNoCond (lCond w), ckZero (fld w 1 14)]).lane w
    (.sel ⟨t, lVd w, srcOf (lVa w) (lVas w), srcOf (lVb w) (lVbs w), fld (lVc w) 0 3,
      bit1 w 0⟩)

/-- icmp and fcmp, L-R (spec/07 R146, R150). -/
def dCmp (tys : Ty → Bool) (conds : Cond → Bool) (mk : CmpOp → Instr) (w : W96) : Decoded :=
  let t := tyOf (lTy w)
  (Chk.all [ckGuard w, ckTy tys (lTy w), ckNoRm (lRm w), ckP (lVd w) (lVds w),
    ckVS t.wide (lVa w) (lVas w), ckVS t.wide (lVb w) (lVbs w), ckNo (lVc w) (lVcs w),
    ckNoScope (lScope w), ckIll (!((condOf? (lCond w).toNat).any conds)), ckZero (lSpec w)]).lane w
    (mk ⟨condOf (lCond w).toNat, t, fld (lVd w) 0 3, srcOf (lVa w) (lVas w),
      srcOf (lVb w) (lVbs w)⟩)

/-- icmp and fcmp, L-I. -/
def dCmpI (tys : Ty → Bool) (conds : Cond → Bool) (mk : CmpI → Instr) (w : W96) : Decoded :=
  let t := tyOf (iTy w)
  (Chk.all [ckGuard w, ckTy tys (iTy w), ckNoRm (iRm w), ckP (lVd w) (iVds w),
    ckVS t.wide (lVa w) (iVas w), ckNo (lVb w) (iVbs w),
    ckIll (!((condOf? (iCond w).toNat).any conds)), ckImm t (iImm w)]).lane w
    (mk ⟨condOf (iCond w).toNat, t, fld (lVd w) 0 3, srcOf (lVa w) (iVas w), iImm w⟩)

/-- A destination and no source: lidx, lcause, rlx.step, rlx.res. -/
def dDst (mk : VReg → Instr) (w : W96) : Decoded :=
  (Chk.all [ckGuard w, ckPlain w, ckV false (lVd w) (lVds w), ckNo (lVa w) (lVas w),
    ckNo (lVb w) (lVbs w), ckNo (lVc w) (lVcs w)]).lane w (mk (lVd w))

/-- cvt (spec/07 R152): D in ty, S in SPEC [3:0], a format word in vb when one side is bpi. -/
def dCvt (w : W96) : Decoded :=
  let d := tyOf (lTy w)
  let s := tyOf (fld w 0 4)
  let planes := d == .bpi || s == .bpi
  (Chk.all [ckGuard w, ckTy (fun _ => true) (lTy w), ckTy (fun _ => true) (fld w 0 4),
    ckIll (d == .bpi && s == .bpi), ckRm (lRm w), ckV d.wide (lVd w) (lVds w),
    ckVS s.wide (lVa w) (lVas w),
    (if planes then ckVS false (lVb w) (lVbs w) else ckNo (lVb w) (lVbs w)),
    ckNo (lVc w) (lVcs w), ckNoScope (lScope w), ckNoCond (lCond w), ckZero (fld w 4 11)]).lane w
    (.cvt ⟨d, s, rmOf (lRm w), lVd w, srcOf (lVa w) (lVas w),
      if planes then some (srcOf (lVb w) (lVbs w)) else none⟩)

/-- rng (spec/07 R154). -/
def dRng (w : W96) : Decoded :=
  (Chk.all [ckGuard w, ckTy Ty.isRng (lTy w), ckNoRm (lRm w), ckV false (lVd w) (lVds w),
    ckVS false (lVa w) (lVas w), ckS (lVb w) (lVbs w), ckS (lVc w) (lVcs w), ckTail w]).lane w
    (.rng ⟨tyOf (lTy w), lVd w, srcOf (lVa w) (lVas w), fld (lVb w) 0 6, fld (lVc w) 0 6⟩)

/-- The address fields of an L-M word (R101, spec/08 R157). -/
def ckMem (w : W96) : Chk :=
  Chk.all [ckIll (!bit1 w 26 && !bit1 w 25), ckIll (scopeOf? (mScope w)).isNone, ckNoRm (lRm w),
    ckZero (fld w 51 5), (if bit1 w 26 then ckIll false else ckZero (fld w 45 6)),
    (if bit1 w 25 then ckIll false else ckZero (lVa w))]

def memOf (w : W96) : MemAddr :=
  ⟨if bit1 w 26 then some (fld w 45 6) else none, if bit1 w 25 then some (lVa w) else none,
    fld w 0 20⟩

/-- ld (spec/08 R157). -/
def dLd (w : W96) : Decoded :=
  let t := tyOf (lTy w)
  (Chk.all [ckGuard w, ckTy Ty.isIntFp (lTy w), ckMem w, ckV t.wide (lVd w) (bit1 w 24),
    ckZero (lVc w)]).lane w (.laneLd ⟨t, scopeOf (mScope w), memOf w, lVd w⟩)

/-- ldy (spec/08 R160). -/
def dLdy (w : W96) : Decoded :=
  (Chk.all [ckGuard w, ckTy (· == .n64) (lTy w), ckMem w, ckV true (lVd w) (bit1 w 24),
    ckZero (lVc w)]).lane w (.laneLdy ⟨scopeOf (mScope w), memOf w, lVd w⟩)

/-- st and the reductions, where VDSC is allowed (spec/08 R157). -/
def dSt (tys : Ty → Bool) (mk : StOp → Instr) (w : W96) : Decoded :=
  let t := tyOf (lTy w)
  (Chk.all [ckGuard w, ckTy tys (lTy w), ckMem w, ckVS t.wide (lVd w) (bit1 w 24),
    ckZero (lVc w)]).lane w
    (mk ⟨t, scopeOf (mScope w), memOf w, srcOf (lVd w) (bit1 w 24)⟩)

/-- The atomics (spec/08 R157, R162). -/
def dAtom (tys : Ty → Bool) (mk : AtomOp → Instr) (w : W96) : Decoded :=
  let t := tyOf (lTy w)
  (Chk.all [ckGuard w, ckTy tys (lTy w), ckMem w, ckV t.wide (lVd w) (bit1 w 24),
    ckV t.wide (lVc w) false]).lane w
    (mk ⟨t, scopeOf (mScope w), memOf w, lVd w, lVc w⟩)

/-- fence (spec/08 R163). -/
def dFence (w : W96) : Decoded :=
  (Chk.all [ckUnguarded w, ckNoTy (lTy w), ckNoRm (lRm w), ckNo (lVd w) (lVds w),
    ckNo (lVa w) (lVas w), ckNo (lVb w) (lVbs w), ckNo (lVc w) (lVcs w),
    ckIll (scopeOf? (lScope w)).isNone, ckNoCond (lCond w), ckZero (lSpec w)]).lane w
    (.laneFence (scopeOf (lScope w)))

/-- rm, SCOPE and COND of the cross-lane instructions, which use none of them (spec/08 R156, R164). -/
def ckCross (w : W96) : Chk := Chk.all [ckNoRm (lRm w), ckNoScope (lScope w), ckNoCond (lCond w)]

/-- ballot (spec/08 R165). -/
def dBallot (w : W96) : Decoded :=
  let rest := Chk.all [ckGuard w, ckCross w, ckP (lVa w) (lVas w), ckNo (lVb w) (lVbs w),
    ckNo (lVc w) (lVcs w)]
  if lVds w then
    (Chk.all [rest, ckTy (· == .n64) (lTy w), ckS6 (lVd w), ckZero (fld w 1 14)]).lane w
      (.ballot (.s (fld (lVd w) 0 6) (bit1 w 0)) (fld (lVa w) 0 3))
  else
    (Chk.all [rest, ckTy (· == .n32) (lTy w), ckZero (lSpec w)]).lane w
      (.ballot (.v (lVd w)) (fld (lVa w) 0 3))

/-- vote (spec/08 R166). -/
def dVote (w : W96) : Decoded :=
  let rest := Chk.all [ckGuard w, ckCross w, ckNo (lVb w) (lVbs w), ckNo (lVc w) (lVcs w),
    ckZero (fld w 3 12)]
  let p : PReg := fld (lVa w) 0 3
  let q : QReg := fld (lVd w) 0 3
  match (fld w 0 3).toNat with
  | 0 => (Chk.all [rest, ckNoTy (lTy w), ckS (lVd w) (lVds w), ckP (lVa w) (lVas w)]).lane w
      (.voteCnt (fld (lVd w) 0 6) p)
  | 1 => (Chk.all [rest, ckNoTy (lTy w), ckQ (lVd w) (lVds w), ckP (lVa w) (lVas w)]).lane w
      (.voteAny q p)
  | 2 => (Chk.all [rest, ckNoTy (lTy w), ckQ (lVd w) (lVds w), ckP (lVa w) (lVas w)]).lane w
      (.voteAll q p)
  | 3 => (Chk.all [rest, ckTy Ty.isIntFp (lTy w), ckQ (lVd w) (lVds w),
      ckV (tyOf (lTy w)).wide (lVa w) (lVas w)]).lane w
      (.voteUni ⟨tyOf (lTy w), q, lVa w⟩)
  | _ => .bad .illegalEncoding

/-- shfl (spec/08 R167): under n64 the amount is a pair. -/
def dShfl (w : W96) : Decoded :=
  let t := tyOf (lTy w)
  (Chk.all [ckGuard w, ckCross w, ckTy Ty.isN (lTy w), ckIll (3 < (fld w 0 3).toNat),
    ckV t.wide (lVd w) (lVds w), ckV t.wide (lVa w) (lVas w), ckVS t.wide (lVb w) (lVbs w),
    ckNo (lVc w) (lVcs w), ckZero (fld w 6 9)]).lane w
    (.shfl ⟨shflModeOf (fld w 0 3).toNat, t.wide, lVd w, lVa w, srcOf (lVb w) (lVbs w),
      fld w 3 3⟩)

/-- perm (spec/08 R168): the targets are n32. -/
def dPerm (w : W96) : Decoded :=
  let t := tyOf (lTy w)
  (Chk.all [ckGuard w, ckCross w, ckTy Ty.isN (lTy w), ckV t.wide (lVd w) (lVds w),
    ckV t.wide (lVa w) (lVas w), ckVS false (lVb w) (lVbs w), ckNo (lVc w) (lVcs w),
    ckZero (fld w 0 3), ckZero (fld w 6 9)]).lane w
    (.perm ⟨t.wide, lVd w, lVa w, srcOf (lVb w) (lVbs w), fld w 3 3⟩)

/-- lred (spec/08 R169). -/
def dLred (w : W96) : Decoded :=
  let t := tyOf (lTy w)
  let k := (fld w 0 3).toNat
  let fn := lredFnOf k
  (Chk.all [ckGuard w, ckIll (5 < k), ckTy fn.tys (lTy w),
    (if LredOp.rounds fn t then ckRm (lRm w) else ckNoRm (lRm w)), ckVS t.wide (lVd w) (lVds w),
    ckV t.wide (lVa w) (lVas w), ckNo (lVb w) (lVbs w), ckNo (lVc w) (lVcs w),
    ckNoScope (lScope w), ckNoCond (lCond w), ckZero (fld w 3 12)]).lane w
    (.lred ⟨fn, t, rmOf (lRm w), srcOf (lVd w) (lVds w), lVa w⟩)

/-- plog (spec/08 R170). -/
def dPlog (w : W96) : Decoded :=
  (Chk.all [ckGuard w, ckCross w, ckNoTy (lTy w), ckP (lVd w) (lVds w), ckP (lVa w) (lVas w),
    ckP (lVb w) (lVbs w), ckNo (lVc w) (lVcs w), ckZero (fld w 4 11)]).lane w
    (.plog ⟨fld w 0 4, fld (lVd w) 0 3, fld (lVa w) 0 3, fld (lVb w) 0 3⟩)

/-- ptest. -/
def dPtest (w : W96) : Decoded :=
  let t := tyOf (lTy w)
  (Chk.all [ckGuard w, ckTy Ty.isInt4 (lTy w), ckNoRm (lRm w), ckTail w, ckP (lVd w) (lVds w),
    ckV t.wide (lVa w) (lVas w), ckNo (lVb w) (lVbs w), ckNo (lVc w) (lVcs w)]).lane w
    (.ptest t (fld (lVd w) 0 3) (lVa w))

/-- pget. -/
def dPget (w : W96) : Decoded :=
  (Chk.all [ckGuard w, ckPlain w, ckV false (lVd w) (lVds w), ckP (lVa w) (lVas w),
    ckNo (lVb w) (lVbs w), ckNo (lVc w) (lVcs w)]).lane w (.pget (lVd w) (fld (lVa w) 0 3))

/-- ty, rm, VDS, VBS and COND of an L-I control word (spec/08 R171, R179). -/
def ckCtl (w : W96) : Chk :=
  Chk.all [ckNoTy (iTy w), ckNoRm (iRm w), ckNo (lVd w) (iVds w), ckNo (lVb w) (iVbs w),
    ckZero (iCond w)]

/-- bra, lcall, ltrap; `bad` says which immediates the entry does not permit. -/
def dImmOp (bad : W32 → Bool) (mk : W32 → Instr) (w : W96) : Decoded :=
  (Chk.all [ckGuard w, ckIll (bad (iImm w)), ckCtl w, ckNo (lVa w) (iVas w)]).lane w
    (mk (iImm w))

/-- bri and lcalli. -/
def dIdx (mk : Src → W32 → Instr) (w : W96) : Decoded :=
  (Chk.all [ckGuard w, ckCtl w, ckVS false (lVa w) (iVas w)]).lane w
    (mk (srcOf (lVa w) (iVas w)) (iImm w))

/-- join and lsig.chk, unguarded. -/
def dUImm (mk : W32 → Instr) (w : W96) : Decoded :=
  (Chk.all [ckUnguarded w, ckCtl w, ckNo (lVa w) (iVas w)]).lane w (mk (iImm w))

/-- The operands of an L-R word that names none. -/
def ckNoOps (w : W96) : Chk :=
  Chk.all [ckPlain w, ckNo (lVd w) (lVds w), ckNo (lVa w) (lVas w), ckNo (lVb w) (lVbs w),
    ckNo (lVc w) (lVcs w)]

/-- dlaunch (spec/08 R171, R178). -/
def dDlaunch (w : W96) : Decoded :=
  (Chk.all [ckGuard w, ckPlain w, ckV false (lVd w) (lVds w), ckVS true (lVa w) (lVas w),
    ckNo (lVb w) (lVbs w), ckNo (lVc w) (lVcs w)]).lane w
    (.dlaunch (lVd w) (srcOf (lVa w) (lVas w)))

/-- mma, mmah and mmav (spec/09 R191). -/
def dMma (mk : MmaOp → Instr) (w : W96) : Decoded :=
  (Chk.all [ckGuard w, ckNoTy (lTy w), ckRm (lRm w), ckTail w, ckV true (lVd w) (lVds w),
    ckS (lVa w) (lVas w), ckS (lVb w) (lVbs w), ckS (lVc w) (lVcs w)]).lane w
    (mk ⟨rmOf (lRm w), lVd w, fld (lVa w) 0 6, fld (lVb w) 0 6, fld (lVc w) 0 6⟩)

/-- acc.ld (spec/09 R198). -/
def dAccLd (w : W96) : Decoded :=
  let t := tyOf (lTy w)
  (Chk.all [ckGuard w, ckTy Ty.isFn (lTy w), (if t == .f32 then ckNoRm (lRm w) else ckRm (lRm w)),
    ckTail w, ckV false (lVd w) (lVds w), ckS (lVa w) (lVas w), ckNo (lVb w) (lVbs w),
    ckNo (lVc w) (lVcs w)]).lane w (.accLd ⟨t, rmOf (lRm w), lVd w, fld (lVa w) 0 6⟩)

/-- acc.st (spec/09 R198). -/
def dAccSt (w : W96) : Decoded :=
  (Chk.all [ckGuard w, ckTy (· == .f32) (lTy w), ckNoRm (lRm w), ckTail w, ckNo (lVd w) (lVds w),
    ckS (lVa w) (lVas w), ckVS false (lVb w) (lVbs w), ckNo (lVc w) (lVcs w)]).lane w
    (.accSt (fld (lVa w) 0 6) (srcOf (lVb w) (lVbs w)))

/-- acc.out (spec/09 R198). -/
def dAccOut (w : W96) : Decoded :=
  (Chk.all [ckGuard w, ckNoTy (lTy w), ckRm (lRm w), ckTail w, ckV false (lVd w) (lVds w),
    ckS (lVa w) (lVas w), ckS (lVb w) (lVbs w), ckNo (lVc w) (lVcs w)]).lane w
    (.accOut ⟨rmOf (lRm w), lVd w, fld (lVa w) 0 6, fld (lVb w) 0 6⟩)

/-- fvote (spec/09 R205). -/
def dFvote (w : W96) : Decoded :=
  (Chk.all [ckGuard w, ckPlain w, ckS (lVd w) (lVds w), ckVS false (lVa w) (lVas w),
    ckNo (lVb w) (lVbs w), ckNo (lVc w) (lVcs w)]).lane w
    (.fvote (fld (lVd w) 0 6) (srcOf (lVa w) (lVas w)))

/-- ty, rm, SCOPE, COND and SPEC [14:3] of rlx.in, rlx.out and rlx.get (spec/11 R236). -/
def ckRlx (w : W96) : Chk :=
  Chk.all [ckNoTy (lTy w), ckNoRm (lRm w), ckNoScope (lScope w), ckNoCond (lCond w),
    ckZero (fld w 3 12), ckNo (lVb w) (lVbs w), ckNo (lVc w) (lVcs w)]

def dRlxIn (w : W96) : Decoded :=
  (Chk.all [ckUnguarded w, ckRlx w, ckV false (lVd w) (lVds w), ckNo (lVa w) (lVas w)]).lane w
    (.rlxIn (lVd w) (fld w 0 3))

def dRlxOut (w : W96) : Decoded :=
  (Chk.all [ckGuard w, ckRlx w, ckNo (lVd w) (lVds w), ckV false (lVa w) (lVas w)]).lane w
    (.rlxOut (lVa w) (fld w 0 3))

def dRlxGet (w : W96) : Decoded :=
  (Chk.all [ckGuard w, ckRlx w, ckV false (lVd w) (lVds w), ckNo (lVa w) (lVas w)]).lane w
    (.rlxGet (lVd w) (fld w 0 3))

/-- Lane opcodes 0x000 to 0x1FF (spec/07 R139). -/
def decodeCompute (lo : Nat) (w : W96) : Decoded :=
  match lo with
  | 0x001 => dBin Ty.isInt false .laneAdd w
  | 0x081 => dBinI Ty.isInt .laneAddImm w
  | 0x002 => dBin Ty.isInt false .laneSub w
  | 0x082 => dBinI Ty.isInt .laneSubImm w
  | 0x003 => dBin Ty.isInt false .laneMul w
  | 0x083 => dBinI Ty.isInt .laneMulImm w
  | 0x004 => dBin Ty.isInt false .mulhi w
  | 0x084 => dBinI Ty.isInt .mulhiImm w
  | 0x005 => dTri Ty.isInt .mad w
  | 0x006 => dBin Ty.isInt false .addsat w
  | 0x086 => dBinI Ty.isInt .addsatImm w
  | 0x007 => dBin Ty.isInt false .subsat w
  | 0x087 => dBinI Ty.isInt .subsatImm w
  | 0x008 => dBin Ty.isInt false .laneAnd w
  | 0x088 => dBinI Ty.isInt .laneAndImm w
  | 0x009 => dBin Ty.isInt false .laneOr w
  | 0x089 => dBinI Ty.isInt .laneOrImm w
  | 0x00A => dBin Ty.isInt false .laneXor w
  | 0x08A => dBinI Ty.isInt .laneXorImm w
  | 0x00B => dBin Ty.isInt false .andn w
  | 0x08B => dBinI Ty.isInt .andnImm w
  | 0x00C => dBin Ty.isInt true .laneShl w
  | 0x08C => dBinI Ty.isInt .laneShlImm w
  | 0x00D => dBin Ty.isInt true .laneShr w
  | 0x08D => dBinI Ty.isInt .laneShrImm w
  | 0x00E => dBin Ty.isInt false .laneMin w
  | 0x08E => dBinI Ty.isInt .laneMinImm w
  | 0x00F => dBin Ty.isInt false .laneMax w
  | 0x08F => dBinI Ty.isInt .laneMaxImm w
  | 0x010 => dUn Ty.isAbs .abs w
  | 0x011 => dUn Ty.isInt .neg w
  | 0x012 => dBin Ty.isInt false .div w
  | 0x092 => dBinI Ty.isInt .divImm w
  | 0x013 => dBin Ty.isInt false .laneRem w
  | 0x093 => dBinI Ty.isInt .laneRemImm w
  | 0x014 => dBin Ty.isWord true .bfe w
  | 0x094 => dBinI Ty.isWord .bfeImm w
  | 0x015 => dBin Ty.isWord true .bfi w
  | 0x095 => dBinI Ty.isWord .bfiImm w
  | 0x016 => dUn Ty.isInt .lanePopc w
  | 0x017 => dUn Ty.isInt .laneClz w
  | 0x018 => dUn Ty.isInt .ctz w
  | 0x019 => dUn Ty.isInt .brev w
  | 0x01A => dSel w
  | 0x01B => dUn Ty.isIntFp .mov w
  | 0x09B => dImmD .movImm w
  | 0x01C => dCmp Ty.isInt Cond.intOk .icmp w
  | 0x09C => dCmpI Ty.isInt Cond.intOk .icmpImm w
  | 0x01D => dDst .lidx w
  | 0x101 => dBinR .fadd w
  | 0x181 => dBinRI .faddImm w
  | 0x102 => dBinR .fsub w
  | 0x182 => dBinRI .fsubImm w
  | 0x103 => dBinR .fmul w
  | 0x183 => dBinRI .fmulImm w
  | 0x104 => dBinR .fdiv w
  | 0x184 => dBinRI .fdivImm w
  | 0x105 => dUnR .fsqrt w
  | 0x106 => dBin Ty.isFp false .fmax w
  | 0x186 => dBinI Ty.isFp .fmaxImm w
  | 0x107 => dBin Ty.isFp false .fmin w
  | 0x187 => dBinI Ty.isFp .fminImm w
  | 0x108 => dTriR .ffma w
  | 0x109 => dUn Ty.isFp .fabs w
  | 0x10A => dUn Ty.isFp .fneg w
  | 0x10B => dCmp Ty.isFp (fun _ => true) .fcmp w
  | 0x18B => dCmpI Ty.isFp (fun _ => true) .fcmpImm w
  | 0x10C => dUnR .frnd w
  | 0x110 => dUn Ty.isFn .fexp w
  | 0x111 => dUn Ty.isFn .fexp2 w
  | 0x112 => dUn Ty.isFn .flog w
  | 0x113 => dUn Ty.isFn .flog2 w
  | 0x114 => dUn Ty.isFn .ftanh w
  | 0x115 => dUn Ty.isFn .fsig w
  | 0x116 => dUn Ty.isFn .frsqrt w
  | 0x117 => dUn Ty.isFn .fsin w
  | 0x118 => dUn Ty.isFn .fcos w
  | 0x120 => dCvt w
  | 0x130 => dRng w
  | _ => .bad .illegalEncoding

/-- Lane opcodes 0x200 to 0x3FF (spec/08, spec/09 R191, R198, R205, spec/11 R236). -/
def decodeData (lo : Nat) (w : W96) : Decoded :=
  match lo with
  | 0x200 => dBallot w
  | 0x201 => dVote w
  | 0x202 => dShfl w
  | 0x203 => dPerm w
  | 0x204 => dLred w
  | 0x280 => dPlog w
  | 0x281 => dPtest w
  | 0x282 => dPget w
  | 0x290 => dImmOp (fun _ => false) .bra w
  | 0x291 => dIdx .bri w
  | 0x292 => dImmOp (fun _ => false) .lcall w
  | 0x293 => dIdx .lcalli w
  | 0x294 => (Chk.all [ckUnguarded w, ckNoOps w]).lane w .lret
  | 0x295 => dUImm .join w
  | 0x296 => (Chk.all [ckUnguarded w, ckNoOps w]).lane w .lend
  | 0x297 => (Chk.all [ckGuard w, ckNoOps w]).lane w .lexit
  | 0x2A0 => dFence w
  | 0x2A8 => dDlaunch w
  | 0x300 => dLd w
  | 0x301 => dSt Ty.isIntFp .laneSt w
  | 0x302 => dLdy w
  | 0x310 => dAtom Ty.isAtom .atomAdd w
  | 0x311 => dAtom Ty.isAtom .atomMin w
  | 0x312 => dAtom Ty.isAtom .atomMax w
  | 0x313 => dAtom Ty.isInt4 .atomAnd w
  | 0x314 => dAtom Ty.isInt4 .atomOr w
  | 0x315 => dAtom Ty.isInt4 .atomXor w
  | 0x316 => dAtom Ty.isInt4 .atomAddsat w
  | 0x317 => dAtom Ty.isAtom .atomXchg w
  | 0x318 => dAtom Ty.isAtom .atomCas w
  | 0x320 => dSt Ty.isAtom .redAdd w
  | 0x321 => dSt Ty.isAtom .redMin w
  | 0x322 => dSt Ty.isAtom .redMax w
  | 0x323 => dSt Ty.isInt4 .redAnd w
  | 0x324 => dSt Ty.isInt4 .redOr w
  | 0x325 => dSt Ty.isInt4 .redXor w
  | 0x326 => dSt Ty.isInt4 .redAddsat w
  | 0x380 => dMma .mma w
  | 0x382 => dMma .mmah w
  | 0x383 => dMma .mmav w
  | 0x388 => dAccLd w
  | 0x389 => dAccSt w
  | 0x38C => dAccOut w
  | 0x390 => dFvote w
  | 0x3C0 => dRlxIn w
  | 0x3C1 => dRlxOut w
  | 0x3C2 => dRlxGet w
  | 0x3C3 => dDst .rlxStep w
  | 0x3C4 => dDst .rlxRes w
  | 0x3E0 => dImmOp (fun c => !userCode c.toNat) .ltrap w
  | 0x3E1 => dUImm .lsigChk w
  | 0x3E2 => dDst .lcause w
  | _ => .bad .illegalEncoding

/-- A lane word (R104). -/
def decodeLane (w : W96) : Decoded :=
  let lo := (lLo w).toNat
  if lo < 0x200 then decodeCompute lo w else decodeData lo w

/-! ### Bytes (R90): little-endian words, absent bytes 0. -/

/-- Byte i of a list, 0 past its end. -/
def byteAt (bs : List Byte) (i : Nat) : Byte := (bs[i]?).getD 0#8

/-- The little-endian number that n bytes hold. -/
def leNat : Nat → List Byte → Nat
  | 0, _ => 0
  | _ + 1, [] => 0
  | n + 1, b :: bs => b.toNat + 256 * leNat n bs

/-- The n little-endian bytes of a number. -/
def leBytes : Nat → Nat → List Byte
  | 0, _ => []
  | n + 1, v => BitVec.ofNat 8 v :: leBytes n (v / 256)

/-- Decode the scalar instruction whose bytes begin the list. -/
def decodeScalarBytes (bs : List Byte) : Decoded :=
  decodeScalar (BitVec.ofNat 32 (leNat 4 bs)) (BitVec.ofNat 32 (leNat 4 (bs.drop 4)))

/-- Decode the lane instruction whose bytes begin the list. -/
def decodeLaneBytes (bs : List Byte) : Decoded :=
  decodeLane (BitVec.ofNat 96 (leNat 12 bs))

/-- The instruction of a decoding. -/
def Decoded.instr? : Decoded → Option Instr
  | .ok i _ => some i
  | .bad _ => none

/-- The instruction that the decoder reads from the bits of a row of spec/opcode_table.json: scalar
words of 32 bits (64 for sig.chk), lane words of 96. -/
def decodeTableWord (nbits w : Nat) : Option Instr :=
  if nbits ≤ 64 then (decodeScalarBytes (leBytes 8 w)).instr?
  else (decodeLaneBytes (leBytes 12 w)).instr?

/-! ### The encoder -/

/-- An S-R or S-X word (R93). -/
def encR (major : Nat) (d a b : SReg) (fn : Nat) : W32 :=
  BitVec.ofNat 32 (major * 67108864 + d.toNat * 1048576 + a.toNat * 16384 + b.toNat * 256 + fn)

/-- An S-I word. -/
def encI (major : Nat) (d a : SReg) (imm : Nat) : W32 :=
  BitVec.ofNat 32 (major * 67108864 + d.toNat * 1048576 + a.toNat * 16384 + imm)

/-- An S-W word. -/
def encW (major : Nat) (d : SReg) (imm : BitVec 20) : W32 :=
  BitVec.ofNat 32 (major * 67108864 + d.toNat * 1048576 + imm.toNat)

/-- An S-B word. -/
def encB (major : Nat) (q : QReg) (neg : Bool) (off : BitVec 22) : W32 :=
  BitVec.ofNat 32 (major * 67108864 + q.toNat * 8388608 + neg.toNat * 4194304 + off.toNat)

/-- The word of a scalar instruction; the second word of sig.chk is x.next. -/
def encodeScalar (i : Instr) (x : Extra) : Option W32 :=
  match i with
  | .add d a b => some (encR 0x00 d a b 0x01)
  | .sub d a b => some (encR 0x00 d a b 0x02)
  | .mul d a b => some (encR 0x00 d a b 0x03)
  | .mulhI64 d a b => some (encR 0x00 d a b 0x04)
  | .mulhN64 d a b => some (encR 0x00 d a b 0x05)
  | .and d a b => some (encR 0x00 d a b 0x06)
  | .or d a b => some (encR 0x00 d a b 0x07)
  | .xor d a b => some (encR 0x00 d a b 0x08)
  | .shl d a b => some (encR 0x00 d a b 0x09)
  | .shr d a b => some (encR 0x00 d a b 0x0A)
  | .sar d a b => some (encR 0x00 d a b 0x0B)
  | .minI64 d a b => some (encR 0x00 d a b 0x0C)
  | .maxI64 d a b => some (encR 0x00 d a b 0x0D)
  | .minN64 d a b => some (encR 0x00 d a b 0x0E)
  | .maxN64 d a b => some (encR 0x00 d a b 0x0F)
  | .cmp c u d a b =>
      some (BitVec.ofNat 32 (0x01 * 67108864 + d.toNat * 1048576 + a.toNat * 16384 + b.toNat * 256
        + u.toNat * 16 + c.code))
  | .addi d a imm => some (encI 0x02 d a imm.toNat)
  | .andi d a imm => some (encI 0x03 d a imm.toNat)
  | .ori d a imm => some (encI 0x04 d a imm.toNat)
  | .xori d a imm => some (encI 0x05 d a imm.toNat)
  | .shli d a k => some (encI 0x06 d a k.toNat)
  | .shri d a k => some (encI 0x07 d a k.toNat)
  | .sari d a k => some (encI 0x08 d a k.toNat)
  | .muli d a imm => some (encI 0x09 d a imm.toNat)
  | .movi d imm => some (encW 0x0A d imm)
  | .la d imm => some (encW 0x0B d imm)
  | .adds d a b k => some (encR 0x0C d a b (0x40 + k.toNat))
  | .addsw d a b k => some (encR 0x0C d a b (0x80 + k.toNat))
  | .hins d a b => some (encR 0x0C d a b 0xC0)
  | .sext z d a => some (encR 0x0D d a 0 (0x20 + z.code * 8))
  | .zext z d a => some (encR 0x0D d a 0 (0x40 + z.code * 8))
  | .ext d a b => some (encR 0x0D d a b 0x60)
  | .exts d a b => some (encR 0x0D d a b 0x80)
  | .ins d a b => some (encR 0x0D d a b 0xA0)
  | .clz d a => some (encR 0x0D d a 0 0xC0)
  | .popc d a => some (encR 0x0D d a 0 0xE0)
  | .csel d a b q neg => some (encR 0x0E d a b (neg.toNat * 8 + q.toNat))
  | .ldN8 d a imm => some (encI 0x10 d a imm.toNat)
  | .ldN16 d a imm => some (encI 0x11 d a imm.toNat)
  | .ldN32 d a imm => some (encI 0x12 d a imm.toNat)
  | .ldN64 d a imm => some (encI 0x13 d a imm.toNat)
  | .stN8 d a imm => some (encI 0x14 d a imm.toNat)
  | .stN16 d a imm => some (encI 0x15 d a imm.toNat)
  | .stN32 d a imm => some (encI 0x16 d a imm.toNat)
  | .stN64 d a imm => some (encI 0x17 d a imm.toNat)
  | .br q neg off => some (encB 0x18 q neg off)
  | .call q neg off => some (encB 0x19 q neg off)
  | .jr a => some (encR 0x1A 0 a 0 0x01)
  | .ret a => some (encR 0x1A 0 a 0 0x02)
  | .jt a n => some (encI 0x1B 0 a n.toNat)
  | .callt a n => some (encI 0x1C 0 a n.toNat)
  | .lpost addr => some (encW 0x20 0 addr)
  | .lsync => some (encR 0x21 0 0 0 0)
  | .srr d n => some (encI 0x22 d 0 n.toNat)
  | .srw n a => some (encI 0x23 0 a n.toNat)
  | .srwBudleft => some (encI 0x23 0 x.src 0x013)
  | .srwDdbase => some (encI 0x23 0 x.src 0x040)
  | .srwDdcap => some (encI 0x23 0 x.src 0x041)
  | .srwVobase => some (encI 0x23 0 x.src 0x042)
  | .srwVocount => some (encI 0x23 0 x.src 0x043)
  | .srwSpecdepth => some (encI 0x23 0 x.src 0x044)
  | .srwBfqthr => some (encI 0x23 0 x.src 0x045)
  | .srwBfqmax => some (encI 0x23 0 x.src 0x046)
  | .tgtBind off => some (encW 0x24 0 off)
  | .sigChk => some (encW 0x25 0 0)
  | .ldScoped z sc d a => some (encR 0x26 d a 0 (sc.code * 16 + z.code))
  | .stScoped z sc a b => some (encR 0x26 0 a b (sc.code * 16 + 4 + z.code))
  | .scalarFence sc => some (encR 0x26 0 0 0 (sc.code * 16 + 8))
  | .scalarLdy sc d a => some (encR 0x26 d a 0 (sc.code * 16 + 9))
  | .copy d a b t => some (encR 0x28 d a b t.toNat)
  | .copyPack d a b t => some (encR 0x28 d a b (0x40 + t.toNat))
  | .copyUnpack d a b t => some (encR 0x28 d a b (0x80 + t.toNat))
  | .yieldc d a b off => some (encR 0x29 d a b off.toNat)
  | .binit sc a b => some (encR 0x2A 0 a b (sc.code * 16))
  | .barr sc d a b => some (encR 0x2A d a b (sc.code * 16 + 1))
  | .barrT sc d a b => some (encR 0x2A d a b (sc.code * 16 + 2))
  | .barrP sc d a b => some (encR 0x2A d a b (sc.code * 16 + 3))
  | .bwait sc d a b => some (encR 0x2A d a b (sc.code * 16 + 4))
  | .bclr sc a => some (encR 0x2A 0 a 0 (sc.code * 16 + 5))
  | .barrMx sc a b => some (encR 0x2A 0 a b (sc.code * 16 + 6))
  | .cwait sc d a b => some (encR 0x2B d a b (sc.code * 16))
  | .csig sc a b => some (encR 0x2B 0 a b (sc.code * 16 + 1))
  | .vdec a n => some (encR 0x2C 0 a 0 n.toNat)
  | .gpatSet a b => some (encR 0x2D 0 a b 0)
  | .gpatClr a => some (encR 0x2D 0 a 0 1)
  | .gpatGet d a => some (encR 0x2D d a 0 2)
  | .bfqReg d a => some (encR 0x2E d a 0 0)
  | .bfqUnreg a => some (encR 0x2E 0 a 0 1)
  | .bfqSlack a b => some (encR 0x2E 0 a b 2)
  | .bfqPost d a => some (encR 0x2E d a 0 3)
  | .bfqTake d a => some (encR 0x2E d a 0 4)
  | .bfqNext d => some (encR 0x2E d 0 0 5)
  | .bfqDone a b => some (encR 0x2E 0 a b 6)
  | .accAlloc d a => some (encR 0x30 d a 0 0x01)
  | .accFree a => some (encR 0x30 0 a 0 0x02)
  | .accHeld d => some (encR 0x30 d 0 0 0x03)
  | .rfenceQdAddr a => some (encR 0x31 0 a 0 0x01)
  | .rfenceQd => some (encR 0x31 0 0 0 0x02)
  | .rfenceDvAddr a => some (encR 0x31 0 a 0 0x03)
  | .rfenceDv => some (encR 0x31 0 0 0 0x04)
  | .mstat d => some (encR 0x32 d 0 0 0)
  | .mwait sc a => some (encR 0x32 0 a 0 (sc.code * 16 + 1))
  | .rlxBegin t c v nb => some (encR 0x34 t c v nb.toNat)
  | .rlxWait d => some (encR 0x35 d 0 0 0x01)
  | .rlxAbort => some (encR 0x35 0 0 0 0x02)
  | .ddMk a t => some (encR 0x38 0 a t 0)
  | .ddApply a t tt => some (encR 0x38 0 a t (tt.toNat * 16 + 1))
  | .ddIte a t => some (encR 0x38 0 a t 2)
  | .ddRestrict a t => some (encR 0x38 0 a t 3)
  | .ddExists a t => some (encR 0x38 0 a t 4)
  | .ddWcount a t => some (encR 0x39 0 a t 0)
  | .ddSatcount a t => some (encR 0x39 0 a t 1)
  | .ddRef a t => some (encR 0x3A 0 a t 0)
  | .ddDeref a t => some (encR 0x3A 0 a t 1)
  | .ddSwap a t => some (encR 0x3A 0 a t 2)
  | .ddOrder a t => some (encR 0x3A 0 a t 3)
  | .ddGc t => some (encR 0x3B 0 0 t 0)
  | .ddStat a t => some (encR 0x3B 0 a t 1)
  | .exit => some (encR 0x3C 0 0 0 0x00)
  | .tretRetry => some (encR 0x3C 0 0 0 0x01)
  | .tretSkip => some (encR 0x3C 0 0 0 0x02)
  | .lflush => some (encR 0x3C 0 0 0 0x03)
  | .trap c => some (encI 0x3D 0 0 c.toNat)
  | .hgetN32 d a b => some (encR 0x3E d a b 0x0)
  | .hgetN64 d a b => some (encR 0x3E d a b 0x1)
  | .hgetp d a b => some (encR 0x3E d a b 0x2)
  | .hstat d a => some (encR 0x3E d a 0 0x3)
  | .hputN32 d a b => some (encR 0x3E d a b 0x8)
  | .hputN64 d a b => some (encR 0x3E d a b 0x9)
  | .hputp d a b => some (encR 0x3E d a b 0xA)
  | .hkill => some (encR 0x3E 0 x.src 0 0xB)
  | _ => none

/-- The number in a source's field, and its scalar bit. -/
def Src.num : Src → Nat
  | .v n => n.toNat
  | .s n => n.toNat
def Src.sbit : Src → Nat
  | .v _ => 0
  | .s _ => 1

/-- Opcode, guard, stall, vd, va, vb and the 45 bits below them (R98). -/
def encLane (lo : Nat) (g : Guard) (d a b low : Nat) : W96 :=
  BitVec.ofNat 96 (lo * 77371252455336267181195264 + g.pg.toNat * 9671406556917033397649408
    + g.neg.toNat * 4835703278458516698824704 + g.stall.toNat * 302231454903657293676544
    + d * 147573952589676412928 + a * 72057594037927936 + b * 35184372088832 + low)

/-- The low bits of an L-R word: vc, ty, rm, the scalar bits, SCOPE, COND and SPEC (R98, R99). -/
def encLow (c ty rm vds vas vbs vcs scope cond spec : Nat) : Nat :=
  c * 17179869184 + ty * 1073741824 + rm * 134217728 + vds * 67108864 + vas * 33554432
    + vbs * 16777216 + vcs * 8388608 + scope * 524288 + cond * 32768 + spec

/-- The low bits of an L-I word (R100). -/
def encImm (imm : W32) (ty rm vds vas vbs cond : Nat) : Nat :=
  imm.toNat * 8192 + ty * 512 + rm * 64 + vds * 32 + vas * 16 + vbs * 8 + cond

def eBin (lo : Nat) (g : Guard) (o : Bin) : W96 :=
  encLane lo g o.d.toNat o.a.num o.b.num (encLow 0 o.ty.code 0 0 o.a.sbit o.b.sbit 0 0 0 0)
def eBinR (lo : Nat) (g : Guard) (o : BinR) : W96 :=
  encLane lo g o.d.toNat o.a.num o.b.num (encLow 0 o.ty.code o.rm.code 0 o.a.sbit o.b.sbit 0 0 0 0)
def eTri (lo : Nat) (g : Guard) (o : Tri) : W96 :=
  encLane lo g o.d.toNat o.a.num o.b.num
    (encLow o.c.num o.ty.code 0 0 o.a.sbit o.b.sbit o.c.sbit 0 0 0)
def eTriR (lo : Nat) (g : Guard) (o : TriR) : W96 :=
  encLane lo g o.d.toNat o.a.num o.b.num
    (encLow o.c.num o.ty.code o.rm.code 0 o.a.sbit o.b.sbit o.c.sbit 0 0 0)
def eUn (lo : Nat) (g : Guard) (o : Un) : W96 :=
  encLane lo g o.d.toNat o.a.num 0 (encLow 0 o.ty.code 0 0 o.a.sbit 0 0 0 0 0)
def eUnR (lo : Nat) (g : Guard) (o : UnR) : W96 :=
  encLane lo g o.d.toNat o.a.num 0 (encLow 0 o.ty.code o.rm.code 0 o.a.sbit 0 0 0 0 0)
def eBinI (lo : Nat) (g : Guard) (o : BinI) : W96 :=
  encLane lo g o.d.toNat o.a.num 0 (encImm o.imm o.ty.code 0 0 o.a.sbit 0 0)
def eBinRI (lo : Nat) (g : Guard) (o : BinRI) : W96 :=
  encLane lo g o.d.toNat o.a.num 0 (encImm o.imm o.ty.code o.rm.code 0 o.a.sbit 0 0)
def eImmD (lo : Nat) (g : Guard) (o : ImmD) : W96 :=
  encLane lo g o.d.toNat 0 0 (encImm o.imm o.ty.code 0 0 0 0 0)
def eSel (g : Guard) (o : SelOp) : W96 :=
  encLane 0x01A g o.d.toNat o.a.num o.b.num
    (encLow o.p.toNat o.ty.code 0 0 o.a.sbit o.b.sbit 0 0 0 o.np.toNat)
def eCmp (lo : Nat) (g : Guard) (o : CmpOp) : W96 :=
  encLane lo g o.p.toNat o.a.num o.b.num
    (encLow 0 o.ty.code 0 0 o.a.sbit o.b.sbit 0 0 o.cond.code 0)
def eCmpI (lo : Nat) (g : Guard) (o : CmpI) : W96 :=
  encLane lo g o.p.toNat o.a.num 0 (encImm o.imm o.ty.code 0 0 o.a.sbit 0 o.cond.code)
/-- One vector destination and SPEC: lidx, lcause and the rlx rows. -/
def eDst (lo : Nat) (g : Guard) (d : VReg) (spec : Nat) : W96 :=
  encLane lo g d.toNat 0 0 (encLow 0 0 0 0 0 0 0 0 0 spec)
def eCvt (g : Guard) (o : CvtOp) : W96 :=
  let f : Src := o.fmt.getD (.v 0)
  encLane 0x120 g o.d.toNat o.a.num f.num
    (encLow 0 o.dst.code o.rm.code 0 o.a.sbit f.sbit 0 0 0 o.src.code)
def eRng (g : Guard) (o : RngOp) : W96 :=
  encLane 0x130 g o.d.toNat o.a.num o.b.toNat
    (encLow o.c.toNat o.ty.code 0 0 o.a.sbit 1 1 0 0 0)

/-- An L-M word (R98, R101). -/
def eMem (lo : Nat) (g : Guard) (d c : Nat) (ty : Ty) (sc : Scope) (m : MemAddr) (vdsc : Nat) : W96 :=
  encLane lo g d ((m.ofs.map (·.toNat)).getD 0) ((m.base.map (·.toNat)).getD 0)
    (c * 17179869184 + ty.code * 1073741824 + m.base.isSome.toNat * 67108864
      + m.ofs.isSome.toNat * 33554432 + vdsc * 16777216 + sc.code * 1048576 + m.imm.toNat)
def eSt (lo : Nat) (g : Guard) (o : StOp) : W96 := eMem lo g o.data.num 0 o.ty o.sc o.m o.data.sbit
def eAtom (lo : Nat) (g : Guard) (o : AtomOp) : W96 := eMem lo g o.d.toNat o.c.toNat o.ty o.sc o.m 0

def eBallot (g : Guard) (dst : BallotDst) (p : PReg) : W96 :=
  match dst with
  | .v d => encLane 0x200 g d.toNat p.toNat 0 (encLow 0 (Ty.code .n32) 0 0 0 0 0 0 0 0)
  | .s d h => encLane 0x200 g d.toNat p.toNat 0 (encLow 0 (Ty.code .n64) 0 1 0 0 0 0 0 h.toNat)
def eVote (g : Guard) (d a : Nat) (ty kind : Nat) : W96 :=
  encLane 0x201 g d a 0 (encLow 0 ty 0 1 0 0 0 0 0 kind)

/-- The types of shfl and perm. -/
def nTy (wide : Bool) : Nat := if wide then Ty.code .n64 else Ty.code .n32

def eShfl (g : Guard) (o : ShflOp) : W96 :=
  encLane 0x202 g o.d.toNat o.a.toNat o.b.num
    (encLow 0 (nTy o.wide) 0 0 0 o.b.sbit 0 0 0 (o.f.toNat * 8 + o.mode.code))
def ePerm (g : Guard) (o : PermOp) : W96 :=
  encLane 0x203 g o.d.toNat o.a.toNat o.b.num
    (encLow 0 (nTy o.wide) 0 0 0 o.b.sbit 0 0 0 (o.f.toNat * 8))
def eLred (g : Guard) (o : LredOp) : W96 :=
  encLane 0x204 g o.d.num o.a.toNat 0 (encLow 0 o.ty.code o.rm.code o.d.sbit 0 0 0 0 0 o.fn.code)
def ePlog (g : Guard) (o : PlogOp) : W96 :=
  encLane 0x280 g o.d.toNat o.a.toNat o.b.toNat (encLow 0 0 0 0 0 0 0 0 0 o.tt.toNat)
/-- An L-I control word: an index operand or none, and imm32. -/
def eCtl (lo : Nat) (g : Guard) (a : Src) (imm : W32) : W96 :=
  encLane lo g 0 a.num 0 (encImm imm 0 0 0 a.sbit 0 0)
def eMma (lo : Nat) (g : Guard) (o : MmaOp) : W96 :=
  encLane lo g o.f.toNat o.op.toNat o.ra.toNat (encLow o.rb.toNat 0 o.rm.code 0 1 1 1 0 0 0)

/-- The word of a lane instruction under a guard and stall count. -/
def encodeLane (i : Instr) (g : Guard) : Option W96 :=
  match i with
  | .laneAdd o => some (eBin 0x001 g o)
  | .laneAddImm o => some (eBinI 0x081 g o)
  | .laneSub o => some (eBin 0x002 g o)
  | .laneSubImm o => some (eBinI 0x082 g o)
  | .laneMul o => some (eBin 0x003 g o)
  | .laneMulImm o => some (eBinI 0x083 g o)
  | .mulhi o => some (eBin 0x004 g o)
  | .mulhiImm o => some (eBinI 0x084 g o)
  | .mad o => some (eTri 0x005 g o)
  | .addsat o => some (eBin 0x006 g o)
  | .addsatImm o => some (eBinI 0x086 g o)
  | .subsat o => some (eBin 0x007 g o)
  | .subsatImm o => some (eBinI 0x087 g o)
  | .laneAnd o => some (eBin 0x008 g o)
  | .laneAndImm o => some (eBinI 0x088 g o)
  | .laneOr o => some (eBin 0x009 g o)
  | .laneOrImm o => some (eBinI 0x089 g o)
  | .laneXor o => some (eBin 0x00A g o)
  | .laneXorImm o => some (eBinI 0x08A g o)
  | .andn o => some (eBin 0x00B g o)
  | .andnImm o => some (eBinI 0x08B g o)
  | .laneShl o => some (eBin 0x00C g o)
  | .laneShlImm o => some (eBinI 0x08C g o)
  | .laneShr o => some (eBin 0x00D g o)
  | .laneShrImm o => some (eBinI 0x08D g o)
  | .laneMin o => some (eBin 0x00E g o)
  | .laneMinImm o => some (eBinI 0x08E g o)
  | .laneMax o => some (eBin 0x00F g o)
  | .laneMaxImm o => some (eBinI 0x08F g o)
  | .abs o => some (eUn 0x010 g o)
  | .neg o => some (eUn 0x011 g o)
  | .div o => some (eBin 0x012 g o)
  | .divImm o => some (eBinI 0x092 g o)
  | .laneRem o => some (eBin 0x013 g o)
  | .laneRemImm o => some (eBinI 0x093 g o)
  | .bfe o => some (eBin 0x014 g o)
  | .bfeImm o => some (eBinI 0x094 g o)
  | .bfi o => some (eBin 0x015 g o)
  | .bfiImm o => some (eBinI 0x095 g o)
  | .lanePopc o => some (eUn 0x016 g o)
  | .laneClz o => some (eUn 0x017 g o)
  | .ctz o => some (eUn 0x018 g o)
  | .brev o => some (eUn 0x019 g o)
  | .sel o => some (eSel g o)
  | .mov o => some (eUn 0x01B g o)
  | .movImm o => some (eImmD 0x09B g o)
  | .icmp o => some (eCmp 0x01C g o)
  | .icmpImm o => some (eCmpI 0x09C g o)
  | .lidx d => some (eDst 0x01D g d 0)
  | .fadd o => some (eBinR 0x101 g o)
  | .faddImm o => some (eBinRI 0x181 g o)
  | .fsub o => some (eBinR 0x102 g o)
  | .fsubImm o => some (eBinRI 0x182 g o)
  | .fmul o => some (eBinR 0x103 g o)
  | .fmulImm o => some (eBinRI 0x183 g o)
  | .fdiv o => some (eBinR 0x104 g o)
  | .fdivImm o => some (eBinRI 0x184 g o)
  | .fsqrt o => some (eUnR 0x105 g o)
  | .fmax o => some (eBin 0x106 g o)
  | .fmaxImm o => some (eBinI 0x186 g o)
  | .fmin o => some (eBin 0x107 g o)
  | .fminImm o => some (eBinI 0x187 g o)
  | .ffma o => some (eTriR 0x108 g o)
  | .fabs o => some (eUn 0x109 g o)
  | .fneg o => some (eUn 0x10A g o)
  | .fcmp o => some (eCmp 0x10B g o)
  | .fcmpImm o => some (eCmpI 0x18B g o)
  | .frnd o => some (eUnR 0x10C g o)
  | .fexp o => some (eUn 0x110 g o)
  | .fexp2 o => some (eUn 0x111 g o)
  | .flog o => some (eUn 0x112 g o)
  | .flog2 o => some (eUn 0x113 g o)
  | .ftanh o => some (eUn 0x114 g o)
  | .fsig o => some (eUn 0x115 g o)
  | .frsqrt o => some (eUn 0x116 g o)
  | .fsin o => some (eUn 0x117 g o)
  | .fcos o => some (eUn 0x118 g o)
  | .cvt o => some (eCvt g o)
  | .rng o => some (eRng g o)
  | .laneLd o => some (eMem 0x300 g o.d.toNat 0 o.ty o.sc o.m 0)
  | .laneSt o => some (eSt 0x301 g o)
  | .laneLdy o => some (eMem 0x302 g o.d.toNat 0 .n64 o.sc o.m 0)
  | .atomAdd o => some (eAtom 0x310 g o)
  | .atomMin o => some (eAtom 0x311 g o)
  | .atomMax o => some (eAtom 0x312 g o)
  | .atomAnd o => some (eAtom 0x313 g o)
  | .atomOr o => some (eAtom 0x314 g o)
  | .atomXor o => some (eAtom 0x315 g o)
  | .atomAddsat o => some (eAtom 0x316 g o)
  | .atomXchg o => some (eAtom 0x317 g o)
  | .atomCas o => some (eAtom 0x318 g o)
  | .redAdd o => some (eSt 0x320 g o)
  | .redMin o => some (eSt 0x321 g o)
  | .redMax o => some (eSt 0x322 g o)
  | .redAnd o => some (eSt 0x323 g o)
  | .redOr o => some (eSt 0x324 g o)
  | .redXor o => some (eSt 0x325 g o)
  | .redAddsat o => some (eSt 0x326 g o)
  | .laneFence sc => some (encLane 0x2A0 g 0 0 0 (encLow 0 0 0 0 0 0 0 sc.code 0 0))
  | .ballot dst p => some (eBallot g dst p)
  | .voteCnt d p => some (eVote g d.toNat p.toNat 0 0)
  | .voteAny q p => some (eVote g q.toNat p.toNat 0 1)
  | .voteAll q p => some (eVote g q.toNat p.toNat 0 2)
  | .voteUni o => some (eVote g o.q.toNat o.a.toNat o.ty.code 3)
  | .shfl o => some (eShfl g o)
  | .perm o => some (ePerm g o)
  | .lred o => some (eLred g o)
  | .plog o => some (ePlog g o)
  | .ptest t p a => some (encLane 0x281 g p.toNat a.toNat 0 (encLow 0 t.code 0 0 0 0 0 0 0 0))
  | .pget d p => some (encLane 0x282 g d.toNat p.toNat 0 0)
  | .bra imm => some (eCtl 0x290 g (.v 0) imm)
  | .bri a imm => some (eCtl 0x291 g a imm)
  | .lcall imm => some (eCtl 0x292 g (.v 0) imm)
  | .lcalli a imm => some (eCtl 0x293 g a imm)
  | .lret => some (encLane 0x294 g 0 0 0 0)
  | .join imm => some (eCtl 0x295 g (.v 0) imm)
  | .lend => some (encLane 0x296 g 0 0 0 0)
  | .lexit => some (encLane 0x297 g 0 0 0 0)
  | .dlaunch d a => some (encLane 0x2A8 g d.toNat a.num 0 (encLow 0 0 0 0 a.sbit 0 0 0 0 0))
  | .mma o => some (eMma 0x380 g o)
  | .mmah o => some (eMma 0x382 g o)
  | .mmav o => some (eMma 0x383 g o)
  | .accLd o =>
      some (encLane 0x388 g o.d.toNat o.sel.toNat 0 (encLow 0 o.ty.code o.rm.code 0 1 0 0 0 0 0))
  | .accSt sel d =>
      some (encLane 0x389 g 0 sel.toNat d.num (encLow 0 (Ty.code .f32) 0 0 1 d.sbit 0 0 0 0))
  | .accOut o =>
      some (encLane 0x38C g o.f.toNat o.op.toNat o.rc.toNat (encLow 0 0 o.rm.code 0 1 1 0 0 0 0))
  | .fvote d a => some (encLane 0x390 g d.toNat a.num 0 (encLow 0 0 0 1 a.sbit 0 0 0 0 0))
  | .rlxIn d i => some (eDst 0x3C0 g d i.toNat)
  | .rlxOut a i => some (encLane 0x3C1 g 0 a.toNat 0 (encLow 0 0 0 0 0 0 0 0 0 i.toNat))
  | .rlxGet d i => some (eDst 0x3C2 g d i.toNat)
  | .rlxStep d => some (eDst 0x3C3 g d 0)
  | .rlxRes d => some (eDst 0x3C4 g d 0)
  | .ltrap imm => some (eCtl 0x3E0 g (.v 0) imm)
  | .lsigChk imm => some (eCtl 0x3E1 g (.v 0) imm)
  | .lcause d => some (eDst 0x3E2 g d 0)
  | _ => none

/-- The words of an instruction: none for a step of the device (R90). -/
inductive Words where
  | scalar (w next : W32)
  | lane (w : W96)
  | none
  deriving DecidableEq, Repr

/-- The words of an instruction, written from the same tables as the decoder. -/
def encode (i : Instr) (x : Extra) : Words :=
  match encodeScalar i x with
  | some w => .scalar w x.next
  | none =>
    match encodeLane i x.guard with
    | some w => .lane w
    | none => .none

/-- Decode the words of an instruction. -/
def Words.decode? : Words → Option Decoded
  | .scalar w n => some (decodeScalar w n)
  | .lane w => some (decodeLane w)
  | .none => Option.none

end Sys2Proof
end

