-- ==== Sys2Proof/Machine/Bits.lean ====
section
/-!
DEFINITION. Bit fields, sign extension, masks of lanes and byte order (spec/01 R3 to R5, spec/03 R49).
-/
namespace Sys2Proof.Machine

/-- Bits [lo + n - 1 : lo] of a number. -/
def bitsN (x lo n : Nat) : Nat := x / 2 ^ lo % 2 ^ n

/-- A w-bit pattern read as a signed integer. -/
def toInt (w x : Nat) : Int :=
  let y := x % 2 ^ w
  if 2 * y < 2 ^ w then (y : Int) else (y : Int) - (2 ^ w : Nat)

/-- The w-bit pattern of an integer, modulo 2^w. -/
def ofInt (w : Nat) (x : Int) : Nat := (x % ((2 ^ w : Nat) : Int)).toNat

/-- Sign-extend a w-bit pattern to v bits. -/
def sextN (w v x : Nat) : Nat := ofInt v (toInt w x)

/-- A number as a scalar register value. -/
def w64 (n : Nat) : W64 := BitVec.ofNat 64 n
def w32 (n : Nat) : W32 := BitVec.ofNat 32 n

/-- The lanes 0 to n - 1. -/
def maskN (n : Nat) : Mask := BitVec.ofNat 128 (2 ^ n - 1)

/-- One lane. -/
def maskBit (l : Nat) : Mask := BitVec.ofNat 128 (2 ^ l)

/-- The lanes of a mask in ascending order. -/
def lanesOf (m : Mask) : List Nat := (List.range 128).filter (fun l => m.getLsbD l)

/-- The lowest lane of a mask, 0 for an empty one. -/
def lowest (m : Mask) : Nat := (lanesOf m).headD 0

/-- The mask of the lanes for which p holds. -/
def maskWhere (m : Mask) (p : Nat → Bool) : Mask :=
  (lanesOf m).foldl (fun acc l => if p l then acc ||| maskBit l else acc) 0#128

/-- The number of one bits of a w-bit pattern. -/
def popN (w x : Nat) : Nat := ((List.range w).filter (fun i => x.testBit i)).length

/-- Leading zeros of a w-bit pattern. -/
def clzN (w x : Nat) : Nat :=
  match ((List.range w).reverse).findIdx? (fun i => x.testBit i) with
  | some k => k
  | none => w

/-- Trailing zeros of a w-bit pattern. -/
def ctzN (w x : Nat) : Nat :=
  match (List.range w).findIdx? (fun i => x.testBit i) with
  | some k => k
  | none => w

/-- A w-bit pattern reversed. -/
def brevN (w x : Nat) : Nat :=
  (List.range w).foldl (fun acc i => if x.testBit i then acc + 2 ^ (w - 1 - i) else acc) 0

/-- Replace bits [pos + w - 1 : pos] of x by the low w bits of y. -/
def insN (x y pos w : Nat) : Nat :=
  x % 2 ^ pos + (y % 2 ^ w) * 2 ^ pos + (x / 2 ^ (pos + w)) * 2 ^ (pos + w)

/-- ⌊log2 n⌋, 0 for 0. -/
def log2N (n : Nat) : Nat := Nat.log2 n

/-- One byte fed to the reflected CRC-32C of polynomial 0x1EDC_6F41 (spec/06 R124, spec/01 R16). -/
def crcByte (crc : Nat) (b : Nat) : Nat :=
  (List.range 8).foldl (fun c _ => if c.testBit 0 then (c / 2) ^^^ 0x82F63B78 else c / 2)
    ((crc ^^^ b) % 2 ^ 32)

/-- The n little-endian bytes of a word fed in address order. -/
def crcWord (crc : W32) (n w : Nat) : W32 :=
  w32 ((List.range n).foldl (fun c i => crcByte c (bitsN w (8 * i) 8)) crc.toNat)

end Sys2Proof.Machine
end

