-- ==== Sys2Proof/Machine/Fp.lean ====
section
/-!
DEFINITION. Binary floating point (spec/03 R52 to R58, spec/07 R147 to R150). A finite value is an exact
dyadic number; each operation forms its exact result and rounds it once.
-/
namespace Sys2Proof.Machine

/-- A format: exponent bits and fraction bits. -/
structure Fmt where
  eb : Nat
  mb : Nat
  deriving DecidableEq, Repr

/-- The format of a floating type (spec/03 R51); f32 for the others. -/
def fmtOf : Ty → Fmt
  | .f16 => ⟨5, 10⟩
  | .bf16 => ⟨8, 7⟩
  | .f64 => ⟨11, 52⟩
  | _ => ⟨8, 23⟩

/-- The width of a format in bits. -/
def Fmt.width (f : Fmt) : Nat := f.eb + f.mb + 1
def Fmt.bias (f : Fmt) : Nat := 2 ^ (f.eb - 1) - 1
/-- The exponent of the last fraction bit of subnormal numbers. -/
def Fmt.emin (f : Fmt) : Int := 1 - (f.bias : Int) - f.mb
/-- The canonical NaN (spec/03 R54). -/
def Fmt.nan (f : Fmt) : Nat := (2 ^ f.eb - 1) * 2 ^ f.mb + 2 ^ (f.mb - 1)
/-- The sign bit of a result. -/
def Fmt.sgn (f : Fmt) (neg : Bool) : Nat := if neg then 2 ^ (f.eb + f.mb) else 0
def Fmt.inf (f : Fmt) (neg : Bool) : Nat := f.sgn neg + (2 ^ f.eb - 1) * 2 ^ f.mb
/-- The largest finite number. -/
def Fmt.big (f : Fmt) (neg : Bool) : Nat := f.sgn neg + (2 ^ f.eb - 1) * 2 ^ f.mb - 1

/-- A value: NaN, an infinity, or ± m × 2^e. -/
inductive FVal where
  | nan
  | inf (neg : Bool)
  | fin (neg : Bool) (m : Nat) (e : Int)
  deriving DecidableEq, Repr

/-- The value of a bit pattern. -/
def fval (f : Fmt) (x : Nat) : FVal :=
  let neg := x.testBit (f.eb + f.mb)
  let e := bitsN x f.mb f.eb
  let m := x % 2 ^ f.mb
  if e = 2 ^ f.eb - 1 then (if m = 0 then .inf neg else .nan)
  else if e = 0 then .fin neg m f.emin
  else .fin neg (m + 2 ^ f.mb) (f.emin + e - 1)

/-- Whether the quotient part q, with remainder r of den, goes up to the next integer in magnitude. -/
def roundsUp (rm : Rm) (neg : Bool) (q r den : Nat) : Bool :=
  match rm with
  | .rne => den < 2 * r || (2 * r == den && q % 2 == 1)
  | .rtz => false
  | .rup => r != 0 && !neg
  | .rdn => r != 0 && neg
  | .rto => r != 0 && q % 2 == 0

/-- The magnitude num ÷ den rounded to an integer (spec/03 R55). -/
def roundRat (rm : Rm) (neg : Bool) (num den : Nat) : Nat :=
  num / den + (roundsUp rm neg (num / den) (num % den) den).toNat

/-- m × 2^(e - q) rounded to an integer. -/
def roundAt (rm : Rm) (neg : Bool) (m : Nat) (e q : Int) : Nat :=
  if q ≤ e then m * 2 ^ (e - q).toNat else roundRat rm neg m (2 ^ (q - e).toNat)

/-- What a mode delivers beyond the largest finite number (spec/03 R55). -/
def overflowed (f : Fmt) (rm : Rm) (neg : Bool) : Nat :=
  match rm with
  | .rne => f.inf neg
  | .rtz => f.big neg
  | .rup => if neg then f.big neg else f.inf neg
  | .rdn => if neg then f.inf neg else f.big neg
  | .rto => f.big neg

/-- ± m × 2^e rounded into a format (spec/03 R53, R55). -/
def froundFin (f : Fmt) (rm : Rm) (neg : Bool) (m : Nat) (e : Int) : Nat :=
  if m = 0 then f.sgn neg
  else
    let q := max f.emin (e + (log2N m : Int) - f.mb)
    let n := roundAt rm neg m e q
    let n' := if n = 2 ^ (f.mb + 1) then 2 ^ f.mb else n
    let q' := if n = 2 ^ (f.mb + 1) then q + 1 else q
    if n' < 2 ^ f.mb then f.sgn neg + n'
    else
      let ex := (q' - f.emin + 1).toNat
      if 2 ^ f.eb - 2 < ex then overflowed f rm neg
      else f.sgn neg + ex * 2 ^ f.mb + (n' - 2 ^ f.mb)

/-- A value rounded into a format. -/
def fround (f : Fmt) (rm : Rm) : FVal → Nat
  | .nan => f.nan
  | .inf neg => f.inf neg
  | .fin neg m e => froundFin f rm neg m e

/-- The sign of an exact zero sum (spec/03 R56). -/
def zeroSign (rm : Rm) (a b : Bool) : Bool := if a = b then a else rm == .rdn

/-- The exact sum; `rm` decides the sign of a zero sum alone. -/
def faddV (rm : Rm) (x y : FVal) : FVal :=
  match x, y with
  | .nan, _ => .nan
  | _, .nan => .nan
  | .inf a, .inf b => if a = b then .inf a else .nan
  | .inf a, _ => .inf a
  | _, .inf b => .inf b
  | .fin na ma ea, .fin nb mb eb =>
    let e := min ea eb
    let va : Int := (ma * 2 ^ (ea - e).toNat : Nat)
    let vb : Int := (mb * 2 ^ (eb - e).toNat : Nat)
    let v := (if na then -va else va) + (if nb then -vb else vb)
    if v = 0 then .fin (zeroSign rm na nb) 0 e else .fin (decide (v < 0)) v.natAbs e

def fnegV : FVal → FVal
  | .nan => .nan
  | .inf a => .inf !a
  | .fin a m e => .fin (!a) m e

/-- The exact product. -/
def fmulV (x y : FVal) : FVal :=
  match x, y with
  | .nan, _ => .nan
  | _, .nan => .nan
  | .inf a, .inf b => .inf (a != b)
  | .inf a, .fin b m _ => if m = 0 then .nan else .inf (a != b)
  | .fin a m _, .inf b => if m = 0 then .nan else .inf (a != b)
  | .fin a m e, .fin b n k => .fin (a != b) (m * n) (e + k)

/-- The quotient, exact but for a sticky last bit far below any rounding point. -/
def fdivV (x y : FVal) : FVal :=
  match x, y with
  | .nan, _ => .nan
  | _, .nan => .nan
  | .inf _, .inf _ => .nan
  | .inf a, .fin b _ _ => .inf (a != b)
  | .fin a _ _, .inf b => .fin (a != b) 0 0
  | .fin a m e, .fin b n k =>
    if n = 0 then (if m = 0 then .nan else .inf (a != b))
    else
      let s := 70 + log2N n
      let q := m * 2 ^ s / n
      let sticky := if m * 2 ^ s % n = 0 then 0 else 1
      .fin (a != b) (2 * q + sticky) (e - k - s - 1)

/-- ⌊√n⌋ for n below 2^208. -/
def isqrtN (n : Nat) : Nat :=
  (List.range 104).reverse.foldl (fun r i => if (r + 2 ^ i) * (r + 2 ^ i) ≤ n then r + 2 ^ i else r) 0

/-- The square root, exact but for a sticky last bit. -/
def fsqrtV : FVal → FVal
  | .nan => .nan
  | .inf neg => if neg then .nan else .inf false
  | .fin neg m e =>
    if m = 0 then .fin neg 0 0
    else if neg then .nan
    else
      let odd : Nat := if e % 2 = 0 then 0 else 1
      let m' := m * 2 ^ (128 + odd)
      let r := isqrtN m'
      let sticky := if r * r = m' then 0 else 1
      .fin false (2 * r + sticky) ((e - (odd : Int) - 128) / 2 - 1)

/-- A value rounded to an integral value (spec/07 R147). -/
def frndV (rm : Rm) : FVal → FVal
  | .fin neg m e => if 0 ≤ e then .fin neg m e else .fin neg (roundAt rm neg m e 0) 0
  | v => v

/-- x < y, x = y, x > y as -1, 0, 1 of values that are no NaN. -/
def fcmpV (x y : FVal) : Int :=
  match x, y with
  | .inf a, .inf b => if a = b then 0 else if a then -1 else 1
  | .inf a, _ => if a then -1 else 1
  | _, .inf b => if b then 1 else -1
  | .fin na ma ea, .fin nb mb eb =>
    let e := min ea eb
    let va : Int := (ma * 2 ^ (ea - e).toNat : Nat)
    let vb : Int := (mb * 2 ^ (eb - e).toNat : Nat)
    let d := (if na then -va else va) - (if nb then -vb else vb)
    if d < 0 then -1 else if d = 0 then 0 else 1
  | _, _ => 0

def FVal.isNan : FVal → Bool
  | .nan => true
  | _ => false

/-- Whether a result counts for the scaled-gradient flag (spec/03 R71). -/
def FVal.special : FVal → Bool
  | .fin _ _ _ => false
  | _ => true

/-- An integer as a value. -/
def ofIntV (x : Int) : FVal := .fin (decide (x < 0)) x.natAbs 0

/-- The rounding operations of spec/07 R147 on bit patterns of one format. -/
def faddB (f : Fmt) (rm : Rm) (a b : Nat) : Nat := fround f rm (faddV rm (fval f a) (fval f b))
def fsubB (f : Fmt) (rm : Rm) (a b : Nat) : Nat := fround f rm (faddV rm (fval f a) (fnegV (fval f b)))
def fmulB (f : Fmt) (rm : Rm) (a b : Nat) : Nat := fround f rm (fmulV (fval f a) (fval f b))
def fdivB (f : Fmt) (rm : Rm) (a b : Nat) : Nat := fround f rm (fdivV (fval f a) (fval f b))
def ffmaB (f : Fmt) (rm : Rm) (a b c : Nat) : Nat :=
  fround f rm (faddV rm (fmulV (fval f a) (fval f b)) (fval f c))
def fsqrtB (f : Fmt) (rm : Rm) (a : Nat) : Nat := fround f rm (fsqrtV (fval f a))
def frndB (f : Fmt) (rm : Rm) (a : Nat) : Nat := fround f rm (frndV rm (fval f a))
def fabsB (f : Fmt) (a : Nat) : Nat := a % 2 ^ (f.eb + f.mb)
def fnegB (f : Fmt) (a : Nat) : Nat := (a % 2 ^ f.width) ^^^ 2 ^ (f.eb + f.mb)

/-- The place of a number in the order of spec/07 R148, in which -0 stands below +0. -/
def orderKey (f : Fmt) (a : Nat) : Int :=
  if a.testBit (f.eb + f.mb) then -((a % 2 ^ (f.eb + f.mb) : Nat) : Int) - 1
  else ((a % 2 ^ (f.eb + f.mb) : Nat) : Int)

/-- Whether fmax (or fmin) selects the first operand (spec/07 R148). -/
def picksFirst (f : Fmt) (max : Bool) (a b : Nat) : Bool :=
  if (fval f b).isNan then true
  else if (fval f a).isNan then false
  else if max then decide (orderKey f b ≤ orderKey f a) else decide (orderKey f a ≤ orderKey f b)

/-- fmax and fmin: a NaN is missing data (spec/07 R148). -/
def fmaxB (f : Fmt) (max : Bool) (a b : Nat) : Nat :=
  if (fval f a).isNan && (fval f b).isNan then f.nan else if picksFirst f max a b then a else b

/-- The conditions of fcmp (spec/07 R150). -/
def fcondB (f : Fmt) (c : Cond) (a b : Nat) : Bool :=
  let x := fval f a
  let y := fval f b
  if x.isNan || y.isNan then (c == .ne || c == .uno)
  else
    let d := fcmpV x y
    match c with
    | .eq => d == 0
    | .ne => d != 0
    | .lt => decide (d < 0)
    | .le => decide (d ≤ 0)
    | .gt => decide (0 < d)
    | .ge => decide (0 ≤ d)
    | .ord => true
    | .uno => false

/-- A value rounded to an integer by rm and saturated to [lo, hi] (spec/03 R57). -/
def toIntSat (rm : Rm) (lo hi : Int) : FVal → Int
  | .nan => 0
  | .inf neg => if neg then lo else hi
  | .fin neg m e =>
    let n : Int := (roundAt rm neg m e 0 : Nat)
    max lo (min hi (if neg then -n else n))

/-- x ÷ s rounded to an integer by rm and saturated, for a bit-plane scale s (spec/03 R63). -/
def quotIntSat (rm : Rm) (lo hi : Int) (x s : FVal) : Int :=
  match x, s with
  | .nan, _ => 0
  | .inf neg, _ => if neg then lo else hi
  | .fin neg m e, .fin _ n k =>
    let num := if k ≤ e then m * 2 ^ (e - k).toNat else m
    let den := if k ≤ e then n else n * 2 ^ (k - e).toNat
    let q : Int := (roundRat rm neg num den : Nat)
    max lo (min hi (if neg then -q else q))
  | _, _ => 0

end Sys2Proof.Machine
end

