-- ==== Sys2Proof/Config.lean ====
section
/-!
DEFINITION. What is fixed for one machine and what the spec leaves open. A constant without a body is a
free value: nothing can evaluate it and no proof can see what it is. Which agent takes the next turn
while the agenda of the state is empty is such a value too (notes/assumptions/1.md).
-/
namespace Sys2Proof

/-- What reaches the device from outside with a turn (spec/20): a transaction of the host, a register
access of system software, what the governor measured, the firmware that a reset finds. -/
inductive Input where
  | none
  | mrd (va : W64) (n : Nat)
  | mwr (va : W64) (bytes : List Byte)
  | matom (va : W64) (fn : AtomFn) (ty : Ty) (b c : W64)
  | dbell (tail : W32)
  | mgmt (cmd : MgmtCmd)
  | value (v : W64)
  | sysReg (reg : SysReg) (v : W64)
  | sysRead (reg : SysReg)
  | measured (m : Measured)
  | firmware (fw : Firmware)
  deriving DecidableEq, Repr, Inhabited

/-- A part of a band's state under one code (spec/13 R281): a scalar register or predicate, a special register by its number, a
register of the bank that is not in use, the split table, a return address counted from the top of the shadow stack, or an entry of the
lane block queue counted from its head. -/
inductive BandPart where
  | sreg (n : Nat)
  | spred (n : Nat)
  | special (n : Nat)
  | bank (i : Nat)
  | splits
  | shadow (i : Nat)
  | queue (i : Nat)
  deriving DecidableEq, Repr, Inhabited

/-- Where a protection code finds an error (spec/13 R280, R281, spec/16 R310): a corrected one on a tile, or one that cannot be
corrected, in the code that holds a place of memory, a lane's register or predicate, a part of the other state of a band, an
accumulator element, a line of a cache, or a flit that a link of a tile delivers, which is dropped: the message that came last, if
it was one (spec/14 R292). -/
inductive Flaw where
  | corrected (tile : Nat)
  | memory (k : Nat)
  | vreg (band n lane : Nat)
  | pred (band n lane : Nat)
  | bandState (band : Nat) (part : BandPart)
  | acc (quad elem : Nat)
  | l1 (tile line : Nat)
  | scode (tile place : Nat)
  | lcode (tile place : Nat)
  | record (quad ctx addr : Nat)
  | op (die slot : Nat)
  | flit (tile link : Nat)
  deriving DecidableEq, Repr, Inhabited

/-- The turn of one agent. `a` and `b` name the agent of a step of the device: a band, a tile, a die, an
interface, and a place in its queue or a direction of the mesh. -/
inductive Turn where
  /-- the scalar stream of band b tries to issue -/
  | scalar (b : Nat)
  /-- a fragment of the lane stream of band b tries to issue -/
  | lane (b slot : Nat)
  /-- a step that the device takes on its own -/
  | event (i : Instr) (a b : Nat) (inp : Input)
  /-- one cycle of a physical tile passes (spec/02 R47, spec/19) -/
  | tick (tile : Nat)
  /-- one cycle of a die passes -/
  | dieTick (die : Nat)
  /-- a protection code finds an error (spec/13 R280) -/
  | flaw (f : Flaw)
  deriving DecidableEq, Repr, Inhabited

namespace Config

/-- The turn that comes when the agenda is empty (spec/02 R39 leaves the choice among ready agents
open). Free value, log entry 1. -/
opaque schedule : Nat → Turn

/-- A value the spec calls undefined, one for each use (spec/05 R107). Free value, log entry 10. -/
opaque freeWord : Nat → W64

/-- A choice the spec leaves open, one for each use (spec/01 R14, spec/05 R107). Free value, log entry 10. -/
opaque freeChoice : Nat → Nat

/-- The approximated functions (spec/07 R151). -/
inductive Approx where
  | exp | exp2 | log | log2 | tanh | sig | rsqrt | sin | cos
  deriving DecidableEq, Repr

/-- The one mapping of f32 bits of each approximated function where R151 states no exact result.
Free value, log entry 11. -/
opaque approx : Approx → W32 → W32

/-- What a firmware image holds (spec/20 R344): its security version, its golden self-test signature, and its governor tables. Free
values, log entry 13. -/
opaque fwVersion : List Byte → Nat
opaque fwGolden : List Byte → W32
opaque fwGovernor : List Byte → List Byte

/-- The modulus and the private exponent of the device identity key, and the salt of the signature of a digest (spec/20 R345). Free
values, log entry 13. -/
opaque identityModulus : BitVec 4096
opaque identityExponent : BitVec 4096
opaque signatureSalt : List Byte → BitVec 512

/-- Whether the SHA-512 digest of a public key is fused, and the fused minimum security version (spec/20 R344). Free
values, log entry 13. -/
opaque fusedKey : BitVec 512 → Bool
opaque fusedVersion : Nat

/-- The signature a tile's self-test computes (spec/14 R298). Free value, log entry 30. -/
opaque selfTest : Nat → Nat → W32

/-! What an AV1 stream holds (spec/10 R218 to R223; log entry 12). Each is a function of the bytes of the stream up to the end of
the OBU in question, or up to where it is looked at. -/

/-- The sequence header that ends there. Free value, log entry 12. -/
opaque av1Seq : List Byte → Av1Seq
/-- What the OBU that ends there says of its frame. Free value, log entry 12. -/
opaque av1Obu : List Byte → Av1Obu
/-- Whether the OBU that these bytes reach into breaks the syntax or a semantic constraint there. Free value, log entry 12. -/
opaque av1Fails : List Byte → Bool
/-- Sample (plane, row, column) of the frame that ends there. Free value, log entry 12. -/
opaque av1Sample : List Byte → Nat → Nat → Nat → Nat

/-- The slot of the operation cache that an operation falls on (spec/12 R259). Free value, log entry 16. -/
opaque opSlot : Nat → Nat → Nat → Nat → Nat

end Config

end Sys2Proof
end

