-- ==== Sys2Proof/Machine/Tbl.lean ====
section
/-!
DEFINITION. Reading and writing a sparse table (Word.lean), in rising order of its keys. `tput` keeps the
one canonical form: a key whose value is the table's default is not listed.
-/
namespace Sys2Proof.Machine

/-- The entry of a key. -/
def tget? {α : Type} : Tbl α → Nat → Option α
  | [], _ => none
  | e :: t, k => if k = e.1 then some e.2 else tget? t k

/-- The value of a key, `d` where it is not listed. -/
def tget {α : Type} (d : α) (t : Tbl α) (k : Nat) : α := (tget? t k).getD d

/-- Write an entry. -/
def tset {α : Type} : Tbl α → Nat → α → Tbl α
  | [], k, v => [(k, v)]
  | e :: t, k, v =>
    if k < e.1 then (k, v) :: e :: t else if k = e.1 then (k, v) :: t else e :: tset t k v

/-- Remove an entry. -/
def tdel {α : Type} : Tbl α → Nat → Tbl α
  | [], _ => []
  | e :: t, k => if k = e.1 then tdel t k else e :: tdel t k

/-- Write a value, listing it only where it differs from the default. -/
def tput {α : Type} [DecidableEq α] (d : α) (t : Tbl α) (k : Nat) (v : α) : Tbl α :=
  if v = d then tdel t k else tset t k v

/-- Change an entry that is there. -/
def tmod {α : Type} (t : Tbl α) (k : Nat) (f : α → α) : Tbl α :=
  match tget? t k with
  | some v => tset t k (f v)
  | none => t

/-- Change the value of a key, `d` where it is not listed. -/
def tupd {α : Type} (d : α) (t : Tbl α) (k : Nat) (f : α → α) : Tbl α := tset t k (f (tget d t k))

/-- Every key lies above `lo`, the keys rise, and no value is the default. -/
def tcanon {α : Type} [DecidableEq α] (d : α) : Option Nat → Tbl α → Bool
  | _, [] => true
  | lo, e :: t => (match lo with | none => true | some l => decide (l < e.1)) && decide (e.2 ≠ d) &&
      tcanon d (some e.1) t

end Sys2Proof.Machine
end

