-- ==== Sys2Proof/Machine/State.lean ====
section
/-!
DEFINITION. The state of the Glaoc as plain data, and the state after reset (INVENTORY.md, "State").
Bands, workgroups, launches, contexts and interfaces are tables by number: a band is its workgroup's
number × 16 + its place, a context its interface × 16 + its place, a context on a die (DieCtx) its die × 1,024 + the
context. Tiles, quads, dies and attendants are tables by physical number, in which an entry that is not
listed stands as it does after reset.
-/
namespace Sys2Proof.Machine

/-- Why the machine stops. -/
inductive Fault where
  /-- A step of the device in recovery, where the boot ROM waits for good firmware and answers MGMT
  alone (spec/20 R344). Raised by `step`. Safe: the spec gives the device nothing else to do. -/
  | recovery
  deriving DecidableEq, Repr

/-- Why a step has no meaning. -/
inductive Refusal where
  /-- An instruction of the table that has no meaning yet. Raised by `exec`. Safe. -/
  | notModelled (mnemonic : String)
  deriving DecidableEq, Repr

/-! ### Memory -/

/-- One change in a write-queue entry (spec/17 R317). -/
inductive WqOp where
  | store (k : Nat) (bytes : List Byte)
  | red (fn : AtomFn) (ty : Ty) (k : Nat) (b : Nat)
  deriving DecidableEq, Repr

/-- An entry of a memory port's write queue: the changes of one granule of the port's atomic size, which holds place
`gran`, and the bands whose requests they are, which the port has not answered (spec/14 R296). -/
structure WqEntry where
  gran : Nat
  ops : List WqOp
  senders : List Nat
  deriving DecidableEq, Repr

/-! ### Bands -/

/-- A live fragment: a slot of the split table (spec/18 R325) with the cycle at which its stall count
lets it issue (spec/05 R106). -/
structure Frag where
  mask : Mask
  pc : W64
  lsig : W32
  age : Nat
  next : Nat
  deriving DecidableEq, Repr

/-- A copy of a permitted-target table: its byte offset from the image, and the entries (budget, target). -/
structure TgtTable where
  off : Nat
  entries : List (Nat × Nat)
  deriving DecidableEq, Repr

/-- An entry of the lane block queue with its captured values (spec/06 R125); `body`: it is the body of the band's
region (spec/11 R228). -/
structure Block where
  addr : W64
  jto : W32
  stallchk : Bool
  table : Option Nat
  body : Bool
  bad : Bool
  deriving DecidableEq, Repr

/-- The running block: its captured values, its first fragment, the lanes at `lend`. -/
structure Run where
  blk : Block
  first : Mask
  atLend : Mask
  body : Bool
  deriving DecidableEq, Repr

/-- A variable-latency result that the scoreboard holds back (spec/02 R39, spec/07 R138): the scalar,
predicate and vector writes it will make. `lane`: it belongs to the lane stream; `ports`: the memory ports whose
answer it waits for (spec/14 R296, spec/20 R343); `ovf`: it writes a ±Inf or NaN that counts under SCALEDG once it is
there (spec/03 R71). -/
structure Pend where
  lane : Bool
  sw : List (Nat × W64)
  qw : List (Nat × Bool)
  vw : List (Nat × W32)
  ports : List Nat
  ovf : Bool
  deriving DecidableEq, Repr

/-- When a fixed-latency result is ready (spec/05 R107): register or predicate `reg`, the lanes of
`mask`, cycle `due`; `old`: what the register held in those lanes, which a shuffle may still read (spec/08 R167). -/
structure Ready where
  pred : Bool
  reg : Nat
  mask : Mask
  due : Nat
  old : List (Nat × W32)
  deriving DecidableEq, Repr

/-- What `tret.skip` does beside going past the instruction (spec/06 R132). -/
inductive SkipKind where
  | plain
  /-- the instruction itself resumes: a deferred cause -/
  | again
  /-- `sig.chk`: SIG is reset (spec/06 R124) -/
  | sig
  /-- `lsig.chk`: the fragment's signature is reset (spec/13 R288) -/
  | lsig
  /-- the trap of a relaxation region (spec/11 R243, R244) -/
  | region
  deriving DecidableEq, Repr

/-- A deferred cause (spec/13 R273) and the lane its source names. -/
structure Deferred where
  cause : Cause
  lane : Option Nat
  deriving DecidableEq, Repr

/-- What the scalar stream of a band waits for (spec/02 R42, R47). `yieldc`: whether the copy has been issued,
where the band resumes, and the copy's status once it has completed. -/
inductive Wait where
  | none
  | yieldc (issued : Bool) (cont : W64) (done : Option Nat)
  | bwait (d : SReg) (key : Nat) (phase : Nat) (sc : Scope) (left : Nat) (bounded : Bool)
  /-- a `bwait` whose phase has changed, with its result word -/
  | bdone (d : SReg) (word : W64) (sc : Scope)
  | cwait (d : SReg) (addr : W64) (target : Nat) (sc : Scope) (left : Nat) (bounded : Bool)
  | mwait (sc : Scope) (target : Nat)
  | acc (d : SReg) (req : W64) (order : Nat)
  | accFree (tiles : W64)
  | bfqTake (d : SReg) (addr : W64)
  /-- in the `rlx.begin` of a multi-band region (spec/11 R239): T, the configuration word, the operand sb, x[0], NBM1 -/
  | rxBegin (t : Nat) (cfg : W64) (sb : W64) (x0 : List W32) (nbm1 : Nat)
  /-- in `lsync`, `exit` or a full lane block queue -/
  | sync
  /-- for space in a queue, or for a unit -/
  | space
  /-- for its turn among the Cabinet's exclusive operations (spec/12 R251) -/
  | turn
  /-- for a region to close -/
  | region
  deriving DecidableEq, Repr

/-- What a band holds while it is in handler mode (spec/13 R274, R275); `wait` is a wait that goes on
when it leaves: the one at a `yieldc` whose copy is under way. -/
structure Held where
  pc : W64
  lane : Bool
  slot : Nat
  fragMask : Mask
  active : Mask
  size : Nat
  kind : SkipKind
  wait : Wait
  deriving DecidableEq, Repr

/-- A band's own part of its region (spec/11 R228, R231, R239): the band that leads the region, its first global step,
its steps, the dimension d, Rt (0 in JACOBI mode, which carries no tangents), whether the body has been
posted, the lanes in which a floating result of this evaluation was ±Inf or NaN (R245), and where its `lend` stands. -/
structure RxBand where
  leader : Nat
  first : Nat
  steps : Nat
  d : Nat
  rt : Nat
  jacobi : Bool
  posted : Bool
  ovf : Mask
  lend : W64
  deriving DecidableEq, Repr

/-- An exact residual m × 2^e; none is +Inf (spec/11 R237). -/
abbrev Resid := Option (Nat × Int)

/-- A relaxation region, open or held, under the band that leads it (spec/11 R228 to R248). States are keyed step × 8 +
component, Jacobians (step × 8 + row) × 8 + column; y and the Jacobian list what the evaluation delivered.
`seqAt`: the step of the in-order run, which ends before `seqEnd` and closes the region with `seqOut`; `xs`: the
states committed so far; `spec`: steps with a ±Inf or NaN result in the last pass. -/
structure Region where
  cfg : W64
  nb : Nat
  n : Nat
  held : Bool
  g : Tbl W32
  y : Tbl W32
  jac : Tbl W32
  e : Nat
  pass : Nat
  stalls : Nat
  limit : Nat
  resprev : Resid
  resmax : Resid
  best : Tbl W32
  resbest : Option Resid
  bestOvf : Bool
  res : Tbl W32
  seqAt : Option Nat
  seqEnd : Nat
  seqOut : Nat
  xs : Tbl W32
  seqOvf : Bool
  spec : List Nat
  abort : Bool
  stalled : Bool
  deriving DecidableEq, Repr

/-- The Cabinet command that failed last for a band (spec/12 R266). -/
structure CabFail where
  sig : W64
  blk : W64
  status : Nat
  cmd : Nat
  deriving DecidableEq, Repr

/-- A waiting request (spec/10 R225 to R227). -/
structure Request where
  desc : W64
  handle : Nat
  rows : Nat
  budget : Nat
  target : W64
  waitLim : Nat
  waited : Nat
  band : Nat
  launch : Nat
  ptile : Nat
  deriving DecidableEq, Repr

/-- A request of a taken batch: whether `bfq.next` has given it and whether it has retired. -/
structure Served where
  req : Request
  given : Bool
  retired : Bool
  deriving DecidableEq, Repr

/-- A matrix operation that has finished and is not counted yet (spec/09 R200): its status, the cause that it
raises, 0 for none, and the lane that posted it. -/
structure MxEnd where
  status : Nat
  cause : Cause
  lane : Nat
  deriving DecidableEq, Repr

/-- A `dlaunch` that waits for room (spec/08 R178): its fragment, its address, the lanes without a child yet with the
descriptors' addresses that they read when it issued (spec/06 R110), the sequence numbers given. -/
structure Dl where
  slot : Nat
  pc : W64
  left : Mask
  addrs : List (Nat × Nat)
  got : Tbl W32
  deriving DecidableEq, Repr

/-- A band: its registers (spec/15 R302, R303) and what it is doing. -/
structure Band where
  wg : Nat
  no : Nat
  launch : Nat
  ctx : Nat
  tile : Nat
  ptile : Nat
  slot : Nat
  resident : Bool
  prio : Nat
  -- registers
  lanes : Nat
  budget : Nat
  sregs : Tbl W64
  qregs : Tbl Bool
  vregs : Tbl W32
  preds : Tbl Mask
  hbank : Tbl W64
  pc : W64
  ret : List W64
  kparam : W64
  scrbase : W64
  privbase : W64
  wgidx : W32
  jto : W32
  stallchk : Bool
  sig : W32
  budleft : W32
  ycstat : W64
  mxStatus : BitVec 16
  mxRetired : BitVec 48
  mxPosted : BitVec 48
  mxBad : List Nat
  mxDone : Tbl MxEnd
  tvec : W64
  trapcause : W64
  trappc : W64
  causes : Tbl Cause
  dead : Mask
  exited : Mask
  rxout : W64
  rxpass : W64
  rxres : W64
  rxpre : W64
  rxseq : W64
  -- the lane stream
  queue : List Block
  run : Option Run
  copies : Tbl TgtTable
  bound : Option Nat
  slot0 : Option Frag
  slot1 : Option Frag
  kinds : List Nat
  timers : Tbl Nat
  flawed : List Nat
  badEnd : Bool
  firstNext : Nat
  sleepLane : Bool
  dl : Option Dl
  -- results under way
  pend : List Pend
  ready : List Ready
  -- traps
  held : Option Held
  deferred : List Deferred
  wait : Wait
  waitWord : W32
  -- polling, aging
  ldy : Option (W64 × W64)
  backoff : Nat
  hold : Nat
  backExt : Bool
  clsS : Nat
  clsL : Nat
  waitS : Nat
  waitL : Nat
  agedS : Nat
  agedL : Nat
  issuedS : Nat
  issuedL : Nat
  -- engines: the region, the configuration word and NBM1 of one that closed ABORTED before this band issued its
  -- `rlx.begin` (spec/11 R239), and what the last closed one committed to the lanes, its steps here, d and residuals
  rx : Option RxBand
  rxLate : Option (W64 × Nat)
  rxX : Tbl W32
  rxN : Nat
  rxD : Nat
  rxLast : Tbl W32
  closed : Bool
  batch : List Served
  lastGiven : Option Nat
  cab : CabFail
  -- uncorrectable errors lying in registers (spec/13 R280)
  errV : List Nat
  errP : List Nat
  errBand : List BandPart
  -- the budget counter has reached 0 and the overrun is to be raised
  overrun : Bool
  deriving DecidableEq, Repr

/-- A band before it starts (spec/15 R302 to R304, spec/13 R275). -/
def Band.init : Band where
  wg := 0
  no := 0
  launch := 0
  ctx := 0
  tile := 0
  ptile := 0
  slot := 0
  resident := false
  prio := 0
  lanes := 1
  budget := 8
  sregs := []
  qregs := []
  vregs := []
  preds := []
  hbank := []
  pc := 0
  ret := []
  kparam := 0
  scrbase := 0
  privbase := 0
  wgidx := 0
  jto := 0
  stallchk := false
  sig := 0xFFFFFFFF
  budleft := 0
  ycstat := 0
  mxStatus := 0
  mxRetired := 0
  mxPosted := 0
  mxBad := []
  mxDone := []
  tvec := 0
  trapcause := 0
  trappc := 0
  causes := []
  dead := 0
  exited := 0
  rxout := 0
  rxpass := 0
  rxres := 0
  rxpre := 0
  rxseq := 0
  queue := []
  run := none
  copies := []
  bound := none
  slot0 := none
  slot1 := none
  kinds := []
  timers := []
  flawed := []
  badEnd := false
  firstNext := 0
  sleepLane := false
  dl := none
  pend := []
  ready := []
  held := none
  deferred := []
  wait := .none
  waitWord := 0
  ldy := none
  backoff := 0
  hold := 0
  backExt := false
  clsS := 0
  clsL := 0
  waitS := 0
  waitL := 0
  agedS := 0
  agedL := 0
  issuedS := 0
  issuedL := 0
  rx := none
  rxLate := none
  rxX := []
  rxN := 0
  rxD := 0
  rxLast := []
  closed := false
  batch := []
  lastGiven := none
  cab := ⟨0, 0, 0, 0⟩
  errV := []
  errP := []
  errBand := []
  overrun := false

/-! ### Workgroups, launches, contexts, interfaces -/

/-- A workgroup in place or saved (spec/02 R22, spec/13 R278): its scratchpad allocation in the slice,
its accumulator tiles, and what its save image holds. `saved` is none while it is resident; `savedBad`: the image
holds an uncorrectable error; `gang`: the gang size of its launch, 0 for none. -/
structure Workgroup where
  launch : Nat
  index : Nat
  ctx : Nat
  tile : Nat
  ptile : Nat
  scrOff : Nat
  scrSize : Nat
  bands : Nat
  gang : Nat
  acc : W64
  saved : Option (List Byte)
  savedAcc : List (Nat × List (Nat × W32))
  savedBad : Bool
  dying : Bool
  deriving DecidableEq, Repr

/-- The sections of a kernel image (spec/02 R364) and what its header declares. -/
structure Image where
  soff : Nat
  ssize : Nat
  loff : Nat
  lsize : Nat
  doff : Nat
  dsize : Nat
  deriving DecidableEq, Repr

/-- An entry of a reorder window (spec/18 R326): its index or sequence number, DONE, and its status. -/
structure WinEntry where
  id : Nat
  done : Bool
  status : Nat
  deriving DecidableEq, Repr

/-- An entry of a launch's shadow page map (spec/18 R328): physical unit and pool slot. -/
structure Shadow where
  va : Nat
  unit : Nat
  slot : Nat
  deriving DecidableEq, Repr

/-- A context (spec/15 R306, R307, spec/20 R341, R367). `stepMark` and `stepSig`: the launch number at a STEPEND
that waits and its signal; `noQuads`: the logical quads that had no physical quad when it was created (spec/14 R300). -/
structure Context where
  root : W64
  stopped : Bool
  contain : W64
  wdlim : W64
  extlim : W64
  lscale : W32
  lscaleHeld : Option W32
  lsn : W32
  lscnt : W32
  lsovf : Bool
  stepOpen : Bool
  stepClosing : Bool
  stepMark : Nat
  stepSig : W64
  spare0 : Bool
  spare1 : Bool
  noQuads : List Nat
  dying : Bool
  deriving DecidableEq, Repr

/-- A context at reset. -/
def Context.init : Context where
  root := 0
  stopped := false
  contain := 0
  wdlim := 0x40000000
  extlim := 0
  lscale := 0x47800000
  lscaleHeld := none
  lsn := 2000
  lscnt := 0
  lsovf := false
  stepOpen := false
  stepClosing := false
  stepMark := 0
  stepSig := 0
  spare0 := false
  spare1 := false
  noQuads := []
  dying := false

/-- A ring that waits (spec/20 R339): the completion object, its context, the count, the signal target. -/
structure RingWait where
  obj : W64
  ctx : Nat
  count : Nat
  sig : W64
  deriving DecidableEq, Repr

/-- A virtual interface (spec/20 R338, R339, R340, spec/17 R315). `gpatCnt` is its setting and `gpatUse` the register GPATCNT, the
entries of the window in use (spec/15 R306; log entry 69). -/
structure Vif where
  enabled : Bool
  ringBase : W64
  ringK : Nat
  head : Nat
  tail : Nat
  waiting : Option RingWait
  faultBase : W64
  faultK : Nat
  faultHead : Nat
  drops : Nat
  gpatCnt : Nat
  gpatUse : Nat
  gpatFirst : Nat
  poolBase : W64
  poolSlots : Nat
  saveBase : W64
  saveSize : Nat
  share0 : Nat
  share1 : Nat
  deriving DecidableEq, Repr

/-- An interface at reset. -/
def Vif.init : Vif where
  enabled := false
  ringBase := 0
  ringK := 0
  head := 0
  tail := 0
  waiting := none
  faultBase := 0
  faultK := 0
  faultHead := 0
  drops := 0
  gpatCnt := 0
  gpatUse := 0
  gpatFirst := 0
  poolBase := 0
  poolSlots := 0
  saveBase := 0
  saveSize := 0
  share0 := 0
  share1 := 0

/-! ### Engines of the scalar stream (spec/10) -/

/-- A command of a copy engine (spec/10 R209 to R212): kind 0 copy, 1 pack, 2 unpack; n bytes or elements; the
format word; who issued it. `status` is set once it has moved its data or has been discarded. -/
structure CopyCmd where
  kind : Nat
  dst : W64
  src : W64
  n : Nat
  fmt : Nat
  target : W64
  band : Nat
  wg : Nat
  ctx : Nat
  launch : Nat
  tile : Nat
  ptile : Nat
  yield : Bool
  status : Option Nat
  deriving DecidableEq, Repr

/-- A command in a decoder's queue (spec/10 R219). -/
structure Vdec where
  desc : W64
  band : Nat
  wg : Nat
  ctx : Nat
  launch : Nat
  ptile : Nat
  deriving DecidableEq, Repr

/-- A running decode (spec/10 R219 to R223): the descriptor, the next frame, the corrupt frames, the byte at which the next OBU
begins, the sequence header in force, the reference slots that hold a frame and those that are poisoned, whether no later
frame can be found, and the status of a memory fault. -/
structure VRun where
  word : Nat
  frame : Nat
  result : Nat
  pos : Nat
  seq : Option Av1Seq
  held : BitVec 8
  slots : BitVec 8
  lost : Bool
  stopped : Option Nat
  deriving DecidableEq, Repr

/-- An AV1 decoder: its commands, the first of which runs when `run` is there. -/
structure Decoder where
  queue : List Vdec
  run : Option VRun
  deriving DecidableEq, Repr

/-- A registered sequence (spec/02 R44, spec/10 R226): generation, slack, owning logical tile; none once that was
cordoned. -/
structure Seq where
  gen : Nat
  slack : Int
  owner : Option Nat
  deriving DecidableEq, Repr

/-- A formed batch. -/
structure Batch where
  no : Nat
  reqs : List Request
  deriving DecidableEq, Repr

/-- A context's state on a die (spec/12 R250, R251, R266; spec/15 R305; spec/18 R329; spec/10 R225). -/
structure DieCtx where
  ddbase : W64
  ddcap : W64
  vobase : W64
  vocount : W64
  tableReady : Bool
  orderReady : Bool
  l2v : Tbl Nat
  v2l : Tbl Nat
  peak : Nat
  specdepth : Nat
  bfqthr : Nat
  bfqmax : Nat
  depth : List Nat
  seqs : Tbl Seq
  gens : Tbl Nat
  waiting : List Request
  formed : List Batch
  deriving DecidableEq, Repr

/-- A context on a die at reset. -/
def DieCtx.init : DieCtx where
  ddbase := 0
  ddcap := 0
  vobase := 0
  vocount := 0
  tableReady := false
  orderReady := false
  l2v := []
  v2l := []
  peak := 0
  specdepth := 128
  bfqthr := 64
  bfqmax := 4096
  depth := [0, 0, 0, 0, 0, 0, 0, 0, 0, 0, 0, 0, 0, 0, 0, 0]
  seqs := []
  gens := []
  waiting := []
  formed := []

/-- A launch (spec/02 R19 to R21, R33, R34): its descriptor, its image, what it latched, its windows. `queued`: it
still holds its queue's entry; `again`: workgroups to be placed again; `waited`: the windows its gang has waited on a
die while other work was placed there, `passed`: the dies on which such work was placed in this window (R24);
`ddSave`: the Cabinet state of the context on a die before the launch first changed it (spec/12 R268); `told`: the
reports that its completion object holds; `dying`: it is to be replayed (0) or killed (1). -/
structure Launch where
  desc : BitVec 512
  descAddr : W64
  img : Image
  ctx : Nat
  prio : Nat
  kparam : W64
  contain : W64
  next : Nat
  reported : Nat
  told : Nat
  window : List WinEntry
  childSeq : Nat
  childHead : Nat
  children : List WinEntry
  parent : Option (Nat × Nat)
  status : Option Nat
  replays : Nat
  relaunches : Tbl Nat
  again : List Nat
  replayable : Bool
  shadow : List Shadow
  ddSave : Tbl DieCtx
  waited : Tbl Nat
  passed : List Nat
  queued : Bool
  dying : Option Nat
  deriving DecidableEq, Repr

/-- A command of a Cabinet engine (spec/12 R254, R255): its number in the order of R254's table, 13 for an `srw` and 14 for a
WRREG that waits its turn; what it takes; who issued it. `status` and `result` (offset, bytes and value to
write at its block) are set when it starts. -/
structure DdCmd where
  op : Nat
  tt : Nat
  a : W64
  target : W64
  word : W32
  band : Nat
  wg : Nat
  ctx : Nat
  launch : Nat
  ptile : Nat
  status : Option Nat
  result : Option (Nat × Nat × Nat)
  deriving DecidableEq, Repr

/-- An entry of the operation cache (spec/12 R259): context, kind, tt, operands and result. -/
structure OpEntry where
  ctx : Nat
  kind : Nat
  tt : Nat
  f : Nat
  g : Nat
  h : Nat
  r : Nat
  deriving DecidableEq, Repr

/-- A gang's reservation on a die (spec/02 R24): the launch and the member tiles. -/
structure Reserve where
  launch : Nat
  tiles : List Nat
  deriving DecidableEq, Repr

/-- A die (spec/02 R24, spec/10 R227, spec/12 R255, R259, spec/15 R309, spec/19 R333, spec/20 R342): `budget` is
DIEBUDGET, `unused` what the last window left, `clock` the steps of 1/16 that the tile clock is lowered by, `window`
the cycles of the present dispatch window, `windows` the windows that its governor has closed, `spent` the power of the last of
them, latest first, `walks` the walks of the page tables that it holds (spec/18 R327). -/
structure Die where
  batchNo : Nat
  cab : List DdCmd
  ops : Tbl OpEntry
  budget : Nat
  unused : Nat
  energy : W64
  clock : Nat
  window : Nat
  windows : Nat
  spent : List Nat
  reserve : Option Reserve
  walks : Tbl W64
  deriving DecidableEq, Repr

/-- A die at reset. -/
def Die.init : Die where
  batchNo := 0
  cab := []
  ops := []
  budget := 0
  unused := 0
  energy := 0
  clock := 0
  window := 0
  windows := 0
  spent := []
  reserve := none
  walks := []

/-! ### Tiles -/

/-- What the power governor gates on a tile (spec/16 R310, R311): segment i of a partition's vector registers, a way of
the L1, a tile of its array's accumulator store, a bank of its scratchpad slice. -/
inductive Store where
  | seg (part i : Nat)
  | way (i : Nat)
  | acc (i : Nat)
  | bank (i : Nat)
  deriving DecidableEq, Repr

/-- Storage that wakes, and the cycles until it may serve. -/
structure Wake where
  store : Store
  left : Nat
  deriving DecidableEq, Repr

/-- A tile by physical number (spec/15 R304, R309, spec/16 R310, R311, spec/19 R331, R332): ERRCNT stands in
`errThr`, `errUnc` and `errCorr`, and `corrBeat` counts the errors corrected since the last heartbeat; `gatedNow`: what was gated in
this cycle (spec/16 R311); `l1Late`: lines of the L1 that an engine has written in memory since they were filled (spec/04 R82);
`usedS` and `usedL`:
the partitions that have issued in this cycle, in either stream, and `alu`: the cycles for which their vector ALUs are held (spec/02
R39, spec/07 R138). -/
structure Tile where
  cycle : W64
  l1 : Tbl (List Byte)
  l1Late : List Nat
  scode : Tbl W32
  lcode : Tbl W96
  tlb : Tbl W64
  cordoned : Bool
  tempcls : Nat
  wd : Tbl Nat
  wdExt : Tbl Nat
  copies : List CopyCmd
  errThr : Nat
  errUnc : Nat
  errCorr : Nat
  corrBeat : Nat
  gated : List Store
  gatedNow : List Store
  waking : List Wake
  usedS : List Nat
  usedL : List Nat
  alu : Tbl Nat
  deriving DecidableEq, Repr

/-- A tile at reset. -/
def Tile.init : Tile where
  cycle := 0
  l1 := []
  l1Late := []
  scode := []
  lcode := []
  tlb := []
  cordoned := false
  tempcls := 0
  wd := []
  wdExt := []
  copies := []
  errThr := 0x40
  errUnc := 0
  errCorr := 0
  corrBeat := 0
  gated := []
  gatedNow := []
  waking := []
  usedS := []
  usedL := []
  alu := []

/-! ### Quads -/

/-- An entry of a reservation table (spec/09 R196): 0 mma, 1 mmah, 2 mmav, 3 acc.ld, 4 acc.st, 5 acc.out; who posted it
and its elected lane; the operation or selector word, the format words, the records it resolved, the arrays and
tiles it names; its class and the cycles it has waited since the class last rose; its next pass and whether
that runs, with the stride-pattern entry that the pass read when it started and whether that fits; its number among the band's operations; for acc.ld the destination, its type and lanes, with 1 in those that keep the
value they have (spec/05 R107), for acc.st the data. `id` tells entries apart. -/
structure MxEntry where
  id : Nat
  kind : Nat
  band : Nat
  wg : Nat
  ctx : Nat
  launch : Nat
  tile : Nat
  ptile : Nat
  lane : Nat
  op : W64
  fa : W32
  fb : W32
  rm : Rm
  ra : Nat
  rb : Nat
  arrays : List Nat
  tiles : List Nat
  cls : Nat
  waited : Nat
  pass : Nat
  running : Bool
  pat : Option Nat
  fits : Bool
  seq : Nat
  ty : Ty
  d : Nat
  vals : List (Nat × W32)
  deriving DecidableEq, Repr

/-- A record in a record cache (spec/09 R188). -/
structure CachedRec where
  ctx : Nat
  addr : Nat
  data : Nat
  deriving DecidableEq, Repr

/-- A quad by physical number (spec/09 R181 to R196): its accumulator elements, tile × 16,384 + i × 128 + j, those
that hold an uncorrectable error (spec/13 R280), the reservation table, oldest first, the record cache, most recently used
first, and QRATE. -/
structure Quad where
  acc : Tbl W32
  bad : List Nat
  table : List MxEntry
  records : List CachedRec
  qrate : Nat
  deriving DecidableEq, Repr

/-- A quad at reset. -/
def Quad.init : Quad := ⟨[], [], [], [], 255⟩

/-- A deferred arrival (spec/10 R217): the barrier's address, who deferred it, the operations that have not
retired, and whether one retired with another status than DONE. -/
structure MxArrival where
  target : W64
  band : Nat
  wg : Nat
  ctx : Nat
  launch : Nat
  tile : Nat
  ptile : Nat
  need : List Nat
  bad : Bool
  deriving DecidableEq, Repr

/-! ### Attendants (spec/14) -/

/-- The states of a vote (R295). -/
inductive VoteState where
  | clear | pending | voting | cordoned
  deriving DecidableEq, Repr

/-- What an attendant keeps about one neighbour (R293 to R299): cycles since its last valid heartbeat or the last
counted miss; cycles since its previous heartbeat and the SEQ of that; misses; the ages of its anomalies, latest
first; cycles without a miss or an anomaly; messages in this heartbeat period; the evidence held against it, 0 for
none, 1 silent, 2 babbling; the vote with the REASON it runs for, its tally of physical tiles and its window; whether
the link is enabled; the neighbours that accepted its appeal, and that window. -/
structure Watch where
  since : Nat
  beat : Option (Nat × W32)
  misses : Nat
  anoms : List Nat
  quiet : Nat
  msgs : Nat
  evid : Nat
  vote : VoteState
  reason : Nat
  tally : List Nat
  window : Nat
  link : Bool
  accepts : List Nat
  verdicts : Option Nat
  deriving DecidableEq, Repr

/-- At reset. -/
def Watch.init : Watch where
  since := 0
  beat := none
  misses := 0
  anoms := []
  quiet := 0
  msgs := 0
  evid := 0
  vote := .clear
  reason := 0
  tally := []
  window := 0
  link := true
  accepts := []
  verdicts := none

/-- An attendant by physical tile (R290 to R301): the SEQ of its next heartbeat, the cycles to it, the ATTCFG it has
taken up, its cycles in the present period, what it keeps about each neighbour (0 north, 1 east, 2 south, 3 west), the
receive buffers of its links (4: of messages that are routed to it), and ATTSTAT; `state` is ATTSTAT's STATE,
`testing` whether its self-test runs, `sig` the signature of the last one. -/
structure Attendant where
  seq : W32
  toBeat : Nat
  cfg : W64
  period : Nat
  watch : Tbl Watch
  bufs : Tbl (List W64)
  falseacc : Nat
  cordons : Nat
  appeals : Nat
  state : Nat
  reason : Nat
  testing : Bool
  sig : W32
  deriving DecidableEq, Repr

/-- At reset. -/
def Attendant.init : Attendant where
  seq := 0
  toBeat := 0
  cfg := 0x0228004020031000
  period := 0
  watch := []
  bufs := []
  falseacc := 0
  cordons := 0
  appeals := 0
  state := 0
  reason := 0
  testing := false
  sig := 0

/-- What the device sends to the host in a step (spec/20 R336): an interrupt, data, or whether a management or system
write was taken. A field of the model (INVENTORY.md). -/
inductive Sent where
  | int (vif vector : Nat)
  | data (bytes : List Byte)
  | ok (taken : Bool)
  deriving DecidableEq, Repr

/-- What the present step issues: the band, the stream, the slot of the fragment, the word and what issue
took from it; for a step of the device its agent and its input; the precise cause that it has raised. A field of the model (INVENTORY.md). -/
structure Cur where
  band : Nat
  lane : Bool
  slot : Nat
  word : W96
  x : Extra
  a : Nat
  b : Nat
  inp : Input
  cause : Option Cause
  deriving DecidableEq, Repr

/-- Nothing issues. -/
def Cur.none : Cur := ⟨0, false, 0, 0, Extra.none, 0, 0, .none, Option.none⟩

/-- The state of the machine. -/
structure State where
  mem : List Host.Cell
  wq : List WqEntry
  poison : List Nat
  quar : List Nat
  bands : Tbl Band
  wgs : Tbl Workgroup
  launches : Tbl Launch
  nextLaunch : Nat
  nextWg : Nat
  ctxs : Tbl Context
  vifs : Tbl Vif
  tiles : Tbl Tile
  dies : Tbl Die
  dctxs : Tbl DieCtx
  decoders : Tbl Decoder
  quads : Tbl Quad
  arrivals : List MxArrival
  regions : Tbl Region
  gpat : Tbl (Nat × W64)
  agenda : List Turn
  turnNo : Nat
  nonce : Nat
  cur : Cur
  spares : Tbl (Option Nat)
  noQuads : List Nat
  rr : Tbl Nat
  atts : Tbl Attendant
  attcfg : W64
  pwrceil : Nat
  meas : Tbl (BitVec 512)
  version : Nat
  golden : W32
  governor : List Byte
  peerLinks : Tbl (BitVec 12)
  linksLost : List Nat
  sent : List Sent
  up : Bool
  inRecovery : Bool
  deriving DecidableEq, Repr

/-- The machine right after reset. -/
def State.reset : State where
  mem := []
  wq := []
  poison := []
  quar := []
  bands := []
  wgs := []
  launches := []
  nextLaunch := 0
  nextWg := 0
  ctxs := []
  vifs := []
  tiles := []
  dies := []
  dctxs := []
  decoders := []
  quads := []
  arrivals := []
  regions := []
  gpat := []
  agenda := []
  turnNo := 0
  nonce := 0
  cur := Cur.none
  spares := []
  noQuads := []
  rr := []
  atts := []
  attcfg := 0x0228004020031000
  pwrceil := 1200
  meas := []
  version := 0
  golden := 0
  governor := []
  peerLinks := []
  linksLost := []
  sent := []
  up := false
  inRecovery := false

end Sys2Proof.Machine
end

