-- ==== Sys2Proof/Machine/Mem.lean ====
section
/-!
DEFINITION. Memory: the places of the four memory types, the ports' write queues, translation, the check
of an access, the L1 read cache, poison (spec/04 R72 to R78, R84; spec/13 R280, R286; spec/16 R310;
spec/17 R317; spec/18 R327, R328). A place is a number: HBM at 0, HOST at 2^52, PEER d at (2 + d) × 2^52, the slice of physical
tile p at 2^60 + p × 2^20.
-/
namespace Sys2Proof.Machine

/-! ### Places -/

inductive MemType where
  | hbm | host | peer | sram
  deriving DecidableEq, Repr

def sramBase : Nat := 0x1000000000000000
def spaceStep : Nat := 0x10000000000000

/-- The memory type of a place. -/
def typeOf (k : Nat) : MemType :=
  if sramBase ≤ k then .sram
  else if k < spaceStep then .hbm
  else if k < 2 * spaceStep then .host
  else .peer

/-- The place of byte `off` of a physical tile's slice. -/
def sramKey (ptile off : Nat) : Nat := sramBase + ptile * 0x100000 + off

/-- The single-copy atomic size of a memory type (spec/04 R75). -/
def granSize : MemType → Nat
  | .sram => 64
  | .hbm => 32
  | _ => 8

/-- The first place of a place's granule. -/
def granOf (k : Nat) : Nat := k - k % granSize (typeOf k)

/-- The bytes under one protection code, and the number of the first 8 bytes of those that hold a place (spec/13 R280): 32
bytes of HBM, else 8. -/
def codeSize (k : Nat) : Nat := match typeOf k with
  | .hbm => 32
  | _ => 8
def codeOf (k : Nat) : Nat := k / codeSize k * codeSize k / 8

/-- The bytes of HBM: 8 stacks of 80 GiB (spec/00 R4, spec/16 R310). The spec does not say what a place above them does: the
model gives it no storage, so that its translation fails (log entry 64). -/
def hbmSize : Nat := 687194767360

/-- The links that PEERID d may use now: those of its set that have not failed (spec/20 R343). A PEERID that system software
has not mapped has every link (log entry 65). -/
def liveLinks (sets : Tbl (BitVec 12)) (lost : List Nat) (d : Nat) : List Nat :=
  (List.range 12).filter (fun i => (tget 0xFFF#12 sets d).getLsbD i && !lost.contains i)

/-- The port of a place (spec/04 R74): 0 to 199 the slices, 200 to 207 the HBM stacks, 208 the host link, 209 to 220 the
twelve peer links, 221 for a peer that has none left. That the stacks follow each other in steps of 80 GiB, that one port
stands for a stack's channels, and which link of its set carries a granule of a peer are the model's choice (log entry 19). -/
def portOf (sets : Tbl (BitVec 12)) (lost : List Nat) (k : Nat) : Nat :=
  match typeOf k with
  | .sram => (k - sramBase) / 0x100000
  | .hbm => 200 + k / 85899345920 % 8
  | .host => 208
  | .peer =>
    let links := liveLinks sets lost (k / spaceStep - 2)
    209 + (links[k % spaceStep / 128 % links.length]?).getD 12

/-- The physical tile of a slice's place. -/
def sliceOf (k : Nat) : Nat := (k - sramBase) / 0x100000

def State.portAt (s : State) (k : Nat) : Nat := portOf s.peerLinks s.linksLost k

/-- No link of a peer's set is left (spec/20 R343). -/
def State.peerGone (s : State) (d : Nat) : Bool := (liveLinks s.peerLinks s.linksLost d).isEmpty

/-- The depth of a port's write queue (spec/17 R317). -/
def portDepth (p : Nat) : Nat :=
  if p < 200 then 64 else if p < 208 then 128 else if p = 208 then 64 else 32

/-! ### Bytes -/

/-- What a byte that nothing has written reads as: 0 (spec/13 R282 for scratchpad; log entry 3). -/
def blank : Byte := 0#8

/-- One byte of an array. -/
def memByte (m : List Host.Cell) (k : Nat) : Byte := tget blank m k

/-- Write one byte, keeping the canonical form. -/
def memPut (m : List Host.Cell) (k : Nat) (b : Byte) : List Host.Cell := tput blank m k b

/-- The canonical form: rising addresses, no byte listed that reads as an unlisted one does. -/
def Memory.wf (m : List Host.Cell) : Bool := tcanon blank none m

/-- Write bytes at rising places. -/
def memPuts : List Host.Cell → Nat → List Byte → List Host.Cell
  | m, _, [] => m
  | m, k, b :: bs => memPuts (memPut m k b) (k + 1) bs

/-- The n bytes from a place. -/
def memBytes (m : List Host.Cell) (k n : Nat) : List Byte := (List.range n).map (fun i => memByte m (k + i))

/-- The little-endian number of n bytes (spec/05 R90). -/
def memNat (m : List Host.Cell) (k n : Nat) : Nat := leNat n (memBytes m k n)

/-! ### Reductions (spec/08 R162) -/

/-- The new value of an atomic or reduction on patterns of its type; `c` is the new value of cas. -/
def atomNew (fn : AtomFn) (ty : Ty) (old b c : Nat) : Nat :=
  let w := if ty.wide then 64 else 32
  let o := old % 2 ^ w
  let v := b % 2 ^ w
  let f := fmtOf ty
  match fn with
  | .add => if ty.isFp then faddB f .rne o v else (o + v) % 2 ^ w
  | .min =>
    if ty.isFp then fmaxB f false o v
    else if ty.signed then (if toInt w o ≤ toInt w v then o else v) else min o v
  | .max =>
    if ty.isFp then fmaxB f true o v
    else if ty.signed then (if toInt w v ≤ toInt w o then o else v) else max o v
  | .and => o &&& v
  | .or => o ||| v
  | .xor => o ^^^ v
  | .addsat =>
    if ty.signed then
      ofInt w (max (-(2 ^ (w - 1) : Nat)) (min ((2 ^ (w - 1) : Nat) - 1) (toInt w o + toInt w v)))
    else min (2 ^ w - 1) (o + v)
  | .xchg => v
  | .cas => if o = v then c % 2 ^ w else o

/-- The bytes a type holds in memory (spec/08 R158). -/
def tySize : Ty → Nat
  | .i8 | .n8 => 1
  | .i16 | .n16 | .f16 | .bf16 => 2
  | .i64 | .n64 | .f64 => 8
  | _ => 4

/-! ### Write queues (spec/17 R317) -/

/-- Write bytes at rising places, those of one granule alone. -/
def granPuts (base : Nat) : List Host.Cell → Nat → List Byte → List Host.Cell
  | m, _, [] => m
  | m, k, b :: bs => granPuts base (if granOf k = base then memPut m k b else m) (k + 1) bs

/-- The number of n bytes of one granule. -/
def granNat (base : Nat) (m : List Host.Cell) (k n : Nat) : Nat :=
  leNat n ((List.range n).map (fun i => if granOf (k + i) = base then memByte m (k + i) else 0))

/-- Apply one change to a granule of the array. -/
def applyOp (base : Nat) (m : List Host.Cell) : WqOp → List Host.Cell
  | .store k bs => granPuts base m k bs
  | .red fn ty k b =>
    let n := tySize ty
    granPuts base m k (leBytes n (atomNew fn ty (granNat base m k n) b 0))

/-- The granule of an entry, and its port. -/
def WqEntry.base (e : WqEntry) : Nat := granOf e.gran
def State.entryPort (s : State) (e : WqEntry) : Nat := s.portAt e.base

/-- Apply an entry: its changes in arrival order. -/
def applyEntry (m : List Host.Cell) (e : WqEntry) : List Host.Cell := e.ops.foldl (applyOp e.base) m

/-- What every agent reads: the array under the entries that have arrived (spec/04 R74, R77). -/
def overlay (m : List Host.Cell) (q : List WqEntry) : List Host.Cell := q.foldl applyEntry m

def State.view (s : State) : List Host.Cell := overlay s.mem s.wq

/-- One byte of memory as any agent reads it. -/
def State.peek (s : State) (k : Nat) : Byte := memByte s.view k

/-- Apply the oldest entry of a port. -/
def applyOldest (s : State) (port : Nat) : State :=
  match s.wq.find? (fun e => s.entryPort e == port) with
  | some e => { s with mem := applyEntry s.mem e, wq := s.wq.erase e }
  | none => s

/-- Room for an entry at a port: an access at a full queue waits there while the port applies its oldest
entry. -/
def makeRoom (s : State) (port : Nat) : State :=
  if (s.wq.filter (fun e => s.entryPort e == port)).length < portDepth port then s else applyOldest s port

/-- A store arrives: it opens an entry (spec/17 R317). -/
def enqStore (s : State) (k : Nat) (bs : List Byte) : State :=
  let s' := makeRoom s (s.portAt k)
  { s' with wq := s'.wq ++ [⟨granOf k, [.store k bs], []⟩] }

/-- Whether an entry holds only reductions. -/
def WqEntry.onlyReds (e : WqEntry) : Bool :=
  e.ops.all (fun o => match o with | .red _ _ _ _ => true | .store _ _ => false)

/-- Merge a change into the youngest entry of a granule, when that holds only reductions. The queue is
given youngest first. -/
def mergeRed (g : Nat) (op : WqOp) : List WqEntry → Option (List WqEntry)
  | [] => none
  | e :: q =>
    if e.base = g then (if e.onlyReds then some ({ e with ops := e.ops ++ [op] } :: q) else none)
    else (mergeRed g op q).map (fun q' => e :: q')

/-- A reduction arrives. -/
def enqRed (s : State) (fn : AtomFn) (ty : Ty) (k b : Nat) : State :=
  match mergeRed (granOf k) (.red fn ty k b) s.wq.reverse with
  | some q => { s with wq := q.reverse }
  | none =>
    let s' := makeRoom s (s.portAt k)
    { s' with wq := s'.wq ++ [⟨granOf k, [.red fn ty k b], []⟩] }

/-- The entries of a queue once a band's instruction has issued, those that are new or have changed with its number: `old` is the queue
before. -/
def sentBy (k : Nat) : List WqEntry → List WqEntry → List WqEntry
  | _, [] => []
  | old, e :: q =>
    if old.contains e then e :: sentBy k (old.erase e) q else { e with senders := e.senders ++ [k] } :: sentBy k old q

/-! ### Tiles, contexts and their tables -/

/-- Logical tile t lies on die t / 96 at the same place among that die's 100 physical tiles, unless the
die's spare quad serves its quad for this context (spec/00 R3, spec/14 R300; log entry 31). -/
def physTile (c : Context) (spareQuad : Nat → Option Nat) (t : Nat) : Nat :=
  let die := t / 96
  let q := t % 96 / 4
  let spare := if die = 0 then c.spare0 else c.spare1
  if spare && spareQuad die == some q then die * 100 + 96 + t % 4 else die * 100 + t % 96

def State.ctx (s : State) (c : Nat) : Context := tget Context.init s.ctxs c
def State.vif (s : State) (v : Nat) : Vif := tget Vif.init s.vifs v
def State.tile (s : State) (p : Nat) : Tile := tget Tile.init s.tiles p
def State.band (s : State) (b : Nat) : Band := tget Band.init s.bands b

def State.modBand (s : State) (b : Nat) (f : Band → Band) : State := { s with bands := tmod s.bands b f }
def State.modWg (s : State) (w : Nat) (f : Workgroup → Workgroup) : State := { s with wgs := tmod s.wgs w f }
def State.modLaunch (s : State) (l : Nat) (f : Launch → Launch) : State :=
  { s with launches := tmod s.launches l f }
def State.modCtx (s : State) (c : Nat) (f : Context → Context) : State :=
  { s with ctxs := tupd Context.init s.ctxs c f }
def State.modVif (s : State) (v : Nat) (f : Vif → Vif) : State :=
  { s with vifs := tupd Vif.init s.vifs v f }
def State.modTile (s : State) (p : Nat) (f : Tile → Tile) : State :=
  { s with tiles := tupd Tile.init s.tiles p f }

/-- The agent of an access: its context, its launch, the physical tile of the band that issued it, and whether it belongs to
the tile, whose loads use and whose stores update the tile's L1 (spec/04 R74). -/
structure Agent where
  ctx : Nat
  launch : Option Nat
  ptile : Option Nat
  lane : Bool
  deriving DecidableEq, Repr

/-- A fresh index for free values: number i of the present step, by Cantor's pairing. -/
def State.freeIx (s : State) (i : Nat) : Nat := (s.nonce + i) * (s.nonce + i + 1) / 2 + i

/-! ### Gated storage (spec/16 R311) -/

/-- The most tile cycles that storage takes to wake. -/
def Store.wakeLimit : Store → Nat
  | .seg _ _ => 256
  | .way _ => 256
  | .acc _ => 512
  | .bank _ => 2048

/-- Storage of a tile that is needed wakes; how long it takes, up to its limit, is free (log entry 43). What was gated in this very
cycle is not gated at all. -/
def wakeStores (s : State) (p : Nat) (xs : List Store) : State :=
  let t := s.tile p
  let now := t.gated.filter (fun x => xs.contains x && !t.gatedNow.contains x)
  if !t.gated.any (fun x => xs.contains x) then s
  else
    s.modTile p (fun t => { t with
      gated := t.gated.filter (fun x => !xs.contains x)
      waking := t.waking ++ ((List.range now.length).zip now).map (fun e =>
        ⟨e.2, 1 + Config.freeChoice (s.freeIx (2 ^ 30 + e.1)) % e.2.wakeLimit⟩) })

/-- Whether storage of a tile still wakes. -/
def State.isWaking (s : State) (p : Nat) (x : Store) : Bool := (s.tile p).waking.any (fun w => w.store == x)

/-- Whether a place lies in a bank of a slice that still wakes: an access to it stalls (spec/13 R282). -/
def State.bankWakes (s : State) (k : Nat) : Bool :=
  typeOf k == .sram && s.isWaking (sliceOf k) (.bank ((k - sramBase) % 0x100000 / 16384))

/-! ### Translation (spec/18 R327) -/

/-- What translating an address gives. -/
inductive Xl where
  | ok (k : Nat)
  | bad (c : Cause)
  /-- a page table entry held an uncorrectable error (spec/13 R281) -/
  | poisoned
  deriving DecidableEq, Repr

def cMISALIGNED : Cause := 0x081
def cPERMISSION : Cause := 0x082
def cTRANSLATION : Cause := 0x083
def cSLICE_FENCED : Cause := 0x088
def cPAGE_QUARANTINE : Cause := 0x089

/-- A page table entry is malformed: V, reserved bits, TYPE 3, a PEERID without TYPE 2. -/
def pteBad (e : Nat) : Bool :=
  !e.testBit 0 || bitsN e 52 12 != 0 || bitsN e 4 3 != 0 || bitsN e 7 2 == 3 ||
    (bitsN e 7 2 != 2 && bitsN e 10 6 != 0)

/-- The index of a level's table, and the low bits its leaf leaves (spec/18 R327). -/
def lvlIndex (lvl va : Nat) : Nat :=
  match lvl with
  | 3 => bitsN va 39 13
  | 2 => bitsN va 30 9
  | 1 => bitsN va 21 9
  | _ => bitsN va 16 5
def lvlShift : Nat → Nat
  | 3 => 39
  | 2 => 30
  | 1 => 21
  | _ => 16

/-- A walk's answer: the entry of the 64 KiB unit, an entry that maps a page and is malformed, no page, or a poisoned
entry. -/
inductive Walk where
  | leaf (pte : Nat)
  | badLeaf (pte : Nat)
  | none
  | poisoned
  deriving DecidableEq, Repr

/-- The entry for the unit of `va` that a leaf at a level gives: ADDR [51:16] with the unit's own low
bits. -/
def leafOf (lvl va e : Nat) : Nat :=
  let unit := va / 65536 % 2 ^ (lvlShift lvl - 16)
  e % 65536 + (bitsN e 16 36 + unit) * 65536

/-- One step of the walk from a level's table, in physical HBM, past whose end every entry reads blank (log entries 17 and 64). -/
def walkFrom (m : List Host.Cell) (poison : List Nat) : Nat → Nat → Nat → Walk
  | lvl, table, va =>
    let k := table + 8 * lvlIndex lvl va
    let e := memNat m k 8
    if poison.contains (codeOf k) then .poisoned
    else if e.testBit 0 && e.testBit 1 then
      if pteBad e || lvl = 3 || bitsN e 16 36 % 2 ^ (lvlShift lvl - 16) != 0 then .badLeaf e else .leaf (leafOf lvl va e)
    else if pteBad e then .none
    else
      match lvl with
      | 0 => .none
      | l + 1 => walkFrom m poison l (bitsN e 16 36 * 65536) va

/-- The place of `va` under the entry of its unit. -/
def pteKey (e va : Nat) : Nat :=
  let p := bitsN e 16 36 * 65536 + va % 65536
  match bitsN e 7 2 with
  | 0 => p
  | 1 => spaceStep + p
  | _ => (2 + bitsN e 10 6) * spaceStep + p

/-- The key of a unit in a translation cache. -/
def tlbKey (ctx va : Nat) : Nat := ctx * 2 ^ 36 + va / 65536

def State.die (s : State) (d : Nat) : Die := tget Die.init s.dies d
def State.modDie (s : State) (d : Nat) (f : Die → Die) : State := { s with dies := tupd Die.init s.dies d f }

/-- The translations of a unit that the caches of an agent's tile and die hold. -/
def cachedWalks (s : State) (ag : Agent) (va : Nat) : List Walk :=
  match ag.ptile with
  | none => []
  | some p =>
    ([tget? (s.tile p).tlb (tlbKey ag.ctx va), tget? (s.die (p / 100)).walks (tlbKey ag.ctx va)].filterMap id).map
      (fun e => .leaf e.toNat)

/-- The entry of a unit: what the tables hold now, or, until INVAL, what a cache still holds; which one is free where they
differ (log entry 8). -/
def unitEntry (s : State) (ag : Agent) (va : Nat) : Walk :=
  let now := walkFrom s.view s.poison 3 (s.ctx ag.ctx).root.toNat va
  let held := cachedWalks s ag va
  if held.all (fun w => w == now) then now
  else ((held ++ [now])[Config.freeChoice (s.freeIx (2 ^ 50 + va / 65536)) % (held.length + 1)]?).getD now

/-- The spare quad of each die that serves a quad now; none before a tile is retired (spec/14 R300). -/
def State.spareQuad (s : State) (die : Nat) : Option Nat := tget none s.spares die

def State.phys (s : State) (ctx t : Nat) : Nat := physTile (s.ctx ctx) s.spareQuad t

/-- Whether a byte of a slice lies in an allocation of a resident workgroup of the context (spec/04 R73). -/
def allocated (s : State) (ctx ptile off : Nat) : Bool :=
  s.wgs.any (fun e =>
    let w := e.2
    w.ctx == ctx && w.ptile == ptile && w.saved.isNone && decide (w.scrOff ≤ off) &&
      decide (off < w.scrOff + w.scrSize))

/-- Whether a byte of a slice lies in the scan area of a multi-band region that is open or held (spec/11 R239). -/
def scanArea (s : State) (ptile off : Nat) : Bool :=
  s.regions.any (fun e =>
    e.2.nb != 1 && (match tget? s.wgs (e.1 / 16) with
      | some w => w.ptile == ptile && w.saved.isNone && decide (w.scrOff + w.scrSize - e.2.nb * 512 ≤ off) &&
          decide (off < w.scrOff + w.scrSize)
      | none => false))

/-- A byte of a slice (spec/04 R73). -/
def sramByte (s : State) (ag : Agent) (ptile off : Nat) : Xl :=
  if (s.tile ptile).cordoned then .bad cSLICE_FENCED
  else if allocated s ag.ctx ptile off && !(ag.lane && scanArea s ptile off) then .ok (sramKey ptile off)
  else .bad cPERMISSION

/-- One byte of a context's address space, for a read or a write (spec/04 R72, R73; spec/18 R327). A malformed entry that maps a
page and lacks the permission gives PERMISSION first (spec/08 R159). A peer that has no link left gives TRANSLATION
(spec/20 R343). The spec names the local alias for the agents of a band; to another agent, the host's transactions and the
command processor's own accesses, it is unpopulated in the model (log entry 66). -/
def xlByte (s : State) (ag : Agent) (write : Bool) (va : Nat) : Xl :=
  if va < spaceStep then
    match unitEntry s ag va with
    | .poisoned => .poisoned
    | .none => .bad cTRANSLATION
    | .badLeaf e => .bad (if !(if write then e.testBit 3 else e.testBit 2) then cPERMISSION else cTRANSLATION)
    | .leaf e =>
      if !(if write then e.testBit 3 else e.testBit 2) then .bad cPERMISSION
      else if bitsN e 7 2 == 0 && hbmSize ≤ pteKey e va then .bad cTRANSLATION
      else if bitsN e 7 2 == 2 && s.peerGone (bitsN e 10 6) then .bad cTRANSLATION
      else if e.testBit 9 || s.quar.contains (pteKey e va / 65536) then .bad cPAGE_QUARANTINE
      else .ok (pteKey e va)
  else if 0xFE00000000000000 ≤ va && va < 0xFE00000000060000 then
    match ag.ptile with
    | some p => sramByte s ag p (va - 0xFE00000000000000)
    | none => .bad cTRANSLATION
  else if 0xFF00000000000000 ≤ va && va < 0xFF0000000C000000 && va % 0x100000 < 0x60000 then
    sramByte s ag (s.phys ag.ctx ((va - 0xFF00000000000000) / 0x100000)) (va % 0x100000)
  else .bad cTRANSLATION

/-- The answer for two bytes of one access: the place of the first where both are good, else the
failing cause that comes first in the order of spec/08 R159; codes rise in that order. -/
def Xl.join : Xl → Xl → Xl
  | .poisoned, _ => .poisoned
  | _, .poisoned => .poisoned
  | .bad a, .bad b => if a ≤ b then .bad a else .bad b
  | .bad a, .ok _ => .bad a
  | .ok _, .bad b => .bad b
  | .ok k, .ok _ => .ok k

/-- The places of the n bytes of an access, each byte on its own. -/
def xlBytes (s : State) (ag : Agent) (write : Bool) (va : Nat) (n : Nat) : List Xl :=
  (List.range n).map (fun i => xlByte s ag write ((va + i) % 2 ^ 64))

/-- The check of n bytes without their alignment. -/
def xlRange (s : State) (ag : Agent) (write : Bool) (va n : Nat) : Xl :=
  let bytes := xlBytes s ag write va n
  bytes.tail.foldl Xl.join (bytes.headD (.bad cTRANSLATION))

/-- Whether a byte lies in a HOST or PEER page, whatever the page permits. -/
def linkPage (s : State) (ag : Agent) (va : Nat) : Bool :=
  decide (va < spaceStep) &&
    (match unitEntry s ag va with
      | .leaf e => bitsN e 7 2 != 0
      | _ => false)

/-- The check of an access of n bytes (spec/08 R159): alignment, then the bytes. `strict`: naturally
aligned on every memory type (spec/04 R76, spec/08 R160); a plain access must be where any of its bytes lies in a HOST or PEER
page. The answer is the place of the first byte. -/
def xlAccess (s : State) (ag : Agent) (write strict : Bool) (va n : Nat) : Xl :=
  if va % n ≠ 0 && (strict || (List.range n).any (fun i => linkPage s ag ((va + i) % 2 ^ 64))) then .bad cMISALIGNED
  else xlRange s ag write va n

/-- The places of an access's bytes, which may lie in two pages. -/
def accessKeys (s : State) (ag : Agent) (write : Bool) (va n : Nat) : List Nat :=
  (xlBytes s ag write va n).filterMap (fun x => match x with | .ok k => some k | _ => none)

/-- The translations an access used stay in the caches of the tile and of its die (log entry 8). -/
def tlbFill (s : State) (ag : Agent) (va : Nat) : State :=
  match ag.ptile with
  | none => s
  | some p =>
    if va < spaceStep then
      match unitEntry s ag va with
      | .leaf e =>
        (s.modTile p (fun t => { t with tlb := tset t.tlb (tlbKey ag.ctx va) (w64 e) })).modDie (p / 100)
          (fun d => { d with walks := tset d.walks (tlbKey ag.ctx va) (w64 e) })
      | _ => s
    else s

/-! ### Containment of writes (spec/13 R286, spec/18 R328) -/

/-- Copy n places of the array as every agent reads them: the listed bytes of the range move, the rest
read as 0. -/
def copyPlaces (m : List Host.Cell) (src dst n : Nat) : List Host.Cell :=
  let cleared := m.filter (fun c => !(decide (dst ≤ c.1) && decide (c.1 < dst + n)))
  (m.filter (fun c => decide (src ≤ c.1) && decide (c.1 < src + n))).foldl
    (fun acc c => memPut acc (c.1 - src + dst) c.2) cleared

/-- Whether a launch is under launch containment: OUTER = 0 in the CONTAIN it latched. -/
def Launch.shadowed (l : Launch) : Bool := !l.contain.getLsbD 0

/-- The first pool slot that no launch of an interface uses. -/
def freeSlot (s : State) (vif : Nat) : Option Nat :=
  let used := s.launches.flatMap (fun e => if e.2.ctx / 16 == vif then e.2.shadow.map (·.slot) else [])
  (List.range (s.vif vif).poolSlots).find? (fun i => !used.contains i)

/-- Drain every queue: the array becomes what the agents read. -/
def settle (s : State) : State := { s with mem := s.view, wq := [] }

/-- Copy a 64 KiB unit, with the errors that lie in it. -/
def copyUnit (s : State) (src dst : Nat) : State :=
  let s := settle s
  { s with
    mem := copyPlaces s.mem src dst 65536
    poison := s.poison.filter (fun g => !(decide (dst ≤ 8 * g) && decide (8 * g < dst + 65536))) ++
      (s.poison.filter (fun g => decide (src ≤ 8 * g) && decide (8 * g < src + 65536))).map (fun g => g + dst / 8 - src / 8) }

/-- A launch's first write to a unit copies the unit to the pool and makes its entry, whether or not the launch can still be
replayed (spec/18 R328); without a free slot it leaves the launch unreplayable. -/
def shadowOne (s : State) (l : Nat) (va k : Nat) : State :=
  match tget? s.launches l with
  | none => s
  | some L =>
    if !L.shadowed || L.status.isSome then s
    else if L.shadow.any (fun e => e.unit == k / 65536) then s
    else
      match freeSlot s (L.ctx / 16) with
      | none => s.modLaunch l (fun L => { L with replayable := false })
      | some i =>
        let dst := (s.vif (L.ctx / 16)).poolBase.toNat + i * 65536
        (copyUnit s (k / 65536 * 65536) dst).modLaunch l
          (fun L => { L with shadow := L.shadow ++ [Shadow.mk (va / 65536 * 65536) (k / 65536) i] })

/-- A launch and the launches it descends from, at most n of them. -/
def ancestors (s : State) : Nat → Nat → List Nat
  | 0, _ => []
  | n + 1, l =>
    l :: (match tget? s.launches l with
      | some L => (match L.parent with | some p => ancestors s n p.1 | none => [])
      | none => [])

/-- A launch and all the launches it descends from. -/
def ancestry (s : State) (l : Nat) : List Nat := ancestors s (s.launches.length + 1) l

/-- Whether a place lies in an allocation of one of the launch's own workgroups. -/
def ownSram (s : State) (l k : Nat) : Bool :=
  s.wgs.any (fun e => e.2.launch == l && e.2.saved.isNone &&
    decide (sramKey e.2.ptile e.2.scrOff ≤ k) && decide (k < sramKey e.2.ptile (e.2.scrOff + e.2.scrSize)))

/-- What a write to a place does to the containment of its launch and of other launches of the context. -/
def contain (s : State) (ag : Agent) (va k : Nat) : State :=
  match ag.launch with
  | none => s
  | some l =>
    let fam := ancestry s l
    let unrep (s : State) := fam.foldl (fun s l => s.modLaunch l (fun L => { L with replayable := false })) s
    match typeOf k with
    | .hbm =>
      let s := { s with launches := s.launches.map (fun e =>
        if e.2.ctx == ag.ctx && !fam.contains e.1 && e.2.status.isNone &&
            e.2.shadow.any (fun x => x.unit == k / 65536) then (e.1, { e.2 with replayable := false }) else e) }
      fam.foldl (fun s l => shadowOne s l va k) s
    | .sram => if ownSram s l k then s else unrep s
    | _ => unrep s

/-! ### The L1 read cache (spec/04 R74, R84; spec/16 R310) -/

/-- The line of a place. -/
def lineOf (k : Nat) : Nat := k / 128

/-- A store of the tile updates the lines that are present. -/
def l1Store (t : Tile) (k : Nat) (bs : List Byte) : Tile :=
  { t with l1 := t.l1.map (fun e =>
      (e.1, if e.1 * 128 < k + bs.length && k < (e.1 + 1) * 128 then
        (List.range e.2.length).map (fun i =>
          if k ≤ e.1 * 128 + i && e.1 * 128 + i < k + bs.length then byteAt bs (e.1 * 128 + i - k)
          else byteAt e.2 i)
        else e.2)) }

/-- The ways that a tile's L1 has: those that the governor has not gated (spec/16 R310). -/
def Tile.ways (t : Tile) : Nat :=
  8 - ((t.gated ++ t.waking.map (·.store)).filter (fun x => match x with | .way _ => true | _ => false)).length

/-- Fill a line, dropping one of a full set; which one is free (log entry 6). -/
def l1Fill (s : State) (p line : Nat) : State :=
  let t := s.tile p
  let same := t.l1.filter (fun e => e.1 % 128 == line % 128)
  let out := if same.length < t.ways then t.l1 else
    tdel t.l1 (((same.map (·.1))[Config.freeChoice (s.freeIx (2 ^ 31)) % same.length]?).getD 0)
  { s with nonce := s.nonce + 1 }.modTile p (fun t =>
    { t with
    l1 := if t.ways = 0 then t.l1 else tset out line (memBytes s.view (line * 128) 128)
    l1Late := t.l1Late.filter (fun x => x != line) })

/-- Drop a line. -/
def l1Drop (s : State) (p line : Nat) : State := s.modTile p (fun t => { t with l1 := tdel t.l1 line })

/-- Drop every line of a tile. -/
def l1Clear (s : State) (p : Nat) : State := s.modTile p (fun t => { t with l1 := [] })

/-- Drop the lines of a tile that an engine has written since they were filled: a join that a load and a fence make is seen (spec/04
R82; log entry 6). -/
def l1Renew (s : State) (p : Nat) : State :=
  s.modTile p (fun t => { t with l1 := t.l1.filter (fun e => !t.l1Late.contains e.1), l1Late := [] })

/-- What an engine writes makes late the lines that hold it. -/
def l1Engine (s : State) (line : Nat) : State :=
  if s.tiles.any (fun e => (tget? e.2.l1 line).isSome) then
    { s with tiles := s.tiles.map (fun (e : Nat × Tile) =>
      (e.1, if (tget? e.2.l1 line).isSome && !e.2.l1Late.contains line then { e.2 with l1Late := line :: e.2.l1Late } else e.2)) }
  else s

/-- Whether a scope reaches past the tile: such a load or fence does not use the L1 (spec/04 R84, R85). -/
def pastTile (sc : Scope) : Bool := decide (4 ≤ sc.code)

/-! ### Poison (spec/13 R280) -/

/-- Whether any of the places holds an uncorrectable error. -/
def anyPoison (s : State) (ks : List Nat) : Bool := ks.any (fun k => s.poison.contains (codeOf k))

/-- A store of bytes at a place: what lies whole under one code takes the data's own state, a part of it keeps its error
and takes on the data's. -/
def setPoison (s : State) (k n : Nat) (bad : Bool) : State :=
  let gs := ((List.range ((k + n + 7) / 8 - k / 8)).map (fun i => codeOf (8 * (k / 8 + i)))).eraseDups
  let whole (g : Nat) : Bool := decide (k ≤ 8 * g) && decide (8 * g + codeSize (8 * g) ≤ k + n)
  if bad then { s with poison := s.poison ++ gs.filter (fun g => !s.poison.contains g) }
  else { s with poison := s.poison.filter (fun g => !(gs.contains g && whole g)) }

/-! ### Accesses -/

/-- The tile whose L1 an agent's accesses use. -/
def Agent.l1 (ag : Agent) : Option Nat := if ag.lane then ag.ptile else none

/-- Write bytes at one place: containment, the port, the lines of the L1s, poison. The bytes lie in one granule. -/
def writePiece (s : State) (ag : Agent) (bad : Bool) (va k : Nat) (bs : List Byte) : State :=
  let s := contain s ag va k
  let s := enqStore s k bs
  let s := match ag.l1 with
    | some p => s.modTile p (fun t => l1Store t k bs)
    | none => if ag.launch.isSome then l1Engine s (lineOf k) else s
  setPoison s k bs.length bad

/-- Group an access's bytes into runs of neighbouring places within one granule. -/
def runs : List (Nat × Byte) → List (Nat × List Byte)
  | [] => []
  | (k, b) :: rest =>
    match runs rest with
    | (k', bs) :: more =>
      if k' = k + 1 && granOf k' = granOf k then (k, b :: bs) :: more else (k, [b]) :: (k', bs) :: more
    | [] => [(k, [b])]

/-- The virtual address of a place that an access from `va` reaches: pages are aligned to 64 KiB, and an access is shorter. -/
def vaAt (va k : Nat) : Nat := va + (k + 65536 - va % 65536) % 65536

/-- A store at the places of its bytes. -/
def storeAt (s : State) (ag : Agent) (bad : Bool) (va : Nat) (ks : List Nat) (bs : List Byte) : State :=
  (runs (ks.zip bs)).foldl (fun s r => writePiece s ag bad (vaAt va r.1) r.1 r.2) s

/-- A write of an engine's granule: each code takes on the error of the data that comes under it (spec/13 R280). `bad`
says of each byte whether its data carries one. -/
def storeMarked (s : State) (ag : Agent) (va : Nat) (ks : List Nat) (bs : List Byte) (bad : List Bool) : State :=
  let s := storeAt s ag false va ks bs
  let gs := (((ks.zip bad).filter (·.2)).map (fun e => codeOf e.1)).eraseDups
  { s with poison := s.poison ++ gs.filter (fun g => !s.poison.contains g) }

/-- A store whose check has passed. -/
def storeBytes (s : State) (ag : Agent) (bad : Bool) (va : Nat) (bs : List Byte) : State :=
  storeAt (tlbFill s ag va) ag bad va (accessKeys s ag true va bs.length) bs

/-- One byte that a load of the tile reads: from a line that is present, for HBM and HOST. -/
def loadByte (s : State) (ag : Agent) (past : Bool) (k : Nat) : Byte :=
  match ag.l1 with
  | some p =>
    if past || typeOf k == .sram || typeOf k == .peer then s.peek k
    else
      match tget? (s.tile p).l1 (lineOf k) with
      | some line => byteAt line (k % 128)
      | none => s.peek k
  | none => s.peek k

/-- What a load does to the L1: a narrow one fills the lines it misses, a wide one drops them. -/
def loadTouch (s : State) (ag : Agent) (past : Bool) (ks : List Nat) : State :=
  match ag.l1 with
  | none => s
  | some p =>
    ks.foldl (fun s k =>
      if typeOf k == .sram || typeOf k == .peer then s
      else if past then (if (tget? (s.tile p).l1 (lineOf k)).isSome then l1Drop s p (lineOf k) else s)
      else if (tget? (s.tile p).l1 (lineOf k)).isSome then s else l1Fill s p (lineOf k)) s

/-- A load at the places of its bytes: the bytes, whether they hold an error, and the state after. -/
def loadAt (s : State) (ag : Agent) (past : Bool) (ks : List Nat) : List Byte × Bool × State :=
  (ks.map (loadByte s ag past), anyPoison s ks, loadTouch s ag past ks)

/-- A load whose check has passed. -/
def loadBytes (s : State) (ag : Agent) (past : Bool) (va n : Nat) : List Byte × Bool × State :=
  loadAt (tlbFill s ag va) ag past (accessKeys s ag false va n)

/-- An atomic or reduction at one place (spec/08 R161). The answer is the old value and the value written. -/
def atomPlace (s : State) (ag : Agent) (fn : AtomFn) (ty : Ty) (va k b c : Nat) (ret : Bool) : Nat × Nat × State :=
  let n := tySize ty
  let s := contain s ag va k
  let old := memNat s.view k n
  let new := atomNew fn ty old b c
  let bad := s.poison.contains (codeOf k)
  let s := if ret then enqStore s k (leBytes n new) else enqRed s fn ty k b
  let s := match ag.l1 with
    | some p => s.modTile p (fun t => l1Store t k (leBytes n new))
    | none => if ag.launch.isSome then l1Engine s (lineOf k) else s
  (old, new, setPoison s k n bad)

/-- An atomic or reduction whose check has passed. -/
def atomAt (s : State) (ag : Agent) (fn : AtomFn) (ty : Ty) (va b c : Nat) (ret : Bool) : Nat × Nat × State :=
  match accessKeys s ag true va (tySize ty) with
  | [] => (0, 0, s)
  | k :: _ => atomPlace (tlbFill s ag va) ag fn ty va k b c ret

end Sys2Proof.Machine
end

