-- ==== Sys2Proof/Machine/Ops.lean ====
section
/-!
DEFINITION. The named operations over registers and bands: reading and writing registers, the active
mask, finishing an instruction, signals and barrier steps (spec/10 R207, R213, R214, R366), deferred
causes and fault records, and taking a trap and leaving its handler (spec/13 R269 to R276).
-/
namespace Sys2Proof.Machine

/-- What a meaning answers. -/
abbrev Out := Host.Outcome State Fault Refusal

/-! ### Scalar registers and predicates (spec/06 R109) -/

def Band.s (b : Band) (n : SReg) : W64 := if n = 0#6 then 0 else tget 0 b.sregs n.toNat

/-- The errors of a band's state but for that of a part whose code is written anew (spec/13 R280). -/
def Band.errBut (b : Band) (p : BandPart) : List BandPart := b.errBand.filter (fun e => e != p)

/-- A write to s0 is discarded. -/
def Band.setS (b : Band) (n : SReg) (v : W64) : Band :=
  if n = 0#6 then b else { b with sregs := tput 0 b.sregs n.toNat v, errBand := b.errBut (.sreg n.toNat) }

/-- q0 reads 1. -/
def Band.q (b : Band) (n : QReg) : Bool := if n = 0#3 then true else tget false b.qregs n.toNat

def Band.setQ (b : Band) (n : QReg) (v : Bool) : Band :=
  if n = 0#3 then b else { b with qregs := tput false b.qregs n.toNat v, errBand := b.errBut (.spred n.toNat) }

/-! ### Vector registers and lane predicates (spec/02 R25, spec/15 R302) -/

/-- The key of a lane's register. -/
def vkey (reg lane : Nat) : Nat := reg * 128 + lane

def Band.v (b : Band) (reg lane : Nat) : W32 := tget 0 b.vregs (vkey reg lane)

/-- A lane's register or, for a 64-bit type, its pair (spec/03 R50). -/
def Band.v64 (b : Band) (reg lane : Nat) : Nat :=
  (b.v reg lane).toNat + (b.v (reg + 1) lane).toNat * 4294967296

/-- Write a lane's register by its key; an uncorrectable error that lay there goes. -/
def Band.putReg (b : Band) (k : Nat) (x : W32) : Band :=
  { b with vregs := tput 0 b.vregs k x, errV := b.errV.filter (fun e => e != k) }

def Band.setV (b : Band) (reg lane : Nat) (x : W32) : Band := b.putReg (vkey reg lane) x

/-- p0 is 1 in every lane. -/
def Band.pmask (b : Band) (n : Nat) : Mask := if n = 0 then BitVec.allOnes 128 else tget 0 b.preds n

def Band.p (b : Band) (n lane : Nat) : Bool := (b.pmask n).getLsbD lane

/-- Write the lanes of `m` of a predicate; a write to p0 is discarded. -/
def Band.setP (b : Band) (n : Nat) (m val : Mask) : Band :=
  if n = 0 then b else { b with
    preds := tput 0 b.preds n ((b.pmask n &&& ~~~m) ||| (val &&& m))
    errP := b.errP.filter (fun e => !(e / 128 == n && m.getLsbD (e % 128))) }

/-- The lanes of a band. -/
def Band.all (b : Band) : Mask := maskN b.lanes

/-- The live lanes: neither exited nor dead (spec/08 R177). -/
def Band.live (b : Band) : Mask := b.all &&& ~~~b.dead &&& ~~~b.exited

/-! ### The present instruction -/

/-- The band of the present turn. -/
def State.cb (s : State) : Band := s.band s.cur.band

/-- Change the band of the present turn. -/
def State.modCb (s : State) (f : Band → Band) : State := s.modBand s.cur.band f

/-- The tile cycle of a band's tile. -/
def State.cycleOf (s : State) (b : Band) : Nat := (s.tile b.ptile).cycle.toNat

def Band.frag (b : Band) (slot : Nat) : Option Frag := if slot = 0 then b.slot0 else b.slot1

def Band.setFrag (b : Band) (slot : Nat) (f : Option Frag) : Band :=
  if slot = 0 then { b with slot0 := f } else { b with slot1 := f }

/-- The issuing fragment. -/
def State.cf (s : State) : Frag := (s.cb.frag s.cur.slot).getD ⟨0, 0, 0xFFFFFFFF, 0, 0⟩

/-- Whether a fixed-latency result of a register or predicate in a lane is not ready yet (spec/05 R107). -/
def State.early (s : State) (b : Band) (pred : Bool) (reg lane : Nat) : Bool :=
  b.ready.any (fun r => r.pred == pred && r.reg == reg && r.mask.getLsbD lane &&
    decide (s.cycleOf b < r.due))

/-- The mask of a predicate as an instruction reads it: undefined where a result is not ready (spec/01
R14, spec/05 R107). -/
def State.pread (s : State) (b : Band) (n : Nat) : Mask :=
  let m := b.pmask n
  if n = 0 || !b.ready.any (fun r => r.pred && r.reg == n) then m
  else maskWhere (BitVec.allOnes 128) (fun l =>
    if s.early b true n l then (Config.freeWord (s.freeIx (262144 + n * 128 + l))).getLsbD 0 else m.getLsbD l)

/-- A lane's register as an instruction reads it. -/
def State.vread (s : State) (b : Band) (reg lane : Nat) : W32 :=
  if s.early b false reg lane then (Config.freeWord (s.freeIx (vkey reg lane))).setWidth 32 else b.v reg lane

/-- An element as a shuffle reads it in a lane that is not its own: while a result is on its way there, the whole old element
or the whole new one (spec/08 R167); which one is free. -/
def State.vreadOther (s : State) (b : Band) (wide : Bool) (reg lane : Nat) : Nat :=
  let old (n : Nat) : W32 :=
    ((b.ready.findSome? (fun r =>
      if !r.pred && r.reg == n && r.mask.getLsbD lane && decide (s.cycleOf b < r.due) then
        (r.old.find? (fun e => e.1 == lane)).map (·.2)
      else none)).getD (b.v n lane))
  let keep := Config.freeChoice (s.freeIx (vkey reg lane)) % 2 == 1
  let part (n : Nat) : Nat := (if keep then old n else b.v n lane).toNat
  part reg + (if wide then part (reg + 1) * 4294967296 else 0)

/-- The active mask A (spec/01 R13): the fragment's lanes that are not dead and whose guard holds. -/
def State.act (s : State) : Mask :=
  let g := s.cur.x.guard
  let p := s.pread s.cb g.pg.toNat
  s.cf.mask &&& ~~~s.cb.dead &&& (if g.neg then ~~~p else p)

/-- The agent of a band's own accesses. -/
def Band.agent (b : Band) : Agent := ⟨b.ctx, some b.launch, some b.ptile, true⟩

/-! ### Finishing an instruction -/

/-- Feed a counted scalar word to SIG (spec/06 R124); words run in handler mode are not counted. -/
def Band.countS (b : Band) (n w : Nat) : Band :=
  if b.held.isSome then b else { b with sig := crcWord b.sig n w }

/-- Go on at the next scalar word, without counting this one. -/
def Band.skipS (b : Band) (n : Nat) : Band := { b with pc := b.pc + w64 n, wait := .none }

/-- Count this scalar word and go on at the next. -/
def Band.nextS (b : Band) (w : Nat) : Band := (b.countS 4 w).skipS 4

/-- Finish a counted scalar instruction that changed its band by f. -/
def finishS (s : State) (f : Band → Band) : State :=
  s.modCb (fun b => (f b).nextS s.cur.word.toNat)

/-- The result of a scalar instruction: sd ← v, and on. -/
def writeS (s : State) (d : SReg) (v : W64) : Out := .next (finishS s (fun b => b.setS d v))

/-- Whether the running block is the body of a relaxation region: its words are not counted
(spec/13 R288). -/
def Band.inBody (b : Band) : Bool := (b.run.map (·.body)).getD false

/-- The cycle before which the fragment that issues does not issue again (spec/05 R106). -/
def State.holdUntil (s : State) : Nat := s.cycleOf s.cb + s.cur.x.guard.stall.toNat

/-- The issuing fragment goes on at a lane address; `counted`: its word feeds the fragment's signature
(spec/13 R288). -/
def Band.moveL (b : Band) (c : Cur) (now : Nat) (addr : W64) (counted : Bool) : Band :=
  match b.frag c.slot with
  | none => b
  | some f =>
    let sig := if counted && !b.inBody then crcWord f.lsig 12 c.word.toNat else f.lsig
    b.setFrag c.slot (some { f with
      pc := addr, lsig := sig, age := now, next := now + c.x.guard.stall.toNat })

/-- Finish a counted lane instruction that changed its band by f. -/
def finishL (s : State) (f : Band → Band) : State :=
  let now := s.cycleOf s.cb
  let addr := s.cf.pc + 12
  s.modCb (fun b => (f b).moveL s.cur now addr true)

/-- A lane instruction whose word is not counted moves its fragment (spec/13 R288). -/
def moveTo (s : State) (addr : W64) : State :=
  let now := s.cycleOf s.cb
  s.modCb (fun b => b.moveL s.cur now addr false)

/-- Record when a fixed-latency result is ready, and what it replaces (spec/05 R107, spec/07 R138); p0 takes none (R146). -/
def Band.due (b : Band) (pred : Bool) (reg : Nat) (m : Mask) (at_ : Nat) (old : List (Nat × W32)) : Band :=
  if pred && reg == 0 then b else { b with ready := b.ready ++ [⟨pred, reg, m, at_, old⟩] }

/-- Put a variable-latency result on the scoreboard (spec/02 R39). -/
def Band.later (b : Band) (p : Pend) : Band := { b with pend := b.pend ++ [p] }

/-- Write a variable-latency result. What it writes where an earlier fixed-latency result is not ready was settled when it issued
(State.kept). -/
def Band.land (b : Band) (p : Pend) : Band :=
  let b := p.sw.foldl (fun b e => b.setS (BitVec.ofNat 6 e.1) e.2) b
  let b := p.qw.foldl (fun b e => b.setQ (BitVec.ofNat 3 e.1) e.2) b
  p.vw.foldl (fun b e => b.putReg e.1 e.2) b

/-- Whether the launch of a band carries scaled gradients: SCALEDG of its descriptor. -/
def State.scaledG (s : State) (launch : Nat) : Bool :=
  match tget? s.launches launch with
  | some l => l.desc.getLsbD 279
  | none => false

/-- A ±Inf or NaN result of a launch's agent sets the context's overflow flag (spec/03 R71). -/
def setOverflow (s : State) (launch ctx : Nat) (special : Bool) : State :=
  if special && s.scaledG launch then s.modCtx ctx (fun c => { c with lsovf := true }) else s

/-- Results that land set their context's overflow flag (spec/03 R71). -/
def landFlag (s : State) (k : Nat) (ps : List Pend) : State :=
  let b := s.band k
  setOverflow s b.launch b.ctx (ps.any (·.ovf))

/-- Every result under way lands (spec/13 R274, step 1). -/
def Band.drain (b : Band) : Band := { b.pend.foldl Band.land b with pend := [], ready := [] }

/-- A scalar result of variable latency: the scoreboard holds it and the stream goes on. -/
def laterS (s : State) (d : SReg) (v : W64) : Out :=
  .next (finishS s (fun b => b.later ⟨false, [(d.toNat, v)], [], [], [], false⟩))

/-! ### Causes (spec/13 R269, R270) -/

def cILLEGAL_ENCODING : Cause := 0x001
def cRESERVED_NONZERO : Cause := 0x002
def cREG_RANGE : Cause := 0x003
def cSTALL_SHORT : Cause := 0x010
def cFORMAT_DIVERGENCE : Cause := 0x041
def cFORMAT_BAD : Cause := 0x042
def cBARRIER_OVERRUN : Cause := 0x0C1
def cBARRIER_BAD : Cause := 0x0C2
def cSPLIT_OVERFLOW : Cause := 0x0C4
def cWATCHDOG : Cause := 0x0C8
def cENG_OPERAND : Cause := 0x100
def cMX_OPERAND : Cause := 0x101
def cACC_DEADLOCK : Cause := 0x104
def cACC_NOTHELD : Cause := 0x105
def cRECORD_BAD : Cause := 0x108
def cPAIR_BAD : Cause := 0x109
def cGATHER_FAULT : Cause := 0x10C
def cBFQ_FULL : Cause := 0x111
def cRLX_NOCONV : Cause := 0x141
def cRLX_STALL : Cause := 0x142
def cRLX_NONDIFF : Cause := 0x143
def cRLX_BODY_ILLEGAL : Cause := 0x144
def cRLX_CONFIG : Cause := 0x145
def cRLX_STATE : Cause := 0x146
def cDD_TABLE_FULL : Cause := 0x150
def cDD_BAD_NODE : Cause := 0x151
def cDD_OPERAND : Cause := 0x152
def cDD_COUNT_RANGE : Cause := 0x153
def cLANE_KILLED : Cause := 0x181
def cSIG_MISMATCH : Cause := 0x188
def cSIG_MASK : Cause := 0x189
def cRET_MISMATCH : Cause := 0x18A
def cDOUBLE_TRAP : Cause := 0x190
def cHANDLER_FETCH : Cause := 0x191
def cTILE_FENCED : Cause := 0x198
def cTARGET_RANGE : Cause := 0x1C1
def cTARGET_UNBOUND : Cause := 0x1C2
def cHANDLER_MODE : Cause := 0x1C3
def cBUDGET_OVERRUN : Cause := 0x1C4
def cTARGET_BUDGET : Cause := 0x1C5

/-- The place of a class, in ranges of 64 codes, in the order of spec/13 R270. -/
def classRank : Nat → Nat
  | 6 => 0 | 0 => 1 | 2 => 2 | 1 => 3 | 3 => 4 | 4 => 5 | 5 => 6 | _ => 7

/-- The rank of a cause: the lower the number, the higher it ranks. -/
def causeRank (c : Cause) : Nat := classRank (c.toNat / 64) * 64 + c.toNat % 64

/-- The highest-ranked cause of lanes and its lowest lane (spec/13 R271). -/
def electLane : List (Nat × Cause) → Option (Nat × Cause)
  | [] => none
  | e :: es =>
    match electLane es with
    | none => some e
    | some w => if causeRank w.2 < causeRank e.2 then some w else some e

/-! ### Fault records and deferred causes (spec/20 R340, spec/13 R273) -/

/-- The entry of a fault ring: 32 bytes, little-endian. -/
def faultEntry (addr desc wgidx ltile bandNo ctx kind cause : Nat) : List Byte :=
  leBytes 32 (cause + kind * 2 ^ 12 + ctx % 16 * 2 ^ 80 + bandNo * 2 ^ 84 + ltile * 2 ^ 88
    + wgidx * 2 ^ 96 + desc * 2 ^ 128 + addr * 2 ^ 192)

/-- An interrupt to the host (spec/20 R336). -/
def interrupt (s : State) (vif vector : Nat) : State := { s with sent := s.sent ++ [.int vif vector] }

/-- Write an entry to a context's fault ring, and then an interrupt of vector 0; a full ring drops the entry and
counts. The ring lies in physical HBM, as the command ring does; its header's place is not the spec's (log entry 32). -/
def faultWrite (s : State) (ctx : Nat) (entry : List Byte) : State :=
  let v := s.vif (ctx / 16)
  if v.faultHead < 2 ^ v.faultK && v.faultK != 0 then
    let k := v.faultBase.toNat + 32 * v.faultHead
    let s := setPoison (enqStore s k entry) k 32 false
    interrupt (s.modVif (ctx / 16) (fun v => { v with faultHead := v.faultHead + 1 })) (ctx / 16) 0
  else interrupt (s.modVif (ctx / 16) (fun v => { v with drops := min (2 ^ 32 - 1) (v.drops + 1) })) (ctx / 16) 0

/-- The address of a launch's descriptor is what a record's LAUNCH names. -/
def State.launchDesc (s : State) (l : Nat) : Nat :=
  match tget? s.launches l with
  | some L => L.descAddr.toNat
  | none => 0

/-- A record about a band. -/
def bandRecord (s : State) (b : Nat) (addr kind cause : Nat) : State :=
  let x := s.band b
  faultWrite s x.ctx (faultEntry addr (s.launchDesc x.launch) x.wgidx.toNat x.tile x.no x.ctx kind cause)

/-- Give a band a deferred cause, taken before its next issue (spec/13 R273). A band that has ended
takes none. -/
def deferCause (s : State) (b : Nat) (c : Cause) (lane : Option Nat) : State :=
  s.modBand b (fun x => { x with deferred := x.deferred ++ [⟨c, lane⟩] })

/-! ### Signals and barrier steps (spec/10 R207, R213, R214, R366) -/

/-- The fields of a barrier object (R213). -/
structure Barrier where
  expected : Nat
  arrived : Nat
  phase : Nat
  overrun : Bool
  poisoned : Bool
  pcount : Nat
  phases : Nat
  lastovr : Nat
  deriving DecidableEq, Repr

def Barrier.ofNat (x : Nat) : Barrier :=
  ⟨bitsN x 0 16, bitsN x 16 16, bitsN x 32 4, x.testBit 36, x.testBit 37, bitsN x 40 8, bitsN x 64 32,
    bitsN x 96 32⟩

def Barrier.toNat (b : Barrier) : Nat :=
  b.expected + b.arrived * 2 ^ 16 + b.phase * 2 ^ 32 + b.overrun.toNat * 2 ^ 36
    + b.poisoned.toNat * 2 ^ 37 + b.pcount * 2 ^ 40 + b.phases * 2 ^ 64 + b.lastovr * 2 ^ 96

/-- The codes of a barrier result word (R215). -/
def rARRIVED : Nat := 0
def rCOMPLETED : Nat := 1
def rOVERRUN : Nat := 2
def rINVALID : Nat := 3
def rCHANGED : Nat := 4
def rTIMEOUT : Nat := 5

/-- An arrival of count c by agent g (R214). -/
def arrive (b : Barrier) (c : Nat) (pois : Bool) (g : Nat) : Nat × Barrier :=
  if b.expected = 0 then (rINVALID, b)
  else if b.expected < b.arrived + c then (rOVERRUN, { b with overrun := true, lastovr := g })
  else
    let b := if pois then { b with poisoned := true, pcount := min 255 (b.pcount + 1) } else b
    if b.arrived + c = b.expected then
      (rCOMPLETED, { b with arrived := 0, phase := (b.phase + 1) % 16, phases := (b.phases + 1) % 2 ^ 32 })
    else (rARRIVED, { b with arrived := b.arrived + c })

/-- The result word of a barrier operation (R215). -/
def barrierWord (code : Nat) (b : Barrier) : W64 :=
  w64 (code + b.phase * 256 + b.poisoned.toNat * 4096 + b.overrun.toNat * 8192)

/-- The place of a barrier object for an agent, or the cause of R213, its first check apart. -/
def barrierPlace (s : State) (ag : Agent) (va : Nat) : Xl :=
  if va < spaceStep then .bad cBARRIER_BAD else xlAccess s ag true false va 16

def readBarrier (s : State) (k : Nat) : Barrier := Barrier.ofNat (memNat s.view k 16)

/-- A step that changes PHASE is reported to the bands that wait on the object (R216). -/
def wakeWaiters (s : State) (k : Nat) (b : Barrier) : State :=
  { s with bands := s.bands.map (fun e =>
    match e.2.wait with
    | .bwait d key p sc _ _ =>
      if key = k && p != b.phase then (e.1, { e.2 with wait := .bdone d (barrierWord rCHANGED b) sc }) else e
    | _ => e) }

/-- Replace a barrier object in one step at its slice port. -/
def putBarrier (s : State) (ag : Agent) (va k : Nat) (b : Barrier) : State :=
  wakeWaiters (b := b) (k := k) <| writePiece s ag (s.poison.contains (codeOf k) || s.poison.contains (codeOf (k + 8))) va k (leBytes 16 b.toNat)

/-! ### Uncorrectable errors (spec/13 R280, R281, R284) -/

/-- Error in HBM, HOST or PEER data, a split stack, an image or code: the outer boundary of the launch
(R281, R286, R287). The command processor carries it out as a step of its own. -/
def outerError (s : State) (l : Nat) : State :=
  match tget? s.launches l with
  | none => s
  | some L =>
    if L.shadowed && L.replayable then
      s.modLaunch l (fun L => { L with dying := some (L.dying.getD 0) })
    else s.modCtx L.ctx (fun c => { c with dying := true })

/-- Error in band state: the workgroup of the band. -/
def wgError (s : State) (w : Nat) : State := s.modWg w (fun x => { x with dying := true })

/-- Whether a workgroup in place holds a byte of a slice. -/
def Workgroup.holds (w : Workgroup) (k : Nat) : Bool :=
  w.saved.isNone && decide (sramKey w.ptile w.scrOff ≤ k) && decide (k < sramKey w.ptile (w.scrOff + w.scrSize))

/-- A consumed error at places of memory: every workgroup whose allocation holds such a byte for scratchpad, of which a byte
in no allocation is scrubbed; the launch's outer boundary for the rest (R281). -/
def memError (s : State) (l : Nat) (ks : List Nat) : State :=
  let bad := ks.filter (fun k => s.poison.contains (codeOf k))
  bad.foldl (fun s k =>
    if typeOf k == .sram then
      if s.wgs.any (fun e => e.2.holds k) then
        { s with wgs := s.wgs.map (fun e => if e.2.holds k then (e.1, { e.2 with dying := true }) else e) }
      else setPoison (enqStore s (8 * codeOf k) (leBytes 8 0)) (8 * codeOf k) 8 false
    else outerError s l) s

/-- A consumed error of an engine, at places of memory: that of its launch, and for an agent with no launch the address space stands
for the boundary of a launch (log entry 54). -/
def engError (s : State) (ag : Agent) (ks : List Nat) : State :=
  match ag.launch with
  | some l => memError s l ks
  | none =>
    let s' := memError s 0 (ks.filter (fun k => typeOf k == .sram))
    if anyPoison s (ks.filter (fun k => typeOf k != .sram)) then s'.modCtx ag.ctx (fun c => { c with dying := true }) else s'

/-- A step of an object that stood in state s uses it as an operand (R280). -/
def usedObject (s : State) (ag : Agent) (ks : List Nat) (t : State) : State :=
  if anyPoison s ks then engError t ag ks else t

/-- Who makes a signal: the agent of its accesses, the band that supplied the target, and the agent
number of a barrier arrival. -/
structure Source where
  ag : Agent
  band : Option Nat
  num : Nat
  deriving DecidableEq, Repr

/-- A signal that cannot be made (R366): a deferred cause in the band that supplied the target, or an
entry of the fault ring when that band has ended or there is none. -/
def signalLost (s : State) (src : Source) (target : W64) (c : Cause) : State :=
  match src.band with
  | some b =>
    if (tget? s.bands b).isSome then deferCause s b c none
    else faultWrite s src.ag.ctx (faultEntry target.toNat
      (match src.ag.launch with | some l => s.launchDesc l | none => 0) 0xFFFFFFFF 0 0 src.ag.ctx 6 c.toNat)
  | none => faultWrite s src.ag.ctx (faultEntry target.toNat
      (match src.ag.launch with | some l => s.launchDesc l | none => 0) 0xFFFFFFFF 0 0 src.ag.ctx 6 c.toNat)

/-- Whether a signal target is well formed (R207). -/
def targetOk (t : W64) : Bool :=
  let n := t.toNat
  if n = 0 then true else if n % 2 = 0 then n % 8 == 0 else n % 16 == 1

/-- Signal a count n and a status st to a target (R207, R366). A signal to an object with an uncorrectable error consumes it
(spec/13 R280). -/
def signal (s : State) (src : Source) (target : W64) (n st : Nat) : State :=
  let t := target.toNat
  if t = 0 then s
  else if !targetOk target then signalLost s src target cENG_OPERAND
  else if t % 2 = 0 then
    match xlAccess s src.ag true true t 8 with
    | .ok k =>
      let old := memNat s.view k 8
      let stat := if old / 2 ^ 48 = 0 then st % 2 ^ 16 else old / 2 ^ 48
      usedObject s src.ag [k] (writePiece s src.ag (s.poison.contains (codeOf k)) t k
        (leBytes 8 ((old + n) % 2 ^ 48 + stat * 2 ^ 48)))
    | .bad c => signalLost s src target c
    | .poisoned => s.modCtx src.ag.ctx (fun c => { c with dying := true })
  else
    match barrierPlace s src.ag (t - 1) with
    | .ok k => usedObject s src.ag [k, k + 8] (putBarrier s src.ag (t - 1) k (arrive (readBarrier s k) 1 (st != 0) src.num).2)
    | .bad c => signalLost s src target c
    | .poisoned => s.modCtx src.ag.ctx (fun c => { c with dying := true })

/-- The agent number of a band (R213). -/
def Band.agentNum (b : Band) : Nat := b.tile * 96 + b.slot

/-- The source of a band's own signals. -/
def Band.source (b : Band) : Source := ⟨b.agent, some (b.wg * 16 + b.no), b.agentNum⟩

/-- A load other than `ldy` ends the back-off (spec/02 R41). -/
def Band.endBackoff (b : Band) : Band := { b with backoff := 0, hold := 0 }

/-! ### Closing a region (spec/11 R241, R244 to R247) -/

/-- The bands of a region. -/
def regionBands (leader : Nat) (r : Region) : List Nat := (List.range r.nb).map (fun i => leader + i)

/-- Component i of a step's state in a table. -/
def stepKey (t i : Nat) : Nat := t * 8 + i
def Region.guess (r : Region) (t i : Nat) : W32 := tget 0 r.g (stepKey t i)
def Region.dim (r : Region) : Nat := bitsN r.cfg.toNat 0 4

/-- The status registers of a band of a region with an outcome (R247); `up`: resmax rounded upward. -/
def Band.rxStatus (b : Band) (r : Region) (out : Nat) (up : W32) : Band :=
  let inexact := out == 3 || out == 5 || out == 6 || out == 7 || out == 8
  { b with
    rxout := w64 (out + inexact.toNat * 32 + r.stalled.toNat * 64 + (out == 7).toNat * 128 + r.n * 65536)
    rxpass := w64 (min r.pass (2 ^ 32 - 1) + r.stalls * 2 ^ 32)
    rxres := up.setWidth 64
    rxpre := w64 r.e }

/-- A band leaves its region: the run of the body ends, and what was committed stays with its lanes. -/
def Band.leaveRegion (b : Band) (r : Region) (x : Nat → Nat → W32) : Band :=
  match b.rx with
  | none => b
  | some k =>
    let b := { b with
      rx := none
      closed := true
      rxN := k.steps
      rxD := r.dim
      rxX := ((List.range k.steps).flatMap (fun l => (List.range r.dim).map (fun i => (stepKey l i, x (k.first + l) i)))).foldl
        (fun (t : Tbl W32) (e : Nat × W32) => tput 0 t e.1 e.2) []
      rxLast := ((List.range k.steps).map (fun l => (l, if k.first + l + 1 < r.n then tget 0 r.res (k.first + l) else 0))).foldl
        (fun (t : Tbl W32) (e : Nat × W32) => tput 0 t e.1 e.2) []
      queue := if b.live = 0 then [] else b.queue.filter (fun q => !q.body) }
    if b.inBody then { b with run := none, slot0 := none, slot1 := none, kinds := [], timers := [], flawed := [] } else b

/-- A region closes in every band with an outcome and the states it commits: x t i is component i of x[t + 1]. The
upward residual stands in RXRES already. -/
def closeRegion (s : State) (leader : Nat) (out : Nat) (x : Nat → Nat → W32) : State :=
  match tget? s.regions leader with
  | none => s
  | some r =>
    let s := (regionBands leader r).foldl (fun s b => s.modBand b (fun y =>
      if y.rx.any (fun k => k.leader == leader) then (y.rxStatus r out (w32 y.rxres.toNat)).leaveRegion r x else y)) s
    { s with regions := tdel s.regions leader }

/-- A region closes ABORTED, with the guesses as they stand. In an in-order run the results of that run so far count for the overflow
flag (spec/11 R245). -/
def abortRegion (s : State) (leader : Nat) : State :=
  match tget? s.regions leader with
  | none => s
  | some r =>
    let special := r.seqAt.isSome && (r.seqOvf || (regionBands leader r).any (fun b => (s.band b).rx.any (fun k => k.ovf != 0)))
    let x := s.band leader
    closeRegion (setOverflow s x.launch x.ctx special) leader 8 (fun t i => r.guess (t + 1) i)

/-- The region of a band closes ABORTED. -/
def abortOf (s : State) (b : Nat) : State :=
  match (s.band b).rx with
  | some k => abortRegion s k.leader
  | none => s

/-! ### Taking a trap (spec/13 R271 to R276) -/

/-- A trap to take: the entries of CAUSEV, the elected lane and its cause, and the instruction that
TRAPPC names. -/
structure Trap where
  entries : List (Nat × Cause)
  lane : Nat
  cause : Cause
  multi : Bool
  defer : Bool
  lstream : Bool
  slot : Nat
  addr : W64
  fragMask : Mask
  active : Mask
  size : Nat
  kind : SkipKind
  deriving DecidableEq, Repr

/-- TRAPCAUSE (R275). -/
def Trap.causeWord (t : Trap) : W64 :=
  w64 (t.cause.toNat + t.lane % 128 * 512 + t.multi.toNat * 65536 + t.defer.toNat * 131072)

/-- TRAPPC (R275). -/
def Trap.pcWord (t : Trap) : W64 :=
  w64 (t.addr.toNat % 2 ^ 52 + t.slot % 2 * 2 ^ 61 + t.defer.toNat * 2 ^ 62 + t.lstream.toNat * 2 ^ 63)

/-- Where an error of the band's state lies once the banks have changed places. -/
def BandPart.otherBank : BandPart → BandPart
  | .sreg n => if 56 ≤ n then .bank (n - 56) else .sreg n
  | .bank i => .sreg (56 + i)
  | p => p

/-- Exchange s56 to s63 with the handler bank (R274). -/
def Band.swapBank (b : Band) : Band :=
  let old := (List.range 8).map (fun i => tget 0 b.sregs (56 + i))
  let new := (List.range 8).map (fun i => tget 0 b.hbank i)
  { b with
    sregs := (List.range 8).foldl (fun t i => tput 0 t (56 + i) ((new[i]?).getD 0)) b.sregs
    hbank := (List.range 8).foldl (fun t i => tput 0 t i ((old[i]?).getD 0)) b.hbank
    errBand := b.errBand.map BandPart.otherBank }

/-- The band enters its handler (R274). -/
def Band.enter (b : Band) (t : Trap) : Band :=
  let b := b.drain
  let b := { b with
    causes := t.entries.foldl (fun (tb : Tbl Cause) (e : Nat × Cause) => tset tb e.1 e.2) []
    trapcause := t.causeWord
    trappc := t.pcWord
    errBand := b.errBand.filter (fun e => !([0x019, 0x01A, 0x01B, 0x01C].map BandPart.special).contains e)
    held := some ⟨b.pc, t.lstream, t.slot, t.fragMask, t.active, t.size, t.kind,
      (match b.wait with | .yieldc true c d => .yieldc true c d | _ => .none)⟩
    wait := .none }
  let b := b.swapBank
  let b := (b.setS 56 t.causeWord).setS 57 t.pcWord
  { b with pc := b.tvec }

/-- The scalar section of a launch's image in virtual addresses. -/
def Launch.image (l : Launch) : Nat := bitsN l.desc.toNat 0 64
def Launch.scalarEnd (l : Launch) : Nat := l.image + l.img.soff + l.img.ssize
def Launch.scalarOk (l : Launch) (pc : Nat) : Bool :=
  decide (l.image + l.img.soff ≤ pc) && decide (pc < l.scalarEnd) && pc % 4 == 0

/-- What the fetch of a handler's first word meets (spec/05 R365, spec/06 R120): a poisoned entry of the page tables is
contained by address-space kill (R281), and any other fault is HANDLER_FETCH. -/
def handlerWord (s : State) (b : Band) (pc : Nat) : Xl :=
  match tget? s.launches b.launch with
  | some l => if l.scalarOk pc then xlRange s b.agent false pc 4 else .bad cTARGET_RANGE
  | none => .bad cTARGET_RANGE

/-- Whether the word at a scalar address can be fetched. -/
def fetchable (s : State) (b : Band) (pc : Nat) : Bool :=
  match handlerWord s b pc with
  | .bad _ => false
  | _ => true

/-! ### Requests of the batch-forming queue (spec/10 R227) -/

def dieOf (tile : Nat) : Nat := tile / 96
def dctxKey (die ctx : Nat) : Nat := die * 1024 + ctx

/-- The source of a batch-forming queue's signals (R213, R366): the band that posted the request, whose tile the local alias
names (spec/04 R72). -/
def bfqSource (k : Nat) (r : Request) : Source :=
  ⟨⟨k % 1024, some r.launch, some r.ptile, false⟩, some r.band, 0x84000000 + k / 1024⟩

/-- A request retires: it signals its rows with a status (R227). -/
def retire (s : State) (k : Nat) (r : Request) (st : Nat) : State := signal s (bfqSource k r) r.target r.rows st

/-- Requests of a band's batch that have not retired are retired with a status (R227). -/
def abandon (s : State) (b : Nat) (st : Nat) : State :=
  let x := s.band b
  let k := dctxKey (dieOf x.tile) x.ctx
  let left := x.batch.filter (fun r => !r.retired)
  let s := s.modBand b (fun x => { x with batch := x.batch.map (fun r => { r with retired := true }) })
  left.foldl (fun s r => retire s k r.req st) s

/-- A band ends with DOUBLE_TRAP or HANDLER_FETCH: a fault record, the requests of its batch retire ABANDONED (R227), and its
launch is to be killed without a replay (R276). -/
def fatal (s : State) (b : Nat) (c : Cause) : State :=
  let x := s.band b
  let s := abandon (bandRecord s b x.trappc.toNat 1 c.toNat) b 0x41
  let s := { s with bands := tdel s.bands b }
  s.modLaunch x.launch (fun l => { l with dying := some 1 })

/-- The queues lose the marker of a band's `srw`, which reaches them anew when it issues again (spec/12 R255). -/
def dropMark (s : State) (b : Nat) : State :=
  { s with dies := s.dies.map (fun (e : Nat × Die) =>
    (e.1, { e.2 with cab := e.2.cab.filter (fun c => !(c.op = 13 && c.band = b)) })) }

/-- Take a trap in a band (R274, R276). TVEC is read for it: an error there kills the workgroup (R280, R281). -/
def takeTrap (s : State) (b : Nat) (t : Trap) : State :=
  let x := s.band b
  if x.held.isSome then fatal (s.modBand b (fun x => { x with trappc := t.pcWord })) b cDOUBLE_TRAP
  else if x.errBand.contains (.special 0x018) then wgError s x.wg
  else if x.tvec = 0 || !fetchable s x x.tvec.toNat then
    fatal (s.modBand b (fun x => { x with trappc := t.pcWord })) b cHANDLER_FETCH
  else
    let u := (dropMark (landFlag s b x.pend) b).modBand b (fun x => x.enter t)
    if handlerWord s x x.tvec.toNat = .poisoned then u.modCtx x.ctx (fun c => { c with dying := true }) else u

/-- The state notes the precise cause that its instruction has raised. -/
def State.raised (s : State) (c : Cause) : State := { s with cur := { s.cur with cause := some c } }

/-- A precise cause of the scalar instruction that issues (spec/06 R109). `size` and `kind` say where
tret.skip resumes. -/
def trapScalarAs (s : State) (c : Cause) (size : Nat) (kind : SkipKind) : Out :=
  let b := s.cb
  let l := lowest b.live
  .next ((takeTrap s s.cur.band ⟨[(l, c)], l, c, false, false, false, 0, b.pc, 0, 0, size, kind⟩).raised c)

def trapScalar (s : State) (c : Cause) : Out := trapScalarAs s c 4 .plain

/-- A precise cause in lanes of the issuing fragment (R271). With no lane named the cause is not raised. In the body of
a region, the region closes ABORTED first, and the body is not resumed (spec/11 R244). -/
def trapLanesAs (s : State) (entries : List (Nat × Cause)) (kind : SkipKind) : Out :=
  match electLane entries with
  | none => .next s
  | some (l, c) =>
    let body := s.cb.inBody
    let t : Trap := ⟨entries, l, c, entries.any (fun e => e.2 != c), false, true, s.cur.slot,
      s.cf.pc, s.cf.mask, s.act, 12, if body then .region else kind⟩
    .next ((takeTrap (if body then abortOf s s.cur.band else s) s.cur.band t).raised c)

def trapLanes (s : State) (entries : List (Nat × Cause)) : Out := trapLanesAs s entries .plain

/-- A cause in every lane of A, or in the lowest lane of the fragment when A is empty (spec/05 R91). -/
def trapActive (s : State) (c : Cause) : Out :=
  if s.act = 0 then trapLanes s [(lowest s.cf.mask, c)]
  else trapLanes s ((lanesOf s.act).map (fun l => (l, c)))

/-- A cause in the lowest lane of the fragment. -/
def trapLowest (s : State) (c : Cause) : Out := trapLanes s [(lowest s.cf.mask, c)]

/-- A precise cause of the instruction that issues, in either stream. -/
def trapHere (s : State) (c : Cause) : Out := if s.cur.lane then trapActive s c else trapScalar s c

/-- Take a band's first deferred cause (R273). TRAPPC names the instruction about to issue. -/
def takeDeferred (s : State) (b : Nat) : State :=
  let x := s.band b
  match x.deferred with
  | [] => s
  | d :: ds =>
    let l := match d.lane with
      | some l => if x.live.getLsbD l then l else lowest x.live
      | none => lowest x.live
    let (lstream, slot, addr, fm) :=
      if s.cur.lane && s.cur.band == b then
        match x.frag s.cur.slot with
        | some f => (true, s.cur.slot, f.pc, f.mask)
        | none => (false, 0, x.pc, 0)
      else (false, 0, x.pc, 0)
    let s := s.modBand b (fun x => { x with deferred := ds })
    takeTrap s b ⟨[(l, d.cause)], l, d.cause, false, true, lstream, slot, addr, fm, 0, 0, .again⟩

/-- A band leaves handler mode (R274): the bank comes back, and the streams resume where `resume` puts
them. -/
def Band.leave (b : Band) (resume : Held → Band → Band) : Band :=
  match b.held with
  | none => b
  | some h => resume h { b.swapBank with held := none, pc := h.pc, wait := h.wait }

/-- tret.retry: the instruction that TRAPPC names issues again. -/
def resumeAt (_ : Held) (b : Band) : Band := b

/-- Change the trapping fragment, when lanes of it are left in its slot; another fragment that has taken the slot since stays as
it is. -/
def Band.modTrapped (b : Band) (h : Held) (f : Frag → Frag) : Band :=
  match b.frag h.slot with
  | some x => if x.mask &&& ~~~h.fragMask = 0 then b.setFrag h.slot (some (f x)) else b
  | none => b

/-- tret.skip: past the instruction, which has no effect (spec/06 R132). -/
def resumePast (h : Held) (b : Band) : Band :=
  match h.kind with
  | .again => b
  | .region => b
  | .sig => { b with pc := b.pc + w64 h.size, sig := 0xFFFFFFFF }
  | .lsig => b.modTrapped h (fun f => { f with pc := f.pc + w64 h.size, lsig := 0xFFFFFFFF })
  | .plain =>
    if h.lane then b.modTrapped h (fun f => { f with pc := f.pc + w64 h.size }) else { b with pc := b.pc + w64 h.size }

/-- An instruction that handler mode alone may run, or that it may not (spec/06 R132 to R134). -/
def needHandler (s : State) (k : Out) : Out := if s.cb.held.isSome then k else trapScalar s cHANDLER_MODE
def noHandler (s : State) (k : Out) : Out := if s.cb.held.isSome then trapScalar s cHANDLER_MODE else k

end Sys2Proof.Machine
end

