-- ==== Sys2Proof/Machine/Flags.lean ====
section
/-!
DEFINITION. The conditions of the compares (spec/06 R112, spec/07 R146) and the one flag that results
set: the scaled-gradient overflow flag of the context (spec/03 R71, spec/11 R245).
-/
namespace Sys2Proof.Machine

/-- An integer condition on two exact values; ord and uno hold for no integer compare. -/
def intCond (c : Cond) (a b : Int) : Bool :=
  match c with
  | .eq => a == b
  | .ne => a != b
  | .lt => decide (a < b)
  | .le => decide (a ≤ b)
  | .gt => decide (b < a)
  | .ge => decide (b ≤ a)
  | .ord => true
  | .uno => false

/-- A pattern read as a value of an integer type (spec/03 R49). -/
def intOf (ty : Ty) (x : Nat) : Int :=
  if ty.signed then toInt (tySize ty * 8) x else (x % 2 ^ (tySize ty * 8) : Nat)

/-- A ±Inf or NaN result of the band that issues (spec/03 R71); `m`: the lanes with such a result. In the body of a region they count only when the
evaluation is committed, so the band holds them until then (spec/11 R245). -/
def setOverflowLanes (s : State) (special : Bool) (m : Mask) : State :=
  let b := s.cb
  if !special then s
  else if b.inBody then
    s.modCb (fun b => { b with rx := b.rx.map (fun r => { r with ovf := r.ovf ||| m }) })
  else setOverflow s b.launch b.ctx true

/-- A result of the whole active mask. -/
def setOverflowHere (s : State) (special : Bool) : State := setOverflowLanes s special s.act

end Sys2Proof.Machine
end

