-- ==== Sys2Proof/Machine/Operands.lean ====
section
/-!
DEFINITION. The operand forms of the lane stream: vector or scalar sources at a type, immediates, memory
addresses, and the one way in which a lane instruction writes its destination (spec/01 R11, spec/03 R49
to R52, spec/05 R101, R107, spec/07 R135 to R138), tangents of a relaxation body included (spec/11 R235).
-/
namespace Sys2Proof.Machine

/-- The width of a type. -/
def tyBits (ty : Ty) : Nat := tySize ty * 8

/-- A 64-bit pair as an instruction reads it: an undefined value of its type, all 64 bits of it, when the result of either register is
not ready (spec/01 R14 does not say which bits are undefined when only one is late; log entry 71). -/
def State.vread64 (s : State) (b : Band) (reg lane : Nat) : Nat :=
  if s.early b false reg lane || s.early b false (reg + 1) lane then (Config.freeWord (s.freeIx (vkey reg lane))).toNat
  else b.v64 reg lane

/-- A source at a type in a lane: a w-bit pattern (spec/01 R11, spec/03 R49, R50). -/
def State.rd (s : State) (ty : Ty) (src : Src) (lane : Nat) : Nat :=
  match src with
  | .v n => if ty.wide then s.vread64 s.cb n.toNat lane else (s.vread s.cb n.toNat lane).toNat % 2 ^ (tyBits ty)
  | .s n => (s.cb.s n).toNat % 2 ^ (tyBits ty)

/-- A source read as n32: shift amounts, bit-field descriptors, indices. -/
def State.rdN32 (s : State) (src : Src) (lane : Nat) : Nat := s.rd .n32 src lane

/-- An immediate at a type (spec/07 R137). -/
def immAt (ty : Ty) (imm : W32) : Nat :=
  match ty with
  | .i64 => sextN 32 64 imm.toNat
  | _ => imm.toNat % 2 ^ (tyBits ty)

/-- What a w-bit result leaves in a 32-bit register (spec/03 R49, R52). -/
def extend32 (ty : Ty) (x : Nat) : W32 :=
  if ty.signed then w32 (sextN (tyBits ty) 32 x) else w32 (x % 2 ^ (tyBits ty))

/-- The register writes of one lane's result. -/
def resultWrites (ty : Ty) (d lane x : Nat) : List (Nat × W32) :=
  if ty.wide then [(vkey d lane, w32 x), (vkey (d + 1) lane, w32 (x / 4294967296))]
  else [(vkey d lane, extend32 ty x)]

/-- The dimension d and Rt of the body that runs, when it carries tangents (spec/11 R231). -/
def Band.tan (b : Band) : Option (Nat × Nat) :=
  if b.inBody then b.rx.bind (fun r => if r.jacobi then none else some (r.d, r.rt)) else none

/-- Tangent j of register n (spec/11 R231). -/
def tanReg (b : Band) (d rt j n : Nat) : Nat := b.budget - d * rt + j * rt + n

/-- Every tangent of the lanes of m is +0 before an evaluation (spec/11 R235). -/
def Band.zeroTan (b : Band) (m : Mask) : Band :=
  match b.rx with
  | some r =>
    if r.jacobi then b
    else ((List.range (r.d * r.rt)).flatMap (fun i => (lanesOf m).map (fun l => vkey (b.budget - r.d * r.rt + i) l))).foldl
      (fun b k => b.putReg k 0) b
  | none => b

/-- The tangents of a result in a lane: those given for a register below Rt (spec/11 R235). -/
def tanWrites (b : Band) (d lane : Nat) (t : Nat → W32) : List (Nat × W32) :=
  match b.tan with
  | some (k, rt) =>
    if d < rt then (List.range k).map (fun j => (vkey (tanReg b k rt j d) lane, t j)) else []
  | none => []

/-- Tangent j of a source in a lane: zero for a scalar and at or above Rt; undefined where the source is not ready yet
(spec/01 R14). -/
def State.tanOf (s : State) (src : Src) (lane j : Nat) : Nat :=
  let b := s.cb
  match b.tan, src with
  | some (k, rt), .v n =>
    let r := tanReg b k rt j n.toNat
    if n.toNat < rt then
      (if s.early b false n.toNat lane then (Config.freeWord (s.freeIx (vkey r lane))).setWidth 32 else b.v r lane).toNat
    else 0
  | _, _ => 0

/-- How long a result takes: a fixed number of tile cycles, or until the scoreboard lets go (spec/07
R138). -/
inductive Latency where
  | fixed (n : Nat)
  | variable
  deriving DecidableEq, Repr

/-- The latency of a row: `n32` cycles, and for 64-bit types `n64` or variable (spec/07 R139). -/
def latOf (ty : Ty) (n : Latency) (w : Latency) : Latency := if ty.wide then w else n

/-- Write a register while an earlier result for it is not ready: either of the two values remains
(spec/05 R107). -/
def State.putV (s : State) (b : Band) (e : Nat × W32) : Band :=
  if s.early b false (e.1 / 128) (e.1 % 128) && Config.freeChoice (s.freeIx e.1) % 2 == 1 then b
  else b.putReg e.1 e.2

/-- What a variable-latency result will write: where an earlier result for the register is not ready, either of the two values
remains, which is free and settled now (spec/05 R107). -/
def State.kept (s : State) (b : Band) (ws : List (Nat × W32)) : List (Nat × W32) :=
  ws.filter (fun e =>
    !(s.early b false (e.1 / 128) (e.1 % 128) && Config.freeChoice (s.freeIx e.1) % 2 == 1))

/-- What a register holds in the lanes of A. -/
def State.olds (s : State) (n : Nat) : List (Nat × W32) := (lanesOf s.act).map (fun l => (l, s.cb.v n l))

/-- Write a predicate in the lanes of m, with the same openness. -/
def State.putP (s : State) (b : Band) (n : Nat) (m val : Mask) : Band :=
  let keep := if b.ready.any (fun r => r.pred && r.reg == n) then
      maskWhere m (fun l => s.early b true n l && Config.freeChoice (s.freeIx (262144 + n * 128 + l)) % 2 == 1)
    else 0
  b.setP n (m &&& ~~~keep) val

/-- The register writes of a lane instruction in every lane of A. -/
def laneWs (s : State) (ty : Ty) (d : VReg) (x : Nat → Nat) (t : Nat → Nat → W32) : List (Nat × W32) :=
  (lanesOf s.act).flatMap (fun l => resultWrites ty d.toNat l (x l) ++ tanWrites s.cb d.toNat l (t l) ++
    (if ty.wide then tanWrites s.cb (d.toNat + 1) l (fun _ => 0) else []))

/-- The destination of a lane instruction in every lane of A: `x l` is the w-bit result, `t l j` its
tangents. Registers d and, for a 64-bit type, d + 1 are written (spec/07 R135, R138). `ovf`: a result of ±Inf or NaN counts once
the result is there (spec/03 R71). -/
def laneWriteO (s : State) (ty : Ty) (d : VReg) (lat : Latency) (x : Nat → Nat) (t : Nat → Nat → W32) (ovf : Bool) : Out :=
  let ws := laneWs s ty d x t
  match lat with
  | .variable => .next (finishL s (fun b => b.later ⟨true, [], [], s.kept s.cb ws, [], ovf⟩))
  | .fixed n =>
    .next (finishL s (fun b =>
      let b := ws.foldl s.putV b
      let b := b.due false d.toNat s.act (s.cycleOf b + n) (s.olds d.toNat)
      if ty.wide then b.due false (d.toNat + 1) s.act (s.cycleOf b + n) (s.olds (d.toNat + 1)) else b))

/-- The same where no result counts for the overflow flag. -/
def laneWriteT (s : State) (ty : Ty) (d : VReg) (lat : Latency) (x : Nat → Nat) (t : Nat → Nat → W32) : Out :=
  laneWriteO s ty d lat x t false

/-- The same with zero tangents. -/
def laneWrite (s : State) (ty : Ty) (d : VReg) (lat : Latency) (x : Nat → Nat) : Out :=
  laneWriteT s ty d lat x (fun _ _ => 0)

/-- A floating result: as laneWrite, and a ±Inf or NaN counts for the overflow flag when the instruction completes (spec/03
R71): with a fixed latency now, with a variable one when it lands. In the body of a region the evaluation holds it
(spec/11 R245). -/
def laneWriteF (s : State) (ty : Ty) (d : VReg) (lat : Latency) (x : Nat → Nat) (t : Nat → Nat → W32) : Out :=
  let special := maskWhere s.act (fun l => (fval (fmtOf ty) (x l)).special)
  if lat = .variable ∧ s.cb.inBody = false then laneWriteO s ty d lat x t (special != 0)
  else laneWriteT (setOverflowLanes s (special != 0) special) ty d lat x t

/-- A predicate destination in the lanes of A (spec/07 R146). -/
def laneWriteP (s : State) (p : PReg) (lat : Nat) (x : Nat → Bool) : Out :=
  let val := maskWhere s.act x
  .next (finishL s (fun b =>
    (s.putP b p.toNat s.act val).due true p.toNat s.act (s.cycleOf b + lat) []))

/-- A scalar destination of variable latency; `ovf`: as for laneWriteO. -/
def laneWriteSO (s : State) (d : SReg) (v : W64) (ovf : Bool) : Out :=
  .next (finishL s (fun b => b.later ⟨true, [(d.toNat, v)], [], [], [], ovf⟩))
def laneWriteS (s : State) (d : SReg) (v : W64) : Out := laneWriteSO s d v false

/-- A scalar predicate destination of variable latency. -/
def laneWriteQ (s : State) (q : QReg) (v : Bool) : Out :=
  .next (finishL s (fun b => b.later ⟨true, [], [(q.toNat, v)], [], [], false⟩))

/-- The address of a lane (spec/05 R101). -/
def laneAddr (s : State) (m : MemAddr) (lane : Nat) : Nat :=
  let b := s.cb
  let base := match m.base with
    | some n => (b.s n).toNat
    | none => 0
  let ofs := match m.ofs with
    | some n => (s.vread b n.toNat lane).toNat
    | none => 0
  (base + ofs + sextN 20 64 m.imm.toNat) % 2 ^ 64

/-- The address of a scalar access (spec/06 R118). -/
def scalarAddr (s : State) (a : SReg) (imm : BitVec 14) : Nat :=
  ((s.cb.s a).toNat + sextN 14 64 imm.toNat) % 2 ^ 64

end Sys2Proof.Machine
end

