-- ==== Sys2Proof/Machine/Fragments.lean ====
section
/-!
DEFINITION. Fragments, the split table and the split stack (spec/02 R29 to R31, spec/08 R172 to R177, spec/13 R288,
R289, spec/18 R324, R325). The records lie in the band's private area; the band itself knows the kinds of
the records it pushed (log entry 33) and keeps the timers and the entries at which a mask check has failed.
-/
namespace Sys2Proof.Machine

/-- A record of the split stack (R324). A fragment's mask stands in `arrived`, its signature in `lim`. `flaw`: a mask check at
it has failed, which is raised when it fuses (R289); `wrong`: memory holds another KIND than the one pushed, which is raised
when it is popped. -/
structure Rec where
  kind : Nat
  arrived : Mask
  expected : Mask
  addrv : Bool
  run : Bool
  lim : W32
  timer : Nat
  addr : Nat
  flaw : Bool
  wrong : Bool
  deriving DecidableEq, Repr

def kFRAG : Nat := 1
def kRECONV : Nat := 2
def kCALL : Nat := 3

/-- The 16-byte entries of a record. -/
def recSize (kind : Nat) : Nat := if kind = kFRAG then 2 else 3

/-- The entries that records take. -/
def stackSize (kinds : List Nat) : Nat := (kinds.map recSize).sum

/-- The header of a record. -/
def Rec.header (r : Rec) : Nat :=
  r.kind * 2 ^ 126 + r.addrv.toNat * 2 ^ 125 + r.run.toNat * 2 ^ 124 + r.lim.toNat * 2 ^ 84
    + (r.timer % 2 ^ 32) * 2 ^ 52 + r.addr % 2 ^ 52

/-- The entries of a record, lowest first. -/
def Rec.cells (r : Rec) : List Nat :=
  if r.kind = kFRAG then [r.arrived.toNat, r.header] else [r.arrived.toNat, r.expected.toNat, r.header]

/-- The lane stream of a band while its split changes: the slots, the records (top first), the lane and
address of a failed mask check (R289), the cycle before which a fragment that was held back does not issue, and whether a
record with a wrong KIND has been popped. -/
structure Split where
  s0 : Option Frag
  s1 : Option Frag
  recs : List Rec
  bad : Option (Nat × Nat)
  hold : Nat
  torn : Bool
  deriving DecidableEq, Repr

/-- What reading the split stack gives. -/
inductive SplitRead where
  | ok (sp : Split)
  | bad (c : Cause)
  | poisoned
  /-- a page table entry held an uncorrectable error -/
  | pagePoisoned
  deriving DecidableEq, Repr

/-- One entry of the stack as the band reads it. -/
def stackCell (s : State) (b : Band) (i : Nat) : Nat :=
  let ks := accessKeys s b.agent false (b.privbase.toNat + 16 * i) 16
  leNat 16 (ks.map (loadByte s b.agent false))

/-- The record of a kind whose lowest entry is i. -/
def stackRec (s : State) (b : Band) (i kind : Nat) : Rec :=
  let h := stackCell s b (i + recSize kind - 1)
  { kind := kind
    arrived := BitVec.ofNat 128 (stackCell s b i)
    expected := if kind = kFRAG then 0 else BitVec.ofNat 128 (stackCell s b (i + 1))
    addrv := h.testBit 125
    run := h.testBit 124
    lim := w32 (bitsN h 84 32)
    timer := tget (bitsN h 52 32) b.timers i
    addr := bitsN h 0 52
    flaw := b.flawed.contains i
    wrong := bitsN h 126 2 != kind }

/-- The records of a list of kinds, top first. -/
def stackRecs (s : State) (b : Band) : List Nat → List Rec
  | [] => []
  | k :: ks => stackRec s b (stackSize ks) k :: stackRecs s b ks

/-- Read a band's split; a fault is that of a lane access (spec/02 R28). -/
def readSplit (s : State) (b : Band) : SplitRead :=
  let sp : Split := ⟨b.slot0, b.slot1, [], none, b.firstNext, false⟩
  match b.kinds with
  | [] => .ok sp
  | _ =>
    let ag := b.agent
    match xlAccess s ag true false b.privbase.toNat 16, xlAccess s ag false false b.privbase.toNat 16 with
    | .poisoned, _ => .pagePoisoned
    | _, .poisoned => .pagePoisoned
    | .bad c, _ => .bad c
    | _, .bad c => .bad c
    | .ok _, .ok _ =>
      if anyPoison s (accessKeys s ag false b.privbase.toNat (16 * stackSize b.kinds)) then .poisoned
      else .ok { sp with recs := stackRecs s b b.kinds }

/-- The records with the place of their lowest entry, given top first; answer bottom first. -/
def placed (rs : List Rec) : List (Nat × Rec) :=
  rs.reverse.foldl (fun acc r => acc ++ [(match acc.getLast? with
    | some e => e.1 + recSize e.2.kind
    | none => 0, r)]) []

/-- Write the entries of the records that changed or moved (R324). -/
def writeRecs (s : State) (b : Nat) (old new : List Rec) : State :=
  let o := placed old
  let x := s.band b
  (placed new).foldl (fun st e =>
    if o.any (fun y => y.1 == e.1 && { y.2 with timer := 0 } == { e.2 with timer := 0 }) then st
    else
      let va := x.privbase.toNat + 16 * e.1
      let bs := e.2.cells.flatMap (fun c => leBytes 16 c)
      storeAt (tlbFill st x.agent va) x.agent false va (accessKeys s x.agent true va bs.length) bs) s

/-- The places of the records at which a mask check has failed. -/
def flawedRecs (rs : List Rec) : List Nat := ((placed rs).filter (fun e => e.2.flaw)).map (·.1)

/-- The timers that run. -/
def runTimers (rs : List Rec) : Tbl Nat :=
  (placed rs).foldl (fun t e => if e.2.kind = kRECONV && e.2.run then tset t e.1 e.2.timer else t) []

/-! ### Placing and fusing -/

/-- A fragment takes a free slot, or answers none. -/
def Split.slotIn (sp : Split) (f : Frag) : Option Split :=
  if sp.s0.isNone then some { sp with s0 := some f }
  else if sp.s1.isNone then some { sp with s1 := some f }
  else none

/-- The record of a spilled fragment. -/
def spilled (f : Frag) : Rec := ⟨kFRAG, f.mask, 0, false, false, f.lsig, 0, f.pc.toNat, false, false⟩

/-- A record leaves the stack: its KIND is checked (R324), and a mask check that has failed at it names the lowest lane of its
fragment (R289). -/
def Split.popped (sp : Split) (r : Rec) : Split :=
  { sp with
    torn := sp.torn || r.wrong
    bad := if r.flaw then some (lowest r.arrived, r.addr) else sp.bad }

/-- The fragment of a record; it does not issue before cycle `hold`. That it counts as the one that issued less recently, its age 0, is
the model's choice (spec/02 R39; log entry 71). -/
def unspilled (hold : Nat) (r : Rec) : Frag := ⟨r.arrived, w64 r.addr, r.lim, 0, hold⟩

/-- The fused fragment of an entry (R30, R175, R288), with age 0 as one taken back from the stack (log entry 71). -/
def fusedOf (hold : Nat) (r : Rec) : Frag := ⟨r.arrived, w64 r.addr, 0xFFFFFFFF, 0, hold⟩

/-- Free slots take spilled fragments from the top of the stack (R29, R325). -/
def Split.refill (sp : Split) : Split :=
  let one (sp : Split) : Split :=
    match sp.recs with
    | r :: rs =>
      if r.kind = kFRAG then
        match { sp with recs := rs }.slotIn (unspilled sp.hold r) with
        | some sp' => sp'.popped r
        | none => sp
      else sp
    | [] => sp
  one (one sp)

/-- Go through the records from the top: an entry whose lanes have all arrived fuses, an entry or a fragment
without lanes goes (R30, R31). A fused fragment that finds no free slot stands where its entry stood, as a spilled one,
which is the model's choice (log entry 71). -/
def fuseRecs (sp : Split) : List Rec → Split × List Rec
  | [] => (sp, [])
  | r :: rs =>
    if r.kind = kFRAG then
      if r.arrived = 0 then fuseRecs (sp.popped { r with flaw := false }) rs else let x := fuseRecs sp rs; (x.1, r :: x.2)
    else if r.expected = 0 then fuseRecs (sp.popped { r with flaw := false }) rs
    else if r.arrived = r.expected then
      match sp.slotIn (fusedOf sp.hold r) with
      | some sp' => fuseRecs (sp'.popped r) rs
      | none =>
        let x := fuseRecs (sp.popped { r with flaw := false }) rs
        (x.1, { spilled (fusedOf sp.hold r) with flaw := r.flaw } :: x.2)
    else let x := fuseRecs sp rs; (x.1, r :: x.2)

/-- Fuse what can fuse, then refill the slots. -/
def Split.settle (sp : Split) : Split :=
  let x := fuseRecs sp sp.recs
  { x.1 with recs := x.2 }.refill

def dropFrag (m : Mask) : Option Frag → Option Frag
  | some f => if f.mask &&& ~~~m = 0 then none else some { f with mask := f.mask &&& ~~~m }
  | none => none

/-- Lanes leave their fragment and every record (R31, R176). -/
def Split.drop (sp : Split) (m : Mask) : Split :=
  { sp with
    s0 := dropFrag m sp.s0
    s1 := dropFrag m sp.s1
    recs := sp.recs.map (fun r => { r with arrived := r.arrived &&& ~~~m, expected := r.expected &&& ~~~m }) }

def Split.frag (sp : Split) (slot : Nat) : Option Frag := if slot = 0 then sp.s0 else sp.s1

def Split.setFrag (sp : Split) (slot : Nat) (f : Option Frag) : Split :=
  if slot = 0 then { sp with s0 := f } else { sp with s1 := f }

/-- The place of E: the topmost entry whose expected mask holds every lane of the fragment (R174). -/
def findEntry (recs : List Rec) (m : Mask) : Option Nat :=
  recs.findIdx? (fun r => r.kind != kFRAG && r.expected &&& m == m)

/-- The fragment of a slot arrives at record i, which takes the address and timeout of its first arrival, and where its mask is
not disjoint from the arrived one the check of R289 has failed;
`until`: the cycle before which the fused fragment does not issue (spec/05 R106). -/
def Split.arrive (sp : Split) (slot i : Nat) (addr : Nat) (jto : W32) (hold : Nat) : Split :=
  match sp.frag slot, sp.recs[i]? with
  | some f, some r =>
    let r' : Rec :=
      { r with
        arrived := r.arrived ||| f.mask
        addrv := r.addrv || r.kind == kRECONV
        addr := if r.kind = kRECONV then addr else r.addr
        lim := if r.kind = kRECONV && !r.run then jto else r.lim
        run := r.run || r.kind == kRECONV
        flaw := r.flaw || f.mask &&& r.arrived != 0 }
    { sp.setFrag slot none with
      recs := sp.recs.set i r'
      hold := max sp.hold hold }.settle
  | _, _ => sp

/-- The pieces of a split: the first in the issuing slot, the second in the other slot when it is free, the
rest on the stack with the lowest-ordered on top (R29). -/
def Split.pieces (sp : Split) (slot : Nat) (f : Frag) : List (Mask × Nat) → Split
  | [] => sp
  | p :: ps =>
    let mk (p : Mask × Nat) : Frag := { f with mask := p.1, pc := w64 p.2 }
    let sp := sp.setFrag slot (some (mk p))
    let free := (sp.frag (1 - slot)).isNone
    let sp := match ps with
      | q :: _ => if free then sp.setFrag (1 - slot) (some (mk q)) else sp
      | [] => sp
    let rest := if free then ps.drop 1 else ps
    { sp with recs := rest.map (fun q => spilled (mk q)) ++ sp.recs, hold := max sp.hold f.next }

/-- The 16-byte entries that records take. -/
def Split.size (sp : Split) : Nat := stackSize (sp.recs.map (·.kind))

/-! ### The end of a block -/

/-- The blocks that stay queued: with no live lane they end, but for the body of a region, whose pass must end (spec/02 R27,
spec/11 R242). -/
def Band.liveQueue (b : Band) : List Block := if b.live = 0 then b.queue.filter (·.body) else b.queue

/-- The block of a band ends: its entries are discarded, and the mask check is made (R176, R289). A check that failed at an entry
which never fused counts at the end of the block. -/
def Band.endBlock (b : Band) (r : Run) : Band :=
  let left := r.first &&& (b.dead ||| b.exited)
  { b with
    run := none
    slot0 := none
    slot1 := none
    kinds := []
    timers := []
    flawed := []
    badEnd := b.badEnd || (r.atLend ||| left) != r.first || !b.flawed.isEmpty
    queue := b.liveQueue }

/-- The running block ends when every live lane has reached `lend`, or no fragment is left to do so. The body
of a region goes on to the end of its pass instead (spec/11 R237). -/
def Band.blockDone (b : Band) : Band :=
  match b.run with
  | none => { b with queue := b.liveQueue }
  | some r =>
    if r.body then b
    else if r.first &&& b.live &&& ~~~r.atLend = 0 || (b.slot0.isNone && b.slot1.isNone && b.kinds.isEmpty) then
      b.endBlock r
    else b

/-! ### Writing back -/

/-- A failed mask check raises SIG_MASK in the lowest lane of the fused fragment, with TRAPPC at the join
address (R289); while the handler runs it is held (log entry 22). -/
def raiseMask (s : State) (b : Nat) (lane addr : Nat) : State :=
  let x := s.band b
  let slot : Nat := match x.slot1 with
    | some f => if f.mask.getLsbD lane then 1 else 0
    | none => 0
  match x.frag slot with
  | some f =>
    if x.held.isNone && f.mask.getLsbD lane && f.pc.toNat == addr then
      takeTrap s b ⟨[(lane, cSIG_MASK)], lane, cSIG_MASK, false, false, true, slot, f.pc, f.mask, 0, 0, .again⟩
    else deferCause s b cSIG_MASK (some lane)
  | none => deferCause s b cSIG_MASK (some lane)

/-- Put a band's split in place. -/
def putSplit (s : State) (b : Nat) (old new : Split) : State :=
  let s := writeRecs s b old.recs new.recs
  let s := s.modBand b (fun x =>
    { x with
      slot0 := new.s0
      slot1 := new.s1
      kinds := new.recs.map Rec.kind
      timers := runTimers new.recs
      flawed := flawedRecs new.recs
      firstNext := new.hold }.blockDone)
  match new.bad with
  | some (lane, addr) => raiseMask s b lane addr
  | none => s

/-- Change a band's split outside the issue of an instruction: a fault, or a wrong KIND, becomes a deferred cause of the band
(spec/02 R28, spec/18 R324), an uncorrectable error is contained at the launch's outer boundary. -/
def changeSplit (s : State) (b : Nat) (f : Split → Split) : State :=
  match readSplit s (s.band b) with
  | .ok sp => if (f sp).torn then deferCause s b cSIG_MASK none else putSplit s b sp (f sp)
  | .bad c => deferCause s b c none
  | .poisoned => outerError s (s.band b).launch
  | .pagePoisoned => s.modCtx (s.band b).ctx (fun c => { c with dying := true })

/-- A `dlaunch` that waits for room ends with the last lane of its fragment (spec/17 R316). -/
def Band.dropDl (m : Mask) (b : Band) : Band :=
  { b with dl := b.dl.filter (fun d => !(b.frag d.slot).any (fun g => g.mask &&& ~~~m == 0)) }

/-- Lanes that exited or died leave the lane stream at once (R31). -/
def dropLanes (s : State) (b : Nat) (m : Mask) : State :=
  let s := s.modBand b (Band.dropDl m)
  let x := s.band b
  if x.run.isSome then changeSplit s b (fun sp => (sp.drop m).settle) else s.modBand b Band.blockDone

/-- Lanes are killed (spec/13 R284). A lane that is dead already, or that the band does not have, changes
nothing. -/
def killLanes (s : State) (b : Nat) (m : Mask) : State :=
  let x := s.band b
  let m := m &&& x.all &&& ~~~x.dead
  if m = 0 then s
  else dropLanes (s.modBand b (fun x => { x with dead := x.dead ||| m })) b m

/-- A lane kill by a consumed error: LANE_KILLED in CAUSEV, and with LKT a deferred cause (R284). -/
def laneKill (s : State) (b : Nat) (m : Mask) : State :=
  let x := s.band b
  let s := s.modBand b (fun x => { x with
    causes := (lanesOf m).foldl (fun t l => tset t l cLANE_KILLED) x.causes
    errV := x.errV.filter (fun k => !m.getLsbD (k % 128))
    errP := x.errP.filter (fun k => !m.getLsbD (k % 128)) })
  let s := killLanes s b m
  let lkt := match tget? s.launches x.launch with
    | some l => l.contain.getLsbD 1
    | none => false
  if lkt then deferCause s b cLANE_KILLED none else s

/-- An instruction that reads the split: what it does with it, or what the read met. -/
def withSplit (s : State) (k : Split → Out) : Out :=
  match readSplit s s.cb with
  | .ok sp => k sp
  | .bad c => trapActive s c
  | .poisoned => .next (outerError s s.cb.launch)
  | .pagePoisoned => .next (s.modCtx s.cb.ctx (fun c => { c with dying := true }))

/-- An instruction puts a new split in place of the old one; a record with a wrong KIND that it pops raises SIG_MASK instead
(R324). `s` is the state as the instruction found it. -/
def finishSplit (s t : State) (old new : Split) : Out :=
  if new.torn then trapActive s cSIG_MASK else .next (putSplit t t.cur.band old new)

/-- A split or call at issue: the change, its overflow (R29) and its faults. -/
def splitHere (s : State) (f : Split → Split) : Out :=
  withSplit s (fun sp =>
    let sp' := f sp
    if 256 < sp'.size then trapActive s cSPLIT_OVERFLOW
    else if !sp'.recs.isEmpty then
      match xlAccess s s.cb.agent true false s.cb.privbase.toNat 16 with
      | .bad c => trapActive s c
      | .poisoned => .next (s.modCtx s.cb.ctx (fun c => { c with dying := true }))
      | .ok _ => finishSplit s s sp sp'
    else finishSplit s s sp sp')

end Sys2Proof.Machine
end

