-- ==== Sys2Proof/Machine/Fetch.lean ====
section
/-!
DEFINITION. Fetching instruction words through the code caches (spec/05 R90, R365; spec/06 R120; spec/16 R313). A
word stays in its tile's cache until a launch of its image is accepted (log entry 7).
-/
namespace Sys2Proof.Machine

/-- What fetching a word gives. -/
inductive Fetched where
  | word (w : Nat)
  | bad (c : Cause)
  /-- the word holds an uncorrectable error -/
  | poisoned
  /-- a page table entry holds one -/
  | pagePoisoned
  deriving DecidableEq, Repr

/-- A word of n bytes as memory holds it; a fetch has no alignment of its own (spec/05 R90, R365). -/
def fetchWord (s : State) (b : Band) (addr n : Nat) : Fetched :=
  match xlRange s b.agent false addr n with
  | .bad c => .bad c
  | .poisoned => .pagePoisoned
  | .ok _ =>
    let ks := accessKeys s b.agent false addr n
    if anyPoison s ks then .poisoned else .word (leNat n (ks.map s.peek))

/-- The place by which a code cache knows an address. -/
def codeKey (s : State) (b : Band) (addr : Nat) : Nat :=
  match xlByte s b.agent false addr with
  | .ok k => k
  | _ => 0

/-- A scalar word, from the tile's scalar code cache when it holds it. -/
def fetchS (s : State) (b : Band) (addr : Nat) : Fetched :=
  match fetchWord s b addr 4 with
  | .bad c => .bad c
  | .pagePoisoned => .pagePoisoned
  | f =>
    match tget? (s.tile b.ptile).scode (codeKey s b addr) with
    | some w => .word w.toNat
    | none => f

/-- A lane word, from the tile's lane code cache when it holds it. -/
def fetchL (s : State) (b : Band) (addr : Nat) : Fetched :=
  match fetchWord s b addr 12 with
  | .bad c => .bad c
  | .pagePoisoned => .pagePoisoned
  | f =>
    match tget? (s.tile b.ptile).lcode (codeKey s b addr) with
    | some w => .word w.toNat
    | none => f

/-- A code cache of 8,192 words, 32 KiB of scalar and 96 KiB of lane words (spec/16 R310), takes a word; when it is full another
one leaves, which one free. -/
def keepWord (t : Tbl α) (k : Nat) (w : α) (free : Nat) : Tbl α :=
  if (tget? t k).isSome || t.length < 8192 then tset t k w else tset (t.eraseIdx (free % t.length)) k w

/-- A fetched word stays in the cache, and its translation in the tile's. -/
def keepS (s : State) (b : Band) (addr w : Nat) : State :=
  (tlbFill s b.agent addr).modTile b.ptile (fun t =>
    { t with scode := keepWord t.scode (codeKey s b addr) (w32 w) (Config.freeChoice (s.freeIx (2 ^ 54 + addr / 4))) })
def keepL (s : State) (b : Band) (addr w : Nat) : State :=
  (tlbFill s b.agent addr).modTile b.ptile (fun t =>
    { t with lcode := keepWord t.lcode (codeKey s b addr) (BitVec.ofNat 96 w) (Config.freeChoice (s.freeIx (2 ^ 54 + addr / 4))) })

/-- Whether a scalar address lies in the band's scalar section (R120). -/
def State.scalarOk (s : State) (b : Band) (pc : Nat) : Bool :=
  match tget? s.launches b.launch with
  | some l => l.scalarOk pc
  | none => false

end Sys2Proof.Machine
end

