-- ==== Sys2Proof/Machine/LaneCtl.lean ====
section
/-!
DEFINITION. Control in the lane stream: branches, calls, joins, the end of blocks and lanes, lane traps and
signature checks (spec/08 R171 to R177, R179), and the device's steps that start a block and end a join
by its timeout (spec/02 R25, R29, R30).
-/
namespace Sys2Proof.Machine

/-- The lane section of a launch in virtual addresses. -/
def Launch.laneBase (l : Launch) : Nat := l.image + l.img.loff

/-- Whether an address is a lane word of the launch's lane section (R171). -/
def Launch.laneOk (l : Launch) (addr : Nat) : Bool :=
  decide (l.laneBase ≤ addr) && decide (addr < l.laneBase + l.img.lsize) && (addr - l.laneBase) % 12 == 0

def State.laneOk (s : State) (b : Band) (addr : Nat) : Bool :=
  match tget? s.launches b.launch with
  | some l => l.laneOk addr
  | none => false

def State.laneBase (s : State) (b : Band) : Nat :=
  match tget? s.launches b.launch with
  | some l => l.laneBase
  | none => 0

/-- The address of a label (spec/05 R100). -/
def labelAt (s : State) (imm : W32) : Nat := (s.cf.pc + 12 * imm.signExtend 64).toNat

/-- The word after the one that issues. -/
def nextLaneAddr (s : State) : Nat := (s.cf.pc + 12).toNat

/-- The issuing fragment as it goes on: its mask and address are set by what it does. -/
def State.going (s : State) : Frag := { s.cf with age := s.cycleOf s.cb, next := s.holdUntil }

/-- The pieces of the issuing fragment: one moves whole, more split it under the records of `push` (R172,
R173, R175). -/
def goPieces (s : State) (push : List Rec) (always : Bool) (ps : List (Mask × Nat)) : Out :=
  match ps with
  | [(_, a)] =>
    if always then splitHere s (fun sp => { sp with recs := push ++ sp.recs }.pieces s.cur.slot s.going ps)
    else .next (moveTo s (w64 a))
  | _ => splitHere s (fun sp => { sp with recs := push ++ sp.recs }.pieces s.cur.slot s.going ps)

/-- A reconvergence entry as it is pushed (R29). -/
def reconvOf (m : Mask) : Rec := ⟨kRECONV, 0, m, false, false, 0, 0, 0, false, false⟩

/-- A call entry: the lanes outside A have arrived (R175). -/
def callOf (m outside : Mask) (addr : Nat) : Rec := ⟨kCALL, outside, m, false, false, 0, 0, addr, false, false⟩

/-- A piece of some lanes, none when there are none. -/
def pieceOf (m : Mask) (addr : Nat) : List (Mask × Nat) := if m = 0 then [] else [(m, addr)]

/-- bra (R172). -/
def execBra (imm : W32) (s : State) : Out :=
  let a := s.act
  let f := s.cf.mask
  let target := labelAt s imm
  if a != 0 && !s.laneOk s.cb target then trapActive s cTARGET_RANGE
  else goPieces s [reconvOf f] false (pieceOf (f &&& ~~~a) (nextLaneAddr s) ++ pieceOf a target)

/-- The table of the running block, when the operand names it (R100, R125). -/
def boundTable (s : State) (imm : W32) : Option TgtTable :=
  (s.cb.run.bind (fun r => r.blk.table)).bind (fun i =>
    (tget? s.cb.copies i).bind (fun t => if t.off = imm.toNat then some t else none))

/-- The lanes of A grouped by index, in ascending index, each group at its entry's address (R173). -/
def tablePieces (s : State) (va : Src) (t : TgtTable) : List (Mask × Nat) :=
  let a := s.act
  (List.range t.entries.length).flatMap (fun i =>
    pieceOf (maskWhere a (fun l => s.rdN32 va l == i))
      (s.laneBase s.cb + ((t.entries[i]?).getD (0, 0)).2))

/-- The lanes of A whose index lies at or beyond the count. -/
def badIndices (s : State) (va : Src) (t : TgtTable) : List (Nat × Cause) :=
  ((lanesOf s.act).filter (fun l => t.entries.length ≤ s.rdN32 va l)).map (fun l => (l, cTARGET_RANGE))

/-- The checks of an indirect branch or call (R173): table, then indices. -/
def withTable (s : State) (va : Src) (imm : W32) (k : TgtTable → Out) : Out :=
  match boundTable s imm with
  | none => trapActive s cTARGET_UNBOUND
  | some t => if (badIndices s va t).isEmpty then k t else trapLanes s (badIndices s va t)

/-- bri (R173). -/
def execBri (va : Src) (imm : W32) (s : State) : Out :=
  withTable s va imm (fun t =>
    let f := s.cf.mask
    goPieces s [reconvOf f] false (pieceOf (f &&& ~~~s.act) (nextLaneAddr s) ++ tablePieces s va t))

/-- lcall (R175). -/
def execLcall (imm : W32) (s : State) : Out :=
  let a := s.act
  let f := s.cf.mask
  if a = 0 then .next (moveTo s (s.cf.pc + 12))
  else if !s.laneOk s.cb (labelAt s imm) then trapActive s cTARGET_RANGE
  else goPieces s [callOf f (f &&& ~~~a) (nextLaneAddr s)] true [(a, labelAt s imm)]

/-- lcalli (R175). -/
def execLcalli (va : Src) (imm : W32) (s : State) : Out :=
  withTable s va imm (fun t =>
    let a := s.act
    let f := s.cf.mask
    if a = 0 then .next (moveTo s (s.cf.pc + 12))
    else goPieces s [callOf f (f &&& ~~~a) (nextLaneAddr s)] true (tablePieces s va t))

/-- lret (R175): the fragment arrives at its call entry. -/
def execLret (s : State) : Out :=
  withSplit s (fun sp =>
    match findEntry sp.recs s.cf.mask with
    | none => trapLowest s cRET_MISMATCH
    | some i =>
      if (sp.recs[i]?).any (fun r => r.kind == kCALL) then finishSplit s s sp (sp.arrive s.cur.slot i 0 0 s.holdUntil)
      else trapLowest s cRET_MISMATCH)

/-- Whether a record takes an arrival at address L (R174). -/
def Rec.takes (r : Rec) (addr : Nat) : Bool := r.kind == kRECONV && (!r.addrv || r.addr == addr)

/-- join (R174, R30). -/
def execJoin (imm : W32) (s : State) : Out :=
  let addr := labelAt s imm
  withSplit s (fun sp =>
    match findEntry sp.recs s.cf.mask with
    | none => .next (moveTo s (s.cf.pc + 12))
    | some i =>
      if (sp.recs[i]?).any (fun r => r.takes addr) then
        if !s.laneOk s.cb addr then trapActive s cTARGET_RANGE
        else
          let jto := (s.cb.run.map (fun r => r.blk.jto)).getD 0
          finishSplit s s sp (sp.arrive s.cur.slot i addr jto s.holdUntil)
      else .next (moveTo s (s.cf.pc + 12)))

/-- lend (R176): the fragment's lanes leave every pending entry and wait for the end of the block. -/
def execLend (s : State) : Out :=
  let m := s.cf.mask
  let here := s.cf.pc
  withSplit s (fun sp =>
    finishSplit s (s.modCb (fun b => { b with
      run := b.run.map (fun r => { r with atLend := r.atLend ||| m })
      rx := if b.inBody then b.rx.map (fun r => { r with lend := here }) else b.rx }))
      sp ({ sp.drop m with hold := max sp.hold s.holdUntil }.settle))

/-- lexit (R177): the lanes of A exit; the rest of the fragment goes on. -/
def execLexit (s : State) : Out :=
  let a := s.act
  withSplit s (fun sp =>
    let t := (moveTo s (s.cf.pc + 12)).modCb (fun b => { b with exited := b.exited ||| a })
    let moved : Split := { sp with s0 := t.cb.slot0, s1 := t.cb.slot1 }
    finishSplit s t moved ((moved.drop a).settle))

/-- lcause (R179): the cause each lane recorded at the band's most recent trap. -/
def execLcause (d : VReg) (s : State) : Out :=
  let b := s.cb
  laneWrite s .n32 d (.fixed 2) (fun l => (tget 0 b.causes l).toNat)

/-- lsig.chk (R179, spec/13 R288). -/
def execLsigChk (imm : W32) (s : State) : Out :=
  if s.cf.lsig ^^^ 0xFFFFFFFF != imm then trapLanesAs s [(lowest s.cf.mask, cSIG_MISMATCH)] .lsig
  else
    .next ((moveTo s (s.cf.pc + 12)).modCb (fun b =>
      match b.frag s.cur.slot with
      | some f => b.setFrag s.cur.slot (some { f with lsig := 0xFFFFFFFF })
      | none => b))

/-! ### Steps of the device -/

/-- A fragment at an address, none when it has no lane. -/
def freshFrag (m : Mask) (addr : W64) (age next : Nat) : Option Frag :=
  if m = 0 then none else some ⟨m, addr, 0xFFFFFFFF, age, next⟩

/-- A band runs the body of its region from its first word in the lanes of m (spec/11 R228, R232). -/
def Band.runBody (b : Band) (blk : Block) (m : Mask) (now : Nat) : Band :=
  let m := m &&& b.live
  { b.zeroTan m with
    run := some ⟨blk, m, 0, true⟩
    slot0 := freshFrag m blk.addr now b.firstNext
    slot1 := none
    kinds := []
    timers := []
    flawed := []
    rx := b.rx.map (fun r => { r with ovf := 0 }) }

/-- BLOCK_START: once no block runs, the lanes that are live start the next posted one as one fragment (spec/02 R25,
R29; spec/13 R288, R289), those of the region's steps when it is the body of a region (spec/11 R232). An
error in the entry is consumed (spec/13 R280, R281). -/
def startBlock (s : State) (b : Nat) : State :=
  let x := s.band b
  match x.queue, x.run with
  | blk :: rest, none =>
    let now := s.cycleOf x
    let s := s.modBand b (fun x =>
      if blk.body then
        ({ x with queue := rest, badEnd := false }).runBody blk (maskN ((x.rx.map RxBand.steps).getD 0)) now
      else
        { x with
          queue := rest
          run := some ⟨blk, x.live, 0, false⟩
          slot0 := freshFrag x.live blk.addr now x.firstNext
          slot1 := none
          kinds := []
          timers := []
          flawed := []
          badEnd := false }.blockDone)
    let s := if blk.bad then wgError s x.wg else s
    if x.badEnd then raiseMask s b (lowest x.live) blk.addr.toNat else s
  | _, _ => s

/-- JOIN_TIMEOUT: an entry whose timer reached its timeout is popped and the arrived lanes go on (spec/02
R30); the arrived mask must lie within the expected mask (spec/13 R289). `i`: the record, counted from the
top. -/
def timeoutJoin (sp : Split) (i : Nat) : Split :=
  match sp.recs[i]? with
  | some r =>
    if r.kind = kRECONV && r.run && r.lim != 0 && r.lim.toNat ≤ r.timer then
      { sp with recs := sp.recs.set i { r with
        expected := r.arrived, flaw := r.flaw || r.arrived &&& ~~~r.expected != 0 } }.settle
    else sp
  | none => sp

end Sys2Proof.Machine
end

