-- ==== Sys2Proof/Machine/ScalarMem.lean ====
section
/-!
DEFINITION. Scalar loads, stores, scoped access, fence and the yield-hinted load (spec/06 R118, R119, spec/04 R84,
R85, spec/02 R41).
-/
namespace Sys2Proof.Machine

/-- An error in a page table entry: the address space is killed (spec/13 R281). -/
def pageError (s : State) (ctx : Nat) : State := s.modCtx ctx (fun c => { c with dying := true })

/-- What an `ldy` that returned v from address a does to the record and the back-off (spec/02 R41, spec/08 R160): the band is held
for B cycles, the last of which BACKOFF_END ends.
`ext`: the address translates to a HOST or PEER page (spec/02 R47). -/
def Band.ldyTake (b : Band) (a v : W64) (ext : Bool) : Band :=
  if b.ldy = some (a, v) then
    let n := if b.backoff = 0 then 16 else min 4096 (2 * b.backoff)
    { b with backoff := n, hold := n + 1, backExt := ext }
  else { b with ldy := some (a, v), backoff := 0, hold := 0, backExt := ext }

/-- Whether an address translates to a HOST or PEER page. -/
def isLinked (s : State) (ag : Agent) (va : Nat) : Bool :=
  match xlByte s ag false va with
  | .ok k => typeOf k == .host || typeOf k == .peer
  | _ => false

/-- A scalar access: its check, and then what it does. -/
def withAccess (s : State) (write strict : Bool) (va n : Nat) (k : Out) : Out :=
  match xlAccess s s.cb.agent write strict va n with
  | .bad c => trapScalar s c
  | .poisoned => .next (pageError s s.cb.ctx)
  | .ok _ => k

/-- A scalar load of n bytes. Poisoned data is consumed (spec/13 R280). -/
def scalarLoad (s : State) (d : SReg) (va n : Nat) (sc : Scope) : Out :=
  withAccess s false false va n (
    let b := s.cb
    let (bs, bad, s') := loadBytes s b.agent (pastTile sc) va n
    let s' := if bad then memError s' b.launch (accessKeys s b.agent false va n) else s'
    laterS (s'.modCb Band.endBackoff) d (w64 (leNat n bs)))

/-- A scalar store of the low n bytes of a register, which carries its error onward (spec/13 R280). -/
def scalarStore (s : State) (d : SReg) (va n : Nat) : Out :=
  withAccess s true false va n (
    let b := s.cb
    .next (finishS (storeBytes s b.agent (b.errBand.contains (.sreg d.toNat)) va (leBytes n (b.s d).toNat)) id))

def execLdN8 (d a : SReg) (i : BitVec 14) (s : State) : Out := scalarLoad s d (scalarAddr s a i) 1 .bd
def execLdN16 (d a : SReg) (i : BitVec 14) (s : State) : Out := scalarLoad s d (scalarAddr s a i) 2 .bd
def execLdN32 (d a : SReg) (i : BitVec 14) (s : State) : Out := scalarLoad s d (scalarAddr s a i) 4 .bd
def execLdN64 (d a : SReg) (i : BitVec 14) (s : State) : Out := scalarLoad s d (scalarAddr s a i) 8 .bd
def execStN8 (d a : SReg) (i : BitVec 14) (s : State) : Out := scalarStore s d (scalarAddr s a i) 1
def execStN16 (d a : SReg) (i : BitVec 14) (s : State) : Out := scalarStore s d (scalarAddr s a i) 2
def execStN32 (d a : SReg) (i : BitVec 14) (s : State) : Out := scalarStore s d (scalarAddr s a i) 4
def execStN64 (d a : SReg) (i : BitVec 14) (s : State) : Out := scalarStore s d (scalarAddr s a i) 8

/-- The bytes of a scalar access size. -/
def widthBytes : Width → Nat
  | .w1 => 1
  | .w2 => 2
  | .w4 => 4
  | .w8 => 8

def execLdScoped (w : Width) (sc : Scope) (d a : SReg) (s : State) : Out :=
  scalarLoad s d (s.cb.s a).toNat (widthBytes w) sc
def execStScoped (w : Width) (_ : Scope) (a b : SReg) (s : State) : Out :=
  scalarStore s b (s.cb.s a).toNat (widthBytes w)

/-- A fence: every earlier access has been performed in this model (log entry 5); a wide one drops the tile's
HBM and HOST lines (spec/04 R85), one of workgroup or tile scope those that an engine has written since (spec/04 R82; log entry 6). -/
def fenceAt (s : State) (sc : Scope) : State :=
  if pastTile sc then l1Clear s s.cb.ptile else if 2 ≤ sc.code then l1Renew s s.cb.ptile else s

def execScalarFence (sc : Scope) (s : State) : Out := .next (finishS (fenceAt s sc) id)

/-- ldy in the scalar stream (spec/06 R119). -/
def execScalarLdy (sc : Scope) (d a : SReg) (s : State) : Out :=
  let va := (s.cb.s a).toNat
  withAccess s false true va 8 (
    let b := s.cb
    let (bs, bad, s') := loadBytes s b.agent (pastTile sc) va 8
    let s' := if bad then memError s' b.launch (accessKeys s b.agent false va 8) else s'
    let v := w64 (leNat 8 bs)
    laterS (s'.modCb (fun x => x.ldyTake (w64 va) v (isLinked s b.agent va))) d v)

end Sys2Proof.Machine
end

