-- ==== Sys2Proof/Machine/ScalarCtl.lean ====
section
/-!
DEFINITION. Control in the scalar stream: branches, calls and returns, table jumps, posting blocks, binding tables and
the signature check (spec/06 R120 to R127, spec/18 R322, R323).
-/
namespace Sys2Proof.Machine

/-- The address of a branch's label (R121). -/
def branchAddr (s : State) (off : BitVec 22) : W64 := s.cb.pc + 4 * off.signExtend 64

/-- Go to a scalar address; the word is not counted (R124). -/
def goS (s : State) (a : W64) (f : Band → Band) : State := s.modCb (fun b => { f b with pc := a, wait := .none })

/-- Transfer to a target that must lie in the scalar section (R120). -/
def transfer (s : State) (a : W64) (f : Band → Band) : Out :=
  if s.scalarOk s.cb a.toNat then .next (goS s a f) else trapScalar s cTARGET_RANGE

/-- The next scalar word. -/
def nextPc (s : State) : W64 := s.cb.pc + 4

/-- br (R121). -/
def execBr (q : QReg) (neg : Bool) (off : BitVec 22) (s : State) : Out :=
  if s.cb.q q != neg then transfer s (branchAddr s off) id else .next (goS s (nextPc s) id)

/-- Where an error of the shadow stack lies once an address has been pushed on it, or the newest has left it. -/
def BandPart.pushed : BandPart → Option BandPart
  | .shadow i => if i < 7 then some (.shadow (i + 1)) else none
  | p => some p
def BandPart.popped : BandPart → BandPart
  | .shadow i => .shadow (i - 1)
  | p => p

/-- Push a return address: s63 and the shadow stack, which drops its oldest entry when it is full (R122). -/
def Band.pushRet (b : Band) (a : W64) : Band :=
  { b.setS 63#6 a with ret := (a :: b.ret).take 8, errBand := (b.errBut (.sreg 63)).filterMap BandPart.pushed }

/-- The newest return address leaves the shadow stack. -/
def Band.popRet (b : Band) : Band := { b with ret := b.ret.drop 1, errBand := b.errBand.map BandPart.popped }

/-- call (R122). -/
def execCall (q : QReg) (neg : Bool) (off : BitVec 22) (s : State) : Out :=
  if s.cb.q q != neg then transfer s (branchAddr s off) (fun b => b.pushRet (nextPc s))
  else .next (goS s (nextPc s) id)

/-- jr (R122). -/
def execJr (a : SReg) (s : State) : Out := transfer s (s.cb.s a) id

/-- ret (R122): the section check comes first, then the return check. -/
def execRet (a : SReg) (s : State) : Out :=
  let b := s.cb
  let t := b.s a
  if !s.scalarOk b t.toNat then trapScalar s cTARGET_RANGE
  else
    match b.ret with
    | [] => .next (goS s t id)
    | r :: _ => if r != t then trapScalar s cRET_MISMATCH else .next (goS s t Band.popRet)

/-- A table word is an always-taken `br` (R123). -/
def tableWord (w : Nat) : Bool := w / 4194304 == 0x180

/-- jt and callt (R123). -/
def tableJump (s : State) (a : SReg) (n : BitVec 14) (f : Band → Band) : Out :=
  let b := s.cb
  let i := (b.s a).toNat
  let addr := (b.pc + 4 + 4 * w64 i).toNat
  if n.toNat ≤ i || !s.scalarOk b addr then trapScalar s cTARGET_RANGE
  else
    match fetchS s b addr with
    | .bad c => trapScalar s c
    | .poisoned => .next (outerError s b.launch)
    | .pagePoisoned => .next (pageError s b.ctx)
    | .word w =>
      if tableWord w then .next (goS (keepS s b addr w) (w64 addr) f) else trapScalar s cTARGET_RANGE
def execJt (a : SReg) (n : BitVec 14) (s : State) : Out := tableJump s a n id
def execCallt (a : SReg) (n : BitVec 14) (s : State) : Out :=
  tableJump s a n (fun b => b.pushRet (b.pc + 4 + 4 * n.setWidth 64))

/-- sig.chk (R124): both words are uncounted; in handler mode it has no effect. -/
def execSigChk (s : State) : Out :=
  let b := s.cb
  if b.held.isSome then .next (s.modCb (fun b => b.skipS 8))
  else if b.sig ^^^ 0xFFFFFFFF != s.cur.x.next then trapScalarAs s cSIG_MISMATCH 8 .sig
  else .next (s.modCb (fun b => { b.skipS 8 with sig := 0xFFFFFFFF }))

/-- An entry of the lane block queue with what it captures (R125). -/
def captured (b : Band) (addr : Nat) : Block := ⟨w64 addr, b.jto, b.stallchk, b.bound, (b.rx.map (fun r => !r.posted)).getD false, false⟩

/-- Post a block. One posted when no lane is live ends at once (spec/02 R27). -/
def Band.post (b : Band) (blk : Block) : Band :=
  let b := { b with rx := b.rx.map (fun r => { r with posted := true }) }
  if b.live = 0 && !blk.body then b else { b with queue := b.queue ++ [blk] }

/-- lpost (R125). -/
def execLpost (i : BitVec 20) (s : State) : Out :=
  noHandler s (
    let b := s.cb
    let addr := (w64 (s.laneBase b) + 4 * i.setWidth 64).toNat
    if !s.laneOk b addr then trapScalar s cTARGET_RANGE
    else if 4 ≤ b.queue.length then .next (s.modCb (fun b => { b with wait := .sync }))
    else .next (finishS s (fun b => b.post (captured b addr))))

/-- Whether the lane stream has drained: an empty queue and no running block, whose scalar writes are done
(R126). -/
def Band.drained (b : Band) : Bool :=
  b.queue.isEmpty && b.run.isNone && b.pend.all (fun p => !p.lane)

/-- lsync (R126). -/
def execLsync (s : State) : Out :=
  noHandler s (
    if s.cb.drained then .next (finishS s id)
    else .next (s.modCb (fun b => { b with wait := .sync })))

/-- A table copy that no unended block holds, which is not needed any more (spec/18 R323). -/
def Band.freeCopy (b : Band) : Option Nat :=
  let used := (b.queue.filterMap (·.table)) ++ ((b.run.bind (fun r => r.blk.table)).toList)
  [0, 1].find? (fun i => !used.contains i)

/-- The first failed check of a table's entries (spec/18 R322). -/
def entryCheck (s : State) (b : Band) (entries : List Nat) : Option Cause :=
  entries.findSome? (fun e =>
    let budget := bitsN e 32 12
    if bitsN e 44 20 != 0 || budget % 8 != 0 || budget < 8 || 2048 < budget ||
        !s.laneOk b (s.laneBase b + bitsN e 0 32) then some cTARGET_RANGE
    else if b.budget < budget then some cTARGET_BUDGET
    else none)

/-- tgt.bind (R127, spec/18 R322, R323): the read of the whole table is checked before what stands in it; a COUNT out of range
leaves nothing but the header to read. -/
def execTgtBind (off : BitVec 20) (s : State) : Out :=
  noHandler s (
    let b := s.cb
    let va := (b.pc + 4 * off.signExtend 64).toNat
    if va % 8 ≠ 0 then trapScalar s cMISALIGNED
    else
      withAccess s false false va 8 (
        let (h, bad, s1) := loadBytes s b.agent false va 8
        let head := leNat 8 h
        let n := bitsN head 0 9
        if bad then .next (memError s1 b.launch (accessKeys s b.agent false va 8))
        else if n = 0 || 256 < n then trapScalar s cTARGET_RANGE
        else
          let vas := (List.range n).map (fun i => (va + 8 + 8 * i) % 2 ^ 64)
          match vas.findSome? (fun a => match xlAccess s b.agent false false a 8 with | .bad c => some c | _ => none) with
          | some c => trapScalar s c
          | none =>
            if vas.any (fun a => xlAccess s b.agent false false a 8 == .poisoned) then .next (pageError s b.ctx)
            else
              let ks := vas.flatMap (fun a => accessKeys s b.agent false a 8)
              let s2 := vas.foldl (fun st a => (loadBytes st b.agent false a 8).2.2) s1
              if anyPoison s ks then .next (memError s2 b.launch ks)
              else
                let es := vas.map (fun a => leNat 8 (loadBytes s b.agent false a 8).1)
                match (if head / 512 != 0 then some cTARGET_RANGE else entryCheck s b es) with
                | some c => trapScalar s c
                | none =>
                  match b.freeCopy with
                  | none => .next (s2.modCb (fun b => { b with wait := .space }))
                  | some i =>
                    let image := match tget? s.launches b.launch with
                      | some l => l.image
                      | none => 0
                    let t : TgtTable := ⟨va - image, es.map (fun e => (bitsN e 32 12, bitsN e 0 32))⟩
                    .next (finishS s2 (fun b => { b with copies := tset b.copies i t, bound := some i }))))

end Sys2Proof.Machine
end

