-- ==== Sys2Proof/Machine/Barrier.lean ====
section
/-!
DEFINITION. Barriers and completion objects in the scalar stream, with the device's steps that end their waits
(spec/10 R207, R208, R213 to R216).
-/
namespace Sys2Proof.Machine

/-- Whether a band can take a step of its own: it is resident, and nothing has marked it, its workgroup, its
launch or its context for a kill. -/
def State.awake (s : State) (b : Nat) : Bool :=
  match tget? s.bands b with
  | none => false
  | some x =>
    x.resident && s.up && !(s.ctx x.ctx).dying && !(s.ctx x.ctx).stopped &&
      (match tget? s.launches x.launch with | some l => l.dying.isNone | none => false) &&
      (match tget? s.wgs x.wg with | some w => !w.dying && w.saved.isNone | none => false)

/-- The same outside handler mode. -/
def State.awakeOut (s : State) (b : Nat) : Bool := s.awake b && (s.band b).held.isNone

/-- Whether a wait parks the band, so that none of its streams issues (spec/02 R39, R42, R47; log entry 58). -/
def Wait.parks : Wait → Bool
  | .bwait _ _ _ _ _ _ | .acc _ _ _ | .yieldc _ _ _ => true
  | _ => false

/-- Whether the lane stream of a band may go on: the band is outside handler mode and not parked. -/
def State.lanesRun (s : State) (b : Nat) : Bool := s.awakeOut b && !(s.band b).wait.parks

/-- A join of scope sc: what the joined agents have written is seen by every later access of the stream, so from workgroup scope on
no line of the tile's L1 outlives it (spec/04 R82, R88, R89; log entry 6). -/
def joinAt (s : State) (ptile : Nat) (sc : Scope) : State := if 2 ≤ sc.code then l1Clear s ptile else s

/-- A command whose register operand breaks a rule traps ENG_OPERAND. -/
def needOperand (s : State) (ok : Bool) (k : Out) : Out := if ok then k else trapScalar s cENG_OPERAND

/-- A barrier operation: the checks of its address in order (R213), its register operand, and an uncorrectable error in
the object where the operation reads it; then the step at its place. -/
def withBarrier (s : State) (va : Nat) (ok reads : Bool) (f : Nat → Out) : Out :=
  if va % 16 ≠ 0 then trapScalar s cMISALIGNED
  else
    match barrierPlace s s.cb.agent va with
    | .bad c => trapScalar s c
    | .poisoned => .next (pageError s s.cb.ctx)
    | .ok k =>
      needOperand s ok (
        if reads && anyPoison s [k, k + 8] then .next (memError s s.cb.launch [k, k + 8]) else f k)

/-- binit (R215). -/
def execBinit (_ : Scope) (a b : SReg) (s : State) : Out :=
  let x := s.cb
  let v := (x.s b).toNat
  withBarrier s (x.s a).toNat (v < 65536) false (fun k =>
    .next (finishS (putBarrier s x.agent (x.s a).toNat k (Barrier.ofNat v)) id))

/-- An arrival of a band (R214, R215): the answer's code and the state with the step made. -/
def bandArrive (s : State) (pois : Bool) (a b : SReg) (f : Nat → W64 → State → Out) : Out :=
  let x := s.cb
  let c := (x.s b).toNat
  withBarrier s (x.s a).toNat (1 ≤ c && c ≤ 255) true (fun k =>
    let (code, o) := arrive (readBarrier s k) c pois x.agentNum
    f code (barrierWord code o) (putBarrier s x.agent (x.s a).toNat k o))

def execBarr (_ : Scope) (d a b : SReg) (s : State) : Out :=
  bandArrive s false a b (fun _ w s' => laterS s' d w)
def execBarrP (_ : Scope) (d a b : SReg) (s : State) : Out :=
  bandArrive s true a b (fun _ w s' => laterS s' d w)

/-- barr.t traps after the step, with sd written (R215). -/
def execBarrT (_ : Scope) (d a b : SReg) (s : State) : Out :=
  bandArrive s false a b (fun code w s' =>
    if code = rOVERRUN then trapScalar (s'.modCb (fun x => x.setS d w)) cBARRIER_OVERRUN
    else if code = rINVALID then trapScalar (s'.modCb (fun x => x.setS d w)) cBARRIER_BAD
    else laterS s' d w)

/-- bwait (R216): it reads the object at issue, and parks the band while the phase is p. -/
def execBwait (sc : Scope) (d a b : SReg) (s : State) : Out :=
  let x := s.cb
  let v := (x.s b).toNat
  withBarrier s (x.s a).toNat (bitsN v 4 12 == 0 && bitsN v 48 16 == 0) true (fun k =>
    let o := readBarrier s k
    if o.expected = 0 then laterS s d (barrierWord rINVALID o)
    else if o.phase ≠ bitsN v 0 4 then laterS (joinAt s x.ptile sc) d (barrierWord rCHANGED o)
    else
      let bound := bitsN v 16 32
      .next (s.modCb (fun x => { x with
        wait := .bwait d k (bitsN v 0 4) sc bound (bound != 0)
        waitWord := s.cur.word.setWidth 32 })))

/-- A clear of the sticky fields (R215). -/
def Barrier.clear (b : Barrier) : Barrier := { b with overrun := false, poisoned := false, pcount := 0, lastovr := 0 }
def execBclr (_ : Scope) (a : SReg) (s : State) : Out :=
  let x := s.cb
  withBarrier s (x.s a).toNat true true (fun k =>
    .next (finishS (putBarrier s x.agent (x.s a).toNat k (readBarrier s k).clear) id))

/-- A lane instruction that has issued is still to write a scalar register: a scalar write to it waits (spec/06 R110). -/
def Band.owes (b : Band) (d : SReg) : Bool := b.pend.any (fun p => p.sw.any (fun e => e.1 == d.toNat))

/-- A band whose wait has ended writes its result and goes on past the instruction, whose word counts (spec/06
R124). -/
def endWait (s : State) (b : Nat) (f : Band → Band) : State :=
  s.modBand b (fun x => (f x).nextS x.waitWord.toNat)

/-- BWAIT_CHANGED: the port reported a step that changed PHASE (R216). -/
def bwaitChanged (s : State) (b : Nat) : State :=
  match (s.band b).wait with
  | .bdone d w sc => if (s.band b).owes d then s else joinAt (endWait s b (fun x => x.setS d w)) (s.band b).ptile sc
  | _ => s

/-- BWAIT_TIMEOUT: the bound has elapsed (R216). -/
def bwaitTimeout (s : State) (b : Nat) : State :=
  match (s.band b).wait with
  | .bwait d k _ _ left bounded =>
    if bounded && left = 0 && !(s.band b).owes d && !s.bankWakes k then
      endWait s b (fun x => x.setS d (barrierWord rTIMEOUT (readBarrier s k)))
    else s
  | _ => s

/-- Whether a completion object ends a `cwait` (R208). -/
def cwaitMet (obj target : Nat) : Bool := target ≤ obj % 2 ^ 48 || obj / 2 ^ 48 != 0

/-- The check of `cwait`'s address: memory causes rank above ENG_OPERAND (R208, spec/13 R270). -/
def cwaitAddr (s : State) (ag : Agent) (va : Nat) : Xl :=
  let bytes := xlBytes s ag false va 8
  match bytes.tail.foldl Xl.join (bytes.headD (.bad cTRANSLATION)) with
  | .ok k => if va % 8 ≠ 0 then .bad cENG_OPERAND else .ok k
  | x => x

/-- cwait (R208). Its return is a load of the object, which ends the back-off (spec/02 R41). -/
def execCwait (sc : Scope) (d a b : SReg) (s : State) : Out :=
  let x := s.cb
  let va := (x.s a).toNat
  let v := (x.s b).toNat
  match cwaitAddr s x.agent va with
  | .bad c => trapScalar s c
  | .poisoned => .next (pageError s x.ctx)
  | .ok k =>
    let obj := memNat s.view k 8
    if anyPoison s [k] then .next (memError s x.launch [k])
    else if cwaitMet obj (v % 2 ^ 48) then laterS (joinAt (s.modCb Band.endBackoff) x.ptile sc) d (w64 obj)
    else
      .next (s.modCb (fun x => { x with
        wait := .cwait d (w64 va) (v % 2 ^ 48) sc (v / 2 ^ 48 * 1024) (v / 2 ^ 48 != 0)
        waitWord := s.cur.word.setWidth 32 }))

/-- The object that a waiting `cwait` reads now; none where the access would fault, and the instruction issues
again. -/
def cwaitRead (s : State) (b : Nat) (va : W64) : Option Nat :=
  match cwaitAddr s (s.band b).agent va.toNat with
  | .ok k => if anyPoison s [k] then none else some (memNat s.view k 8)
  | _ => none

/-- A waiting `cwait` cannot return yet: its register is still to be written by a lane instruction, or the object lies in a bank
that wakes (spec/06 R110, spec/13 R282). -/
def cwaitHeld (s : State) (b : Nat) (d : SReg) (va : W64) : Bool :=
  (s.band b).owes d ||
    (match cwaitAddr s (s.band b).agent va.toNat with
      | .ok k => s.bankWakes k
      | _ => false)

/-- CWAIT_RETURN: the count or status condition holds (R208); the return is a load of the object, which ends the back-off (spec/02
R41), and a join of scope sc. -/
def cwaitReturn (s : State) (b : Nat) : State :=
  match (s.band b).wait with
  | .cwait d va target sc _ _ =>
    match cwaitRead s b va with
    | none => s.modBand b (fun x => { x with wait := .none })
    | some obj =>
      if cwaitMet obj target && !cwaitHeld s b d va then joinAt (endWait s b (fun x => x.endBackoff.setS d (w64 obj))) (s.band b).ptile sc else s
  | _ => s

/-- CWAIT_BOUND: the bound has elapsed (R208). -/
def cwaitBound (s : State) (b : Nat) : State :=
  match (s.band b).wait with
  | .cwait d va _ _ left bounded =>
    if bounded && left = 0 && !cwaitHeld s b d va then
      match cwaitRead s b va with
      | none => s.modBand b (fun x => { x with wait := .none })
      | some obj => endWait s b (fun x => x.setS d (w64 obj))
    else s
  | _ => s

/-- csig (R208): a signal made by the band itself. -/
def execCsig (_ : Scope) (a b : SReg) (s : State) : Out :=
  let x := s.cb
  let v := (x.s b).toNat
  needOperand s (targetOk (x.s a)) (
    .next (finishS (signal s x.source (x.s a) (v % 2 ^ 48) (v / 2 ^ 48)) id))

end Sys2Proof.Machine
end

