-- ==== Sys2Proof/Machine/Format.lean ====
section
/-!
DEFINITION. Format words and bit-plane numbers (spec/03 R58 to R64).
-/
namespace Sys2Proof.Machine

/-- A format word (R61). -/
structure Format where
  kind : Nat
  pstore : Nat
  pread : Nat
  signed : Bool
  scale : Nat
  deriving DecidableEq, Repr

def Format.ofNat (w : Nat) : Format := ⟨bitsN w 0 4, bitsN w 4 4, bitsN w 8 4, w.testBit 12, bitsN w 16 16⟩

/-- Whether a format word is valid (R62). -/
def formatOk (w : Nat) : Bool :=
  let f := Format.ofNat w
  let scaleOk := f.scale < 0x7F80 && f.scale != 0
  f.kind ≤ 3 && bitsN w 13 3 == 0 &&
    (if f.kind = 3 then 1 ≤ f.pstore && f.pstore ≤ 8 && 1 ≤ f.pread && f.pread ≤ f.pstore && scaleOk
     else f.pstore == 0 && f.pread == 0 && !f.signed && f.scale == 0)

/-- The scale as a value. -/
def Format.scaleV (f : Format) : FVal := fval (fmtOf .bf16) f.scale

/-- The range of a p-plane integer (R58). -/
def planeMin (signed : Bool) (p : Nat) : Int := if signed then -((2 ^ (p - 1) : Nat) : Int) else 0
def planeMax (signed : Bool) (p : Nat) : Int :=
  if signed then ((2 ^ (p - 1) : Nat) : Int) - 1 else ((2 ^ p : Nat) : Int) - 1

/-- The integer that p bits hold. -/
def planeInt (signed : Bool) (p x : Nat) : Int := if signed then toInt p x else (x % 2 ^ p : Nat)

/-- The value of a stored integer, read with PREAD planes (R60, spec/07 R153). -/
def Format.value (f : Format) (i : Int) : FVal :=
  let step : Int := (2 ^ (f.pstore - f.pread) : Nat)
  fmulV (ofIntV (i / step * step)) f.scaleV

/-- A value as a bit-plane integer (R63). -/
def Format.toPlane (f : Format) (rm : Rm) (x : FVal) : Int :=
  quotIntSat rm (planeMin f.signed f.pstore) (planeMax f.signed f.pstore) x f.scaleV

/-- The bytes of one plane of n elements (R59). -/
def planeBytes (n : Nat) : Nat := 64 * ((n + 511) / 512)

end Sys2Proof.Machine
end

