-- ==== Sys2Proof/Machine/Copy.lean ====
section
/-!
DEFINITION. The copy engines: copy, pack, unpack and yieldc, and the device's steps that start and complete a command
(spec/10 R209 to R212, spec/02 R42).
-/
namespace Sys2Proof.Machine

/-- The agent of a copy's accesses. -/
def CopyCmd.agent (c : CopyCmd) : Agent := ⟨c.ctx, some c.launch, some c.ptile, false⟩

/-- The source of a copy's signal (R213). -/
def CopyCmd.source (c : CopyCmd) : Source := ⟨c.agent, some c.band, 0x80000000 + c.tile⟩

/-- The failing issue check that ranks highest (R210). -/
def copyCheck (kind : Nat) (dst src cnt target : W64) : Option Cause :=
  let c := cnt.toNat
  let base := if kind = 1 then dst else src
  if kind ≠ 0 && base.toNat % 64 ≠ 0 then some cMISALIGNED
  else if kind ≠ 0 && !(formatOk (c / 2 ^ 32) && (Format.ofNat (c / 2 ^ 32)).kind == 3) then some cFORMAT_BAD
  else if !targetOk target then some cENG_OPERAND
  else if kind = 0 && bitsN c 40 24 ≠ 0 then some cENG_OPERAND
  else if kind ≠ 0 && bitsN c 0 32 = 0 then some cENG_OPERAND
  else none

/-- A command as it enters the queue. -/
def copyOf (s : State) (kind : Nat) (dst src cnt target : W64) (yield : Bool) : CopyCmd :=
  let b := s.cb
  { kind := kind
    dst := dst
    src := src
    n := if kind = 0 then cnt.toNat % 2 ^ 40 else cnt.toNat % 2 ^ 32
    fmt := cnt.toNat / 2 ^ 32
    target := target
    band := s.cur.band
    wg := b.wg
    ctx := b.ctx
    launch := b.launch
    tile := b.tile
    ptile := b.ptile
    yield := yield
    status := none }

/-- Whether a tile's copy queue has room (R211). -/
def copyRoom (s : State) : Bool := (s.tile s.cb.ptile).copies.length < 16

def putCopy (s : State) (c : CopyCmd) : State := s.modTile c.ptile (fun t => { t with copies := t.copies ++ [c] })

/-- A copy command of the scalar stream (R209 to R211). -/
def issueCopy (s : State) (kind : Nat) (d a b t : SReg) : Out :=
  let x := s.cb
  match copyCheck kind (x.s d) (x.s a) (x.s b) (x.s t) with
  | some c => trapScalar s c
  | none =>
    if copyRoom s then
      .next (finishS (putCopy s (copyOf s kind (x.s d) (x.s a) (x.s b) (x.s t) false)) id)
    else .next (s.modCb (fun x => { x with wait := .space }))

def execCopy (d a b t : SReg) (s : State) : Out := issueCopy s 0 d a b t
def execCopyPack (d a b t : SReg) (s : State) : Out := issueCopy s 1 d a b t
def execCopyUnpack (d a b t : SReg) (s : State) : Out := issueCopy s 2 d a b t

/-- yieldc (R212, spec/05 R97): a copy that parks the band; its word is not counted (spec/06 R124). -/
def execYieldc (d a b : SReg) (off : BitVec 8) (s : State) : Out :=
  noHandler s (
    let x := s.cb
    let cont := x.pc + 4 * off.signExtend 64
    match copyCheck 0 (x.s d) (x.s a) (x.s b) 0 with
    | some c => trapScalar s c
    | none =>
      if !s.scalarOk x cont.toNat then trapScalar s cTARGET_RANGE
      else if copyRoom s then
        .next ((putCopy s (copyOf s 0 (x.s d) (x.s a) (x.s b) 0 true)).modCb (fun x =>
          { x with wait := .yieldc true cont none }))
      else .next (s.modCb (fun x => { x with wait := .yieldc false cont none })))

/-! ### What a command moves -/

/-- Pieces of a range: each lies within one naturally aligned unit of `size` bytes, which may differ from address to
address. -/
def splitBy (size : Nat → Nat) : Nat → Nat → Nat → List (Nat × Nat)
  | 0, _, _ => []
  | fuel + 1, va, n => if n = 0 then [] else
    let m := min n (size va - va % size va)
    (va, m) :: splitBy size fuel (va + m) (n - m)

/-- The atomic size of the memory that an address names for a write; a byte that cannot be written stands in 8. -/
def granAt (s : State) (ag : Agent) (va : Nat) : Nat :=
  match xlByte s ag true va with
  | .ok k => granSize (typeOf k)
  | _ => 8

/-- The granules of a destination (spec/04 R75): pieces of the atomic size of its memory type. -/
def granulesOf (s : State) (ag : Agent) (va n : Nat) : List (Nat × Nat) := splitBy (granAt s ag) (n / 8 + 2) va n

/-- The answer for an engine's access of n bytes, any alignment: it is split into granules (spec/04 R75). -/
def engCheck (s : State) (ag : Agent) (write : Bool) (va n : Nat) : Xl := xlRange s ag write va n

/-- The pieces of a range in each of which every byte meets the same storage: 64 KiB units, and 64 bytes of a slice
(spec/18 R327, spec/04 R73). -/
def pieceSize (va : Nat) : Nat := if va < spaceStep then 65536 else 64

/-- The pieces of a range; one of a slice passes the slice's end within 8,192 pieces. -/
def piecesOf (va n : Nat) : List (Nat × Nat) :=
  splitBy pieceSize (if va < spaceStep then n / 65536 + 2 else min (n / 64 + 2) 8192) va n

/-- Whether an engine's access to a range meets a bank that still wakes: it stalls until the wake-up ends (spec/13 R282). -/
def rangeWakes (s : State) (ag : Agent) (va n : Nat) : Bool :=
  !s.tiles.all (fun e => e.2.waking.isEmpty) && (piecesOf va n).any (fun p =>
    match xlByte s ag true p.1, xlByte s ag true (p.1 + p.2 - 1) with
    | .ok k, .ok m => s.bankWakes k || s.bankWakes m
    | .ok k, _ => s.bankWakes k
    | _, .ok m => s.bankWakes m
    | _, _ => false)

/-- Whether a signal to a target meets a bank that still wakes. -/
def targetWakes (s : State) (ag : Agent) (t : W64) : Bool :=
  let n := t.toNat
  n != 0 && rangeWakes s ag (n - n % 2) (if n % 2 = 0 then 8 else 16)

/-- The bytes at an address as an engine reads them. -/
def engBytes (s : State) (ag : Agent) (va n : Nat) : List Byte :=
  let m := s.view
  (accessKeys s ag false va n).map (fun k => memByte m k)

def engBad (s : State) (ag : Agent) (va n : Nat) : Bool := anyPoison s (accessKeys s ag false va n)

/-- The first failing cause of a list of checks. -/
def firstBad : List Xl → Option Xl
  | [] => none
  | .ok _ :: xs => firstBad xs
  | x :: _ => some x

/-- The status of a failing access (R210); a bad page entry ends in the containment of its context. -/
def xlStatus : Xl → Nat
  | .bad c => 0x8000 + c.toNat
  | _ => 0x20

def notePage (s : State) (ctx : Nat) : Option Xl → State
  | some .poisoned => pageError s ctx
  | _ => s

/-- The translations of an engine's accesses, at the addresses of some chunks, stay in the tile's cache. -/
def fillChunks (s : State) (ag : Agent) (cs : List (Nat × Nat)) : State := cs.foldl (fun s c => tlbFill s ag c.1) s

/-- Write bytes from an address on, granule by granule, where the engine's check placed them; a faulting granule ends it, of
which nothing is written, and then whether the granules before it were written is open (R210; log entry 14). `bad i`: byte i
carries an error. -/
def engWrite (s : State) (ag : Agent) (va : Nat) (bs : List Byte) (bad : Nat → Bool) : State × Option Xl :=
  let cs := granulesOf s ag va bs.length
  let checks := cs.map (fun c => engCheck s ag true c.1 c.2)
  let good := (checks.findIdx? (fun x => match x with | .ok _ => false | _ => true)).getD cs.length
  let fault := firstBad checks
  let s' := ((List.range good).zip cs).foldl (fun st e =>
    let c := e.2
    if fault.isSome && Config.freeChoice (s.freeIx e.1) % 2 == 1 then st
    else
      storeMarked st ag c.1 (accessKeys s ag true c.1 c.2) ((List.range c.2).map (fun i => byteAt bs (c.1 - va + i)))
        ((List.range c.2).map (fun i => bad (c.1 - va + i)))) (fillChunks s ag (cs.take good))
  (notePage s' ag.ctx fault, fault)

/-- A plain copy (R210): each granule of the source that one of the destination's takes from is read as it stood, or as this copy
has written it (spec/04 R75); the order of the granules is open where the ranges overlap (log entry 14). -/
def movePlain (s : State) (c : CopyCmd) : State × Nat :=
  let ag := c.agent
  let dst := c.dst.toNat
  let src := c.src.toNat
  let cs := granulesOf s ag dst c.n
  let cs := if Config.freeChoice (s.freeIx (2 ^ 51)) % 2 == 1 then cs.reverse else cs
  let check (e : Nat × Nat) : Xl :=
    match engCheck s ag false (src + (e.1 - dst)) e.2 with
    | .ok _ => engCheck s ag true e.1 e.2
    | x => x
  let checks := cs.map check
  let good := (checks.findIdx? (fun x => match x with | .ok _ => false | _ => true)).getD cs.length
  let fault := firstBad checks
  let filled := fillChunks (fillChunks s ag ((cs.take good).map (fun c => (src + (c.1 - dst), c.2)))) ag (cs.take good)
  let s' := ((List.range good).zip cs).foldl (fun st e =>
    let m := e.2.2
    let from_ := accessKeys s ag false (src + (e.2.1 - dst)) m
    if fault.isSome && Config.freeChoice (s.freeIx e.1) % 2 == 1 then st
    else
      let now := st.view
      let old := s.view
      let bs := from_.map (fun k =>
        let i := from_.findIdx (fun x => granOf x == granOf k)
        memByte (if Config.freeChoice (s.freeIx (2 ^ 52 + 64 * e.1 + i)) % 2 == 1 then now else old) k)
      storeMarked st ag e.2.1 (accessKeys s ag true e.2.1 m) bs
        (from_.map (fun k => anyPoison s [k] || anyPoison st [k]))) filled
  match fault with
  | some x => (notePage s' c.ctx (some x), xlStatus x)
  | none => (s', 0)

/-- The bytes an engine reads, or its first fault. -/
def engRead (s : State) (ag : Agent) (va n : Nat) : Except Xl (List Byte) :=
  match engCheck s ag false va n with
  | .ok _ => .ok (engBytes s ag va n)
  | x => if n = 0 then .ok [] else .error x

/-- Which of the bytes read carry an error. -/
def engErrors (s : State) (ag : Agent) (va i : Nat) : Bool := engBad s ag (va + i) 1

/-- Bit e of plane j of a tensor of n elements, as stored in bytes (spec/03 R59). -/
def planeBit (bs : List Byte) (n j e : Nat) : Bool := (byteAt bs (j * planeBytes n + e / 8)).getLsbD (e % 8)

/-- The bytes of a tensor of p planes of n integers, padding bits 0 (spec/03 R59). -/
def packPlanes (p n : Nat) (value : Nat → Int) : List Byte :=
  (List.range p).flatMap (fun j =>
    (List.range (planeBytes n)).map (fun q =>
      BitVec.ofNat 8 ((List.range 8).foldl (fun acc i =>
        let e := 8 * q + i
        if e < n && (ofInt p (value e)).testBit (p - 1 - j) then acc + 2 ^ i else acc) 0)))

/-- The integer I of element e from the first k planes (spec/03 R60). -/
def unpackPlane (f : Format) (bs : List Byte) (n k e : Nat) : Int :=
  planeInt f.signed k ((List.range k).foldl (fun acc j => 2 * acc + (planeBit bs n j e).toNat) 0)

/-- copy.pack (R210). -/
def movePack (s : State) (c : CopyCmd) : State × Nat :=
  let f := Format.ofNat c.fmt
  match engRead s c.agent c.src.toNat (4 * c.n) with
  | .error x => (notePage s c.ctx (some x), xlStatus x)
  | .ok bs =>
    let value (e : Nat) : Int :=
      let w := leNat 4 ((List.range 4).map (fun i => byteAt bs (4 * e + i)))
      let x : Int := if f.signed then toInt 32 w else (w : Nat)
      max (planeMin f.signed f.pstore) (min (planeMax f.signed f.pstore) x)
    let bad (i : Nat) : Bool := (List.range 8).any (fun j =>
      let e := 8 * (i % planeBytes c.n) + j
      e < c.n && (List.range 4).any (fun q => engErrors s c.agent c.src.toNat (4 * e + q)))
    let (s', fault) := engWrite s c.agent c.dst.toNat (packPlanes f.pstore c.n value) bad
    (s', match fault with | some x => xlStatus x | none => 0)

/-- copy.unpack (R210). -/
def moveUnpack (s : State) (c : CopyCmd) : State × Nat :=
  let f := Format.ofNat c.fmt
  match engRead s c.agent c.src.toNat (f.pread * planeBytes c.n) with
  | .error x => (notePage s c.ctx (some x), xlStatus x)
  | .ok bs =>
    let out := (List.range c.n).flatMap (fun e => leBytes 4 (ofInt 32 (unpackPlane f bs c.n f.pread e)))
    let bad (i : Nat) : Bool := (List.range f.pread).any (fun j =>
      engErrors s c.agent c.src.toNat (j * planeBytes c.n + i / 4 / 8))
    let (s', fault) := engWrite s c.agent c.dst.toNat out bad
    (s', match fault with | some x => xlStatus x | none => 0)

/-- What a command moves and its status. -/
def copyMove (s : State) (c : CopyCmd) : State × Nat :=
  match c.kind with
  | 0 => movePlain s c
  | 1 => movePack s c
  | _ => moveUnpack s c

/-! ### Steps of the device -/

/-- The bytes that a command reads and those that it writes. -/
def CopyCmd.sourceBytes (c : CopyCmd) : Nat :=
  match c.kind with
  | 0 => c.n
  | 1 => 4 * c.n
  | _ => (Format.ofNat c.fmt).pread * planeBytes c.n
def CopyCmd.destBytes (c : CopyCmd) : Nat :=
  match c.kind with
  | 0 => c.n
  | 1 => (Format.ofNat c.fmt).pstore * planeBytes c.n
  | _ => 4 * c.n

/-- Whether a command's accesses stall in storage that wakes (spec/13 R282). -/
def copyWakes (s : State) (c : CopyCmd) : Bool :=
  rangeWakes s c.agent c.src.toNat c.sourceBytes || rangeWakes s c.agent c.dst.toNat c.destBytes

/-- COPY_START: the first waiting command starts, with at most four at once (R211). In this model it moves its
data in this step, which waits for storage that wakes, and completes in a later one. -/
def copyStart (s : State) (ptile : Nat) : State :=
  let t := s.tile ptile
  if 4 ≤ (t.copies.filter (fun c => c.status.isSome)).length then s
  else
    match t.copies.findIdx? (fun c => c.status.isNone) with
    | none => s
    | some i =>
      match t.copies[i]? with
      | none => s
      | some c =>
        if copyWakes s c then s
        else
        let (s', st) := copyMove s c
        { s' with nonce := s'.nonce + 1 }.modTile ptile (fun t =>
          { t with copies := t.copies.set i { c with status := some st } })

/-- A copy's report: its signal, or for `yieldc` the band's own record of it (R210, R212). -/
def copyReport (s : State) (c : CopyCmd) (st : Nat) : State :=
  if c.yield then
    s.modBand c.band (fun x =>
      match x.wait, x.held with
      | .yieldc true cont none, _ => { x with wait := .yieldc true cont (some st) }
      | _, some h =>
        match h.wait with
        | .yieldc true cont none => { x with held := some { h with wait := .yieldc true cont (some st) } }
        | _ => x
      | _, _ => x)
  else signal s c.source c.target 1 st

/-- COPY_COMPLETE: a started command leaves the queue and reports (R210), once its signal meets no bank that wakes. -/
def copyComplete (s : State) (ptile i : Nat) : State :=
  match (s.tile ptile).copies[i]? with
  | none => s
  | some c =>
    match c.status with
    | none => s
    | some st =>
      if !c.yield && targetWakes s c.agent c.target then s
      else
      copyReport (s.modTile ptile (fun t => { t with copies := t.copies.eraseIdx i })) c st

/-- YIELDC_RESUME: the band goes on at its continuation, with the report in YCSTAT; a join of device scope (R212,
spec/02 R42, spec/04 R82). -/
def yieldcResume (s : State) (b : Nat) : State :=
  let stat (st : Nat) : W64 := w64 (1 + st * 2 ^ 48)
  match (s.band b).wait, (s.band b).held with
  | .yieldc _ cont (some st), _ =>
    l1Clear (s.modBand b (fun x => { x with pc := cont, wait := .none, ycstat := stat st })) (s.band b).ptile
  | _, some h =>
    match h.wait with
    | .yieldc _ cont (some st) =>
      l1Clear (s.modBand b (fun x =>
        { x with held := some { h with pc := cont, wait := .none }, ycstat := stat st })) (s.band b).ptile
    | _ => s
  | _, _ => s

/-- Copies that containment discards complete KILLED (R210, spec/13 R285, R287). -/
def killCopies (s : State) (p : CopyCmd → Bool) : State :=
  let gone := s.tiles.flatMap (fun e => e.2.copies.filter p)
  let s := { s with tiles := s.tiles.map (fun e => (e.1, { e.2 with copies := e.2.copies.filter (fun c => !p c) })) }
  gone.foldl (fun s c => copyReport s c 0x20) s

end Sys2Proof.Machine
end

