-- ==== Sys2Proof/Machine/Decoder.lean ====
section
/-!
DEFINITION. The AV1 decoders: `vdec`, and the device's steps that start a command, produce its frames and complete it
(spec/10 R218 to R223). The OBUs of a bitstream are told apart by their headers; what they hold is a free value (log entry 12).
-/
namespace Sys2Proof.Machine

def Decoder.init : Decoder := ⟨[], none⟩
def State.dec (s : State) (k : Nat) : Decoder := tget Decoder.init s.decoders k
def State.modDec (s : State) (k : Nat) (f : Decoder → Decoder) : State :=
  { s with decoders := tupd Decoder.init s.decoders k f }


/-- The decoder of a die with the fewest commands, the lowest number first (R219). -/
def leastBusy (s : State) (die : Nat) : Nat :=
  (List.range 8).foldl (fun best i =>
    if (s.dec (die * 8 + i)).queue.length < (s.dec (die * 8 + best)).queue.length then i else best) 0

/-- vdec (R219). -/
def execVdec (a : SReg) (n : BitVec 4) (s : State) : Out :=
  let b := s.cb
  let die := dieOf b.tile
  if (b.s a).toNat % 64 ≠ 0 then trapScalar s cMISALIGNED
  else
    let k := die * 8 + (if n.toNat = 8 then leastBusy s die else n.toNat)
    if 8 ≤ (s.dec k).queue.length then .next (s.modCb (fun b => { b with wait := .space }))
    else
      .next (finishS (s.modDec k (fun d =>
        { d with queue := d.queue ++ [⟨b.s a, s.cur.band, b.wg, b.ctx, b.launch, b.ptile⟩] })) id)

/-! ### The descriptor -/

def Vdec.agent (c : Vdec) : Agent := ⟨c.ctx, some c.launch, some c.ptile, false⟩
def Vdec.source (c : Vdec) (k : Nat) : Source := ⟨c.agent, some c.band, 0x82000000 + k⟩

def vFrames (w : Nat) : Nat := bitsN w 96 8 + 1
def vFmt (w : Nat) : Nat := bitsN w 104 2
def vRm (w : Nat) : Nat := bitsN w 106 3
def vOut (w : Nat) : Nat := bitsN w 128 64
def vX0 (w : Nat) : Nat := bitsN w 192 16
def vY0 (w : Nat) : Nat := bitsN w 208 16
def vW (w : Nat) : Nat := bitsN w 224 16
def vH (w : Nat) : Nat := bitsN w 240 16
def vStride (w : Nat) : Nat := bitsN w 256 32
def vScales (w : Nat) : Nat := bitsN w 320 64
def vFsig (w : Nat) : W64 := w64 (bitsN w 384 64)
def vCompl (w : Nat) : W64 := w64 (bitsN w 448 64)

/-- A rounding code of a descriptor; 5 to 7 are no modes. -/
def rmCode (n : Nat) : Rm := rmOf (BitVec.ofNat 3 n)

/-- The bytes of one plane of n elements, rounded up to 64. -/
def planeRoom (fmt deep n : Nat) : Nat :=
  match fmt with
  | 0 => (n * (1 + deep) + 63) / 64 * 64
  | 1 => (2 * n + 63) / 64 * 64
  | _ => 8 * planeBytes n

/-- The bytes of one plane without the padding to the next. -/
def planeSize (fmt deep n : Nat) : Nat :=
  match fmt with
  | 0 => n * (1 + deep)
  | 1 => 2 * n
  | _ => 8 * planeBytes n

/-- The bytes of a window: luma, and for 4:2:0 the two chroma planes (R221). -/
def windowSize (fmt deep w h : Nat) (mono : Bool) : Nat :=
  if mono then planeSize fmt deep (w * h)
  else planeRoom fmt deep (w * h) + planeRoom fmt deep (w / 2 * (h / 2)) + planeSize fmt deep (w / 2 * (h / 2))

/-- Whether a range lies within one tile's slice, in the flat window or the local alias (R220). -/
def inOneSlice (va n : Nat) : Bool :=
  let off := va % 0x100000
  ((0xFE00000000000000 ≤ va && va < 0xFE00000000060000) ||
    (0xFF00000000000000 ≤ va && va < 0xFF0000000C000000)) && off + n ≤ 0x60000

def isSramVa (va : Nat) : Bool :=
  (0xFE00000000000000 ≤ va && va < 0xFE00000000060000) || (0xFF00000000000000 ≤ va && va < 0xFF0000000C000000 && va % 0x100000 < 0x60000)

/-- Whether the fields of a descriptor are valid (R219, R220). A rounding code of 5 to 7 makes it invalid where OUTFMT 0 does not
use it too, and the room of a window is that of three planes, as mono_chrome is not known yet (log entry 67). -/
def vdecOk (w : Nat) : Bool :=
  bitsN w 109 19 == 0 && bitsN w 288 32 == 0 && bitsN w 768 256 == 0 &&
  vFmt w != 3 && vRm w ≤ 4 && 1 ≤ bitsN w 64 32 &&
  vX0 w % 2 == 0 && vY0 w % 2 == 0 && vW w % 2 == 0 && 2 ≤ vW w && vW w ≤ 8192 &&
  vH w % 2 == 0 && 2 ≤ vH w && vH w ≤ 4352 && vStride w % 64 == 0 &&
  (vFmt w == 2 || vScales w == 0) && targetOk (vFsig w) && targetOk (vCompl w) &&
  vOut w % 64 == 0 && isSramVa (vOut w) && !isSramVa (bitsN w 0 64) &&
  inOneSlice (vOut w) ((vFrames w - 1) * vStride w + windowSize (vFmt w) 1 (vW w) (vH w) false)

/-! ### DECODE_START -/

/-- The frames of an invalid descriptor: FRAMES + 1 poisoned signals to FSIG, then COMPL with DESC_BAD (R219). The spec gives the
poisoned signals no status: they carry DESC_BAD too (log entry 67). A target that is itself invalid is reported once. -/
def vdecBad (s : State) (k : Nat) (c : Vdec) (w : Nat) : State :=
  let src := c.source k
  let s := if targetOk (vFsig w) then
      (List.range (vFrames w)).foldl (fun s _ => signal s src (vFsig w) 1 1) s
    else signal s src (vFsig w) 1 1
  signal s src (vCompl w) 1 1

/-- The descriptor of a command, where it can be read. -/
def vdecWord (s : State) (c : Vdec) : Nat := leNat 128 (engBytes s c.agent c.desc.toNat 128)

/-- A run before its first frame. -/
def VRun.start (w : Nat) : VRun := ⟨w, 0, 0, 0, none, 0, 0, false, none⟩

/-- A command of a decoder that waits starts: it reads its descriptor (R219), which waits for storage that wakes (spec/13
R282). -/
def decodeStart (s : State) (k : Nat) : State :=
  let d := s.dec k
  match d.queue with
  | [] => s
  | c :: rest =>
    if d.run.isSome || rangeWakes s c.agent c.desc.toNat 128 then s
    else
      let pop (s : State) : State := s.modDec k (fun d => { d with queue := rest })
      match engCheck s c.agent false c.desc.toNat 128 with
      | .bad x => pop (signalLost s (c.source k) c.desc x)
      | .poisoned => pop (pageError s c.ctx)
      | .ok _ =>
        if engBad s c.agent c.desc.toNat 128 then pop (outerError s c.launch)
        else
          let w := vdecWord s c
          if vdecOk w then s.modDec k (fun d => { d with run := some (VRun.start w) })
          else if targetWakes s c.agent (vFsig w) || targetWakes s c.agent (vCompl w) then s
          else pop (vdecBad s k c w)

/-! ### The bitstream (R218, R222, R223) -/

/-- The bytes of the bitstream up to the first that cannot be read, and the fault there (R220, R223). A PEER page
gives PERMISSION, whatever else stands in its way. -/
def bitstream (s : State) (ag : Agent) (w : Nat) : List Byte × Option Xl :=
  let n := bitsN w 64 32
  let va := bitsN w 0 64
  let peer (a : Nat) : Bool := match unitEntry s ag a with
    | .leaf e => bitsN e 7 2 == 2
    | _ => false
  let bad (i : Nat) : Option Xl :=
    let a := (va + i) % 2 ^ 64
    if decide (a < spaceStep) && peer a then some (.bad cPERMISSION)
    else match xlByte s ag false a with
      | .ok _ => none
      | x => some x
  let good := ((List.range n).find? (fun i => (bad i).isSome)).getD n
  (engBytes s ag va good, if good < n then bad good else none)

/-- What stands at a place of the bitstream: no byte to read, the header of an OBU after which no boundary can be found, or an
OBU's type with the place of its first byte and the place after its last, none where it carries no size (PRESUMED: the header's
layout is that of the AV1 format; log entry 12). -/
inductive ObuHead where
  | more
  | broken
  | obu (type start : Nat) (stop : Option Nat)
  deriving DecidableEq, Repr

/-- The size field of an OBU: seven bits a byte, least significant first, at most 8 bytes and below 2^32. -/
def obuSize (bs : List Byte) (type : Nat) : Nat → Nat → Nat → Nat → ObuHead
  | 0, _, _, _ => .broken
  | fuel + 1, pos, shift, acc =>
    match bs[pos]? with
    | none => .more
    | some b =>
      let acc := acc + b.toNat % 128 * 2 ^ shift
      if b.getLsbD 7 then obuSize bs type fuel (pos + 1) (shift + 7) acc
      else if 2 ^ 32 ≤ acc then .broken
      else .obu type (pos + 1) (some (pos + 1 + acc))

def obuHead (bs : List Byte) (pos : Nat) : ObuHead :=
  match bs[pos]? with
  | none => .more
  | some h =>
    let type := h.toNat / 8 % 16
    let start := pos + (if h.getLsbD 2 then 2 else 1)
    if h.getLsbD 7 || h.getLsbD 0 then .broken
    else if bs.length < start then .more
    else if h.getLsbD 2 && (byteAt bs (pos + 1)).toNat % 8 != 0 then .broken
    else if h.getLsbD 1 then obuSize bs type 8 start 0 0
    else .obu type start none

/-- Whether a sequence lies in the subset of R218. -/
def seqOk (q : Av1Seq) : Bool :=
  q.profile == 0 && decide (20 ≤ q.level) && decide (q.level ≤ 63) && (q.depth == 8 || q.depth == 10) && (q.mono || q.sub420)

/-- The slots that a frame refreshes; a key frame refreshes all of them (R222). -/
def freshSlots (o : Av1Obu) : BitVec 8 := if o.key then 0xFF#8 else o.refresh

/-- Whether a frame that breaks no constraint is corrupt all the same: no sequence header in the subset, another feature
outside it, or a reference that is missing or poisoned (R218, R222). A key frame needs none, but where a slot's is shown again. -/
def frameBad (r : VRun) (o : Av1Obu) : Bool :=
  !(r.seq.any seqOk) || o.largeScale || o.width == 0 || o.height == 0 || decide (8192 < o.width) || decide (4352 < o.height) ||
    ((!o.key || o.again) && o.refs &&& (r.slots ||| ~~~r.held) != 0)

/-- The slots after a corrupt frame, by whether its header was parsed, and after a clean one (R222). -/
def VRun.spoil (r : VRun) (parsed : Bool) (o : Av1Obu) : VRun :=
  { r with slots := if parsed then r.slots ||| freshSlots o else 0xFF#8 }
def VRun.refresh (r : VRun) (o : Av1Obu) : VRun :=
  { r with slots := r.slots &&& ~~~freshSlots o, held := r.held ||| freshSlots o }

/-- The next shown frame of a bitstream: a byte that it needs cannot be read, it is corrupt, or it is clean, with the bytes up to
its end; and the run after it. -/
inductive VNext where
  | fault (x : Xl)
  | corrupt (r : VRun)
  | clean (bytes : List Byte) (o : Av1Obu) (r : VRun)
  deriving DecidableEq, Repr

/-- No byte is left to read: a memory fault, or the end of the bitstream before the frame is complete. -/
def cutShort (fault : Option Xl) (r : VRun) : VNext :=
  match fault with
  | some x => .fault x
  | none => .corrupt { r with lost := true, slots := 0xFF#8 }

/-- The types of OBU that can carry a frame: 3, 4, 6 and 7 (PRESUMED: as the AV1 format numbers them; log entry 12). -/
def carriesFrame (type : Nat) : Bool := type == 3 || type == 4 || type == 6 || type == 7

/-- Parse OBU after OBU up to the next shown frame. `n`: the length of the bitstream. -/
def nextShown (bs : List Byte) (fault : Option Xl) (n : Nat) : Nat → VRun → VNext
  | 0, r => cutShort fault r
  | fuel + 1, r =>
    if r.lost then .corrupt r
    else
      match obuHead bs r.pos with
      | .more => cutShort fault r
      | .broken => .corrupt { r with lost := true, slots := 0xFF#8 }
      | .obu type start stop =>
        let stop' := stop.getD n
        match (List.range (min stop' bs.length + 1 - start)).find? (fun i => Config.av1Fails (bs.take (start + i))) with
        | some i =>
          let o := Config.av1Obu (bs.take (start + i))
          let r := { r with pos := stop', lost := stop.isNone }.spoil o.header o
          if o.header && !o.shown then nextShown bs fault n fuel r else .corrupt r
        | none =>
          if bs.length < stop' then cutShort fault r
          else
            let p := bs.take stop'
            let r := { r with pos := stop' }
            if type == 1 then nextShown bs fault n fuel { r with seq := some (Config.av1Seq p) }
            else if !carriesFrame type then nextShown bs fault n fuel r
            else
              let o := Config.av1Obu p
              if !o.frame then nextShown bs fault n fuel r
              else
                let bad := frameBad r o
                let r' := if bad then r.spoil true o else r.refresh o
                if !o.shown then nextShown bs fault n fuel r' else if bad then .corrupt r' else .clean p o r'

/-! ### FRAME_OUTPUT -/

/-- What a window is made of: the bytes up to the end of a clean frame and its size, or nothing for a corrupt frame; the bit
depth, and whether there is luma alone. -/
structure Picture where
  frame : Option (List Byte × Av1Obu)
  depth : Nat
  mono : Bool
  deriving DecidableEq, Repr

/-- The layout of a frame: that of the sequence in force, and 4:2:0 of 8 bits before there is one (spec/23 R354). -/
def pictureOf (seq : Option Av1Seq) (frame : Option (List Byte × Av1Obu)) : Picture :=
  match seq with
  | some q => ⟨frame, q.depth, q.mono⟩
  | none => ⟨frame, 8, false⟩

/-- A sample of a window, 0 outside the decoded frame and in a corrupt one (R221, R222). -/
def Picture.elem (p : Picture) (w plane row col : Nat) : Nat :=
  let scale (n : Nat) : Nat := if plane = 0 then n else n / 2
  let r := scale (vY0 w) + row
  let c := scale (vX0 w) + col
  match p.frame with
  | none => 0
  | some (bs, o) =>
    if scale (o.height + (if plane = 0 then 0 else 1)) ≤ r || scale (o.width + (if plane = 0 then 0 else 1)) ≤ c then 0
    else Config.av1Sample bs plane r c % 2 ^ p.depth

/-- x = sample ÷ (2^b - 1). -/
def sampleValue (depth x : Nat) : FVal := fdivV (.fin false x 0) (.fin false (2 ^ depth - 1) 0)

/-- The bytes of one plane of a window (R221); every element of a corrupt frame has the value 0 (R222). -/
def planeOut (p : Picture) (w plane scale : Nat) : List Byte :=
  let pw := if plane = 0 then vW w else vW w / 2
  let ph := if plane = 0 then vH w else vH w / 2
  let n := pw * ph
  let elem (i : Nat) : Nat := p.elem w plane (i / pw) (i % pw)
  match vFmt w with
  | 0 => (List.range n).flatMap (fun i => leBytes (if p.depth = 8 then 1 else 2) (elem i))
  | 1 => (List.range n).flatMap (fun i =>
      leBytes 2 (fround (fmtOf .bf16) (rmCode (vRm w)) (sampleValue p.depth (elem i))))
  | _ =>
    let f8 : Format := ⟨3, 8, 8, false, scale⟩
    packPlanes 8 n (fun i => if p.frame.isNone then 0 else f8.toPlane (rmCode (vRm w)) (sampleValue p.depth (elem i)))

/-- Whether a bf16 scale is positive, finite and not zero. -/
def scaleOk (x : Nat) : Bool := x < 0x7F80 && x != 0

/-- Write the window of frame f; the answer is its first fault. -/
def writeWindow (s : State) (ag : Agent) (p : Picture) (w f scale : Nat) : State × Option Xl :=
  let deep := if p.depth = 8 then 0 else 1
  let base := vOut w + f * vStride w
  let y := planeRoom (vFmt w) deep (vW w * vH w)
  let c := planeRoom (vFmt w) deep (vW w / 2 * (vH w / 2))
  let planes := if p.mono then [(0, base)] else [(0, base), (1, base + y), (2, base + y + c)]
  planes.foldl (fun (acc : State × Option Xl) q =>
    match acc.2 with
    | some _ => acc
    | none => engWrite acc.1 ag q.2 (planeOut p w q.1 scale) (fun _ => false)) (s, none)

/-- The scale of a frame: bf16 at SCALES + 2 f, read as memory holds it, for OUTFMT 2 and a frame that is clean so far (R219,
R221). -/
def frameScale (s : State) (ag : Agent) (w f : Nat) (clean : Bool) : Except Xl Nat :=
  if vFmt w ≠ 2 || !clean then .ok 1
  else
    match engCheck s ag false (vScales w + 2 * f) 2 with
    | .ok _ => .ok (leNat 2 (engBytes s ag (vScales w + 2 * f) 2))
    | x => .error x

/-- A frame after a memory fault: signalled poisoned with the fault's status (R223). -/
def faultFrame (s : State) (k : Nat) (c : Vdec) (r : VRun) (x : Xl) : State :=
  let st := r.stopped.getD (xlStatus x)
  let s := notePage s c.ctx (some x)
  let s := signal s (c.source k) (vFsig r.word) 1 st
  s.modDec k (fun d => { d with run := some { r with
    frame := r.frame + 1, result := r.result ||| 2 ^ r.frame, stopped := some st } })

/-- A frame's window is written, then the frame is signalled (R221, R222). -/
def showFrame (s : State) (k : Nat) (c : Vdec) (r r' : VRun) (p : Picture) (scale : Nat) : State :=
  match writeWindow s c.agent p r.word r.frame scale with
  | (s', some x) => faultFrame s' k c r x
  | (s', none) =>
    (signal s' (c.source k) (vFsig r.word) 1 (if p.frame.isNone then 0x31 else 0)).modDec k (fun d => { d with run := some { r' with
      frame := r.frame + 1, result := if p.frame.isNone then r.result ||| 2 ^ r.frame else r.result } })

/-- The bytes that a frame's decoding has read and that hold an error. -/
def streamError (s : State) (ag : Agent) (w n : Nat) : List Nat :=
  (accessKeys s ag false (bitsN w 0 64) n).filter (fun k => s.poison.contains (codeOf k))

/-- Whether the accesses of a frame meet a bank that still wakes: its window, its scale and its signal (spec/13 R282). -/
def frameWakes (s : State) (ag : Agent) (w f : Nat) : Bool :=
  rangeWakes s ag (vOut w + f * vStride w) (windowSize (vFmt w) 1 (vW w) (vH w) false) ||
    (vFmt w == 2 && rangeWakes s ag (vScales w + 2 * f) 2) || targetWakes s ag (vFsig w)

/-- FRAME_OUTPUT: the next frame is produced and signalled (R221 to R223). -/
def frameOutput (s : State) (k : Nat) : State :=
  let d := s.dec k
  match d.queue, d.run with
  | c :: _, some r =>
    let w := r.word
    let ag := c.agent
    if vFrames w ≤ r.frame || frameWakes s ag w r.frame then s
    else
      match r.stopped with
      | some _ => faultFrame s k c r (.bad 0)
      | none =>
        let (bs, fault) := if r.lost then ([], none) else bitstream s ag w
        match nextShown bs fault (bitsN w 64 32) (bs.length + 1) r with
        | .fault x => faultFrame s k c r x
        | .corrupt r' =>
          let s := memError s c.launch (streamError s ag w (min bs.length r'.pos))
          showFrame s k c r r' (pictureOf r'.seq none) 1
        | .clean bytes o r' =>
          let s := memError s c.launch (streamError s ag w bytes.length)
          match frameScale s ag w r.frame true with
          | .error x => faultFrame s k c r x
          | .ok scale =>
            let s := if vFmt w = 2 then memError s c.launch (accessKeys s ag false (vScales w + 2 * r.frame) 2) else s
            if vFmt w == 2 && !scaleOk scale then showFrame s k c r (r'.spoil true o) (pictureOf r'.seq none) 1
            else showFrame s k c r r' (pictureOf r'.seq (some (bytes, o))) scale
  | _, _ => s

/-- DECODE_COMPLETE: RESULT is written, then COMPL is signalled; a RESULT that cannot be written stays as it stood (R223). -/
def decodeComplete (s : State) (k : Nat) : State :=
  let d := s.dec k
  match d.queue, d.run with
  | c :: rest, some r =>
    if vFrames r.word ≤ r.frame && !rangeWakes s c.agent c.desc.toNat 128 && !targetWakes s c.agent (vCompl r.word) then
      let s := s.modDec k (fun _ => ⟨rest, none⟩)
      let own := r.stopped.getD (if r.result = 0 then 0 else 0x31)
      let (s', st) := match engCheck s c.agent true (c.desc.toNat + 64) 32 with
        | .ok _ => ((engWrite s c.agent (c.desc.toNat + 64) (leBytes 32 r.result) (fun _ => false)).1, own)
        | x => (notePage s c.ctx (some x), xlStatus x)
      signal s' (c.source k) (vCompl r.word) 1 st
    else s
  | _, _ => s

/-- Decodes that containment discards complete KILLED: each frame that has not been signalled, then the command. One whose
descriptor cannot be read has no targets (R219, spec/17 R320; log entry 35). -/
def killDecode (s : State) (k : Nat) (c : Vdec) (run : Option VRun) : State :=
  let killed (w f : Nat) : State :=
    signal ((List.range (vFrames w - f)).foldl (fun s _ => signal s (c.source k) (vFsig w) 1 0x20) s) (c.source k) (vCompl w) 1 0x20
  match run with
  | some r => killed r.word r.frame
  | none =>
    match engCheck s c.agent false c.desc.toNat 128 with
    | .ok _ => if engBad s c.agent c.desc.toNat 128 then s else killed (vdecWord s c) 0
    | _ => s

def killDecodes (s : State) (p : Vdec → Bool) : State :=
  let gone := s.decoders.flatMap (fun e =>
    ((List.range e.2.queue.length).zip e.2.queue).filterMap (fun x =>
      if p x.2 then some (e.1, x.2, if x.1 = 0 then e.2.run else none) else none))
  let s := { s with decoders := s.decoders.map (fun e => (e.1, { e.2 with
    queue := e.2.queue.filter (fun c => !p c)
    run := if e.2.queue.head?.any p then none else e.2.run })) }
  gone.foldl (fun s g => killDecode s g.1 g.2.1 g.2.2) s

end Sys2Proof.Machine
end

