-- ==== Sys2Proof/Machine/Bfq.lean ====
section
/-!
DEFINITION. Stride patterns and the batch-forming queue (spec/10 R224 to R227, spec/02 R44, spec/17 R318), and the
die-context state they use.
-/
namespace Sys2Proof.Machine

/-! ### State of a context on a die -/

def State.dctx (s : State) (k : Nat) : DieCtx := tget DieCtx.init s.dctxs k
def State.modDctx (s : State) (k : Nat) (f : DieCtx → DieCtx) : State :=
  { s with dctxs := tupd DieCtx.init s.dctxs k f }

/-- The present band's context on its own die. -/
def State.cdk (s : State) : Nat := dctxKey (dieOf s.cb.tile) s.cb.ctx

/-! ### Stride patterns (R224) -/

/-- The stack entry of an interface's index, when it lies below GPATCNT. -/
def gpatEntry (s : State) (vif i : Nat) : Option Nat :=
  if i < (s.vif vif).gpatUse then some ((s.vif vif).gpatFirst + i) else none

/-- A pattern word that `gpat.set` takes. -/
def patternOk (w : W64) : Bool :=
  bitsN w.toNat 0 32 != 0 && bitsN w.toNat 32 2 != 3 && bitsN w.toNat 34 30 == 0

/-- The pattern of an entry for a context, 0 when it is invalid for it. -/
def gpatWord (s : State) (ctx e : Nat) : W64 :=
  match tget? s.gpat e with
  | some (c, w) => if c = ctx then w else 0
  | none => 0

/-! ### Sequences (R226, spec/02 R44) -/

/-- The sequence of a handle, unless it is stale or foreign. -/
def seqOf (s : State) (k : Nat) (h : W64) : Option (Nat × Seq) :=
  let slot := bitsN h.toNat 0 12
  match tget? (s.dctx k).seqs slot with
  | some q => if h.toNat < 2 ^ 32 && q.gen = bitsN h.toNat 12 20 then some (slot, q) else none
  | none => none

/-- The low 32 bits as i32. -/
def slackOf (v : W64) : Int := toInt 32 v.toNat

/-- bfq.reg: which free slot and which new generation the handle names is open (log entry 34). -/
def execBfqReg (d a : SReg) (s : State) : Out :=
  let b := s.cb
  let k := s.cdk
  let x := s.dctx k
  let free := (List.range 4096).filter (fun i => (tget? x.seqs i).isNone)
  if free.isEmpty then trapScalar s cBFQ_FULL
  else
    let slot := (free[Config.freeChoice (s.freeIx 0) % free.length]?).getD 0
    let gen := (tget 0 x.gens slot + 1 + Config.freeChoice (s.freeIx 1) % (2 ^ 20 - 1)) % 2 ^ 20
    let s' := s.modDctx k (fun x => { x with
      seqs := tset x.seqs slot ⟨gen, slackOf (b.s a), some b.tile⟩
      gens := tset x.gens slot gen })
    laterS s' d (w64 (slot + gen * 4096))

def execBfqUnreg (a : SReg) (s : State) : Out :=
  let k := s.cdk
  match seqOf s k (s.cb.s a) with
  | none => trapScalar s cENG_OPERAND
  | some (slot, _) =>
    let h := (s.cb.s a).toNat
    let gone := (s.dctx k).waiting.filter (fun r => r.handle == h)
    let s' := s.modDctx k (fun x => { x with
      seqs := tdel x.seqs slot
      waiting := x.waiting.filter (fun r => r.handle != h) })
    .next (finishS (gone.foldl (fun s r => retire s k r 0x20) s') id)

def execBfqSlack (a b : SReg) (s : State) : Out :=
  let k := s.cdk
  match seqOf s k (s.cb.s a) with
  | none => trapScalar s cENG_OPERAND
  | some (slot, q) =>
    .next (finishS (s.modDctx k (fun x => { x with
      seqs := tset x.seqs slot { q with slack := slackOf (s.cb.s b) } })) id)

/-! ### Forming batches (R227) -/

/-- The requests that a batch takes, from the oldest on. -/
def takeBatch (most : Nat) : Nat → Nat → List Request → List Request
  | _, _, [] => []
  | n, rows, r :: rs =>
    if n = 0 || (rows + r.rows ≤ most && n < 64) then r :: takeBatch most (n + 1) (rows + r.rows) rs else []

/-- Form one batch. The first number of a die is 0, and they count modulo 2^32: the model's choice (spec/10 R226; log entry 71). -/
def formBatch (s : State) (k : Nat) : State :=
  let x := s.dctx k
  let take := takeBatch x.bfqmax 0 0 x.waiting
  let no := (s.die (k / 1024)).batchNo
  (s.modDctx k (fun x => { x with
    waiting := x.waiting.drop take.length
    formed := x.formed ++ [⟨no, take⟩] })).modDie (k / 1024) (fun d => { d with batchNo := (d.batchNo + 1) % 2 ^ 32 })

/-- Whether a condition of R227 holds and a formed batch has room (spec/17 R318). -/
def batchDue (x : DieCtx) : Bool :=
  x.formed.length < 16 && !x.waiting.isEmpty &&
    (x.bfqthr ≤ (x.waiting.map (·.rows)).sum ||
      (x.waiting.head?.map (fun r => r.waitLim != 0 && r.waitLim ≤ r.waited)).getD false)

/-- Form every batch that is due; at most 16. -/
def formDue (s : State) (k : Nat) : State :=
  (List.range 16).foldl (fun s _ => if batchDue (s.dctx k) then formBatch s k else s) s

/-! ### Requests -/

/-- Whether a request descriptor is valid (R225); its handle is checked beside it. -/
def requestOk (w : Nat) : Bool := bitsN w 40 24 == 0 && bitsN w 320 192 == 0 && targetOk (w64 (bitsN w 192 64))

/-- bfq.post (R226): the descriptor is read at device scope; the number it answers is open (log entry 34). -/
def execBfqPost (d a : SReg) (s : State) : Out :=
  let b := s.cb
  let k := s.cdk
  let va := (b.s a).toNat
  if va % 64 ≠ 0 then trapScalar s cMISALIGNED
  else
    withAccess s false false va 64 (
      if anyPoison s (accessKeys s b.agent false va 64) then
        .next (memError s b.launch (accessKeys s b.agent false va 64))
      else
        let (bs, _, s') := loadBytes s b.agent true va 64
        let w := leNat 64 bs
        let h := bitsN w 0 32
        if !requestOk w || (seqOf s k (w64 h)).isNone then trapScalar s cENG_OPERAND
        else if 1024 ≤ (s.dctx k).waiting.length then .next (s.modCb (fun b => { b with wait := .space }))
        else
          let r : Request :=
            ⟨w64 va, h, bitsN w 32 8 + 1, bitsN w 256 32, w64 (bitsN w 192 64), bitsN w 288 32, 0, s.cur.band, b.launch, b.ptile⟩
          let s' := formDue (s'.modDctx k (fun x => { x with waiting := x.waiting ++ [r] })) k
          laterS s' d (Config.freeWord (s.freeIx 0)))

/-- The bytes of a batch record (R226). -/
def batchRecord (x : Batch) : List Byte :=
  leBytes 8 (x.reqs.length + (x.reqs.map (·.rows)).sum * 2 ^ 16 + x.no * 2 ^ 32) ++
    x.reqs.flatMap (fun r => leBytes 8 r.desc.toNat)

/-- The cause of writing a record: each of its 8-byte words is a store. -/
def recordCheck (s : State) (ag : Agent) (va n : Nat) : Option Xl :=
  firstBad ((List.range (n / 8)).map (fun i => xlAccess s ag true false (va + 8 * i) 8))

/-- Give a band the oldest formed batch: its record is written and its requests become the band's own. -/
def giveBatch (s : State) (b k : Nat) (va : Nat) (x : Batch) (f : Band → Band) : State :=
  let bytes := batchRecord x
  let s := storeBytes s (s.band b).agent false va bytes
  let s := s.modDctx k (fun d => { d with formed := d.formed.drop 1 })
  let s := s.modBand b (fun y => f { y with batch := x.reqs.map (fun r => ⟨r, false, false⟩), lastGiven := none })
  formDue s k

/-- bfq.take (R226): with no formed batch it waits. A batch that the band still holds is given up (log
entry 36). -/
def execBfqTake (d a : SReg) (s : State) : Out :=
  let b := s.cb
  let k := s.cdk
  let va := (b.s a).toNat
  match (s.dctx k).formed with
  | [] => .next (s.modCb (fun b => { b with wait := .bfqTake d (w64 va), waitWord := s.cur.word.setWidth 32 }))
  | x :: _ =>
    match recordCheck s b.agent va (8 + 8 * x.reqs.length) with
    | some (.bad c) => trapScalar s c
    | some _ => .next (pageError s b.ctx)
    | none =>
      let s := abandon s s.cur.band 0x41
      let n := w64 x.reqs.length
      laterS (giveBatch s s.cur.band k va x id) d n

/-- BFQ_TAKE_RETURN: a batch has been formed for a band that waits. A record that cannot be written makes the
instruction issue again, where it traps. -/
def bfqTakeReturn (s : State) (b : Nat) : State :=
  let y := s.band b
  let k := dctxKey (dieOf y.tile) y.ctx
  match y.wait, (s.dctx k).formed with
  | .bfqTake d va, x :: _ =>
    match recordCheck s y.agent va.toNat (8 + 8 * x.reqs.length) with
    | none =>
      if y.owes d || rangeWakes s y.agent va.toNat (8 + 8 * x.reqs.length) then s
      else
      let s := abandon s b 0x41
      giveBatch s b k va.toNat x (fun y => (y.setS d (w64 x.reqs.length)).nextS y.waitWord.toNat)
    | some _ => s.modBand b (fun y => { y with wait := .none })
  | _, _ => s

/-- bfq.next (R226, spec/02 R43): the next request that has neither been given nor retired; the budget counter is
reloaded. -/
def execBfqNext (d : SReg) (s : State) : Out :=
  match s.cb.batch.findIdx? (fun r => !r.given && !r.retired) with
  | none => writeS s d (BitVec.allOnes 64)
  | some i =>
    .next (finishS s (fun b =>
      let budget := ((b.batch[i]?).map (fun r => r.req.budget)).getD 0
      { b.setS d (w64 i) with
        batch := b.batch.modify i (fun r => { r with given := true })
        lastGiven := some i
        budleft := w32 budget }))

/-- bfq.done (R226, R227). -/
def execBfqDone (a b : SReg) (s : State) : Out :=
  let x := s.cb
  let i := (x.s a).toNat
  let st := bitsN (x.s b).toNat 0 16
  match x.batch[i]? with
  | none => trapScalar s cENG_OPERAND
  | some r =>
    needOperand s (st != 0x20 && st != 0x40 && st != 0x41) (
      if r.retired then .next (finishS s id)
      else
        let s' := s.modCb (fun y => { y with batch := y.batch.modify i (fun r => { r with retired := true }) })
        .next (finishS (retire s' s.cdk r.req st) id))

/-- BATCH_WAIT_LIMIT: the oldest request of a context on a die has waited its limit (R227). -/
def batchWaitLimit (s : State) (k : Nat) : State :=
  if batchDue (s.dctx k) then formBatch s k else s

/-- The request last given by `bfq.next` retires BUDGET at an overrun (R227). -/
def overrunRequest (s : State) (b : Nat) : State :=
  let x := s.band b
  match x.lastGiven.bind (fun i => (x.batch[i]?).map (fun r => (i, r))) with
  | some (i, r) =>
    if r.retired then s
    else
      retire (s.modBand b (fun y => { y with batch := y.batch.modify i (fun r => { r with retired := true }) }))
        (dctxKey (dieOf x.tile) x.ctx) r.req 0x40
  | none => s

/-- BUDGET_OVERRUN: the counter of a band has reached 0 (spec/02 R43, spec/19 R334). -/
def budgetOverrun (s : State) (b : Nat) : State :=
  if (s.band b).overrun then
    deferCause (overrunRequest (s.modBand b (fun x => { x with overrun := false })) b) b cBUDGET_OVERRUN none
  else s

end Sys2Proof.Machine
end

