-- ==== Sys2Proof/Machine/Cabinet.lean ====
section
/-!
DEFINITION. The Cabinet decision-diagram engine (spec/12 R249 to R268). A command's table work is done whole when the
command starts, which is one allowed interleaving of its mk steps with those of other commands (log entry 15).
-/
namespace Sys2Proof.Machine

/-- Work on a table: it ends with a value or with a status, and keeps what it has done either way. -/
abbrev Cab := ExceptT Nat (StateM State)

def stFULL : Nat := 0x8150
def stBADNODE : Nat := 0x8151
def stOPERAND : Nat := 0x8152
def stRANGE : Nat := 0x8153
def stKILLED : Nat := 0x20

/-- The table that a command works on: the agent of its accesses and the registers of its die-context. -/
structure Table where
  ag : Agent
  key : Nat
  base : Nat
  logn : Nat
  limit : Nat
  vobase : Nat
  count : Nat
  deriving DecidableEq, Repr

def Table.size (t : Table) : Nat := 2 ^ t.logn

def tableOf (s : State) (k : Nat) (ag : Agent) : Table :=
  let x := s.dctx k
  ⟨ag, k, x.ddbase.toNat, bitsN x.ddcap.toNat 0 6, bitsN x.ddcap.toNat 8 40, x.vobase.toNat, x.vocount.toNat⟩

/-! ### Memory -/

/-- Read n bytes. -/
def cabRead (ag : Agent) (va n : Nat) : Cab Nat := do
  let s ← get
  match engCheck s ag false va n with
  | .bad c => throw (0x8000 + c.toNat)
  | .poisoned => set (pageError s ag.ctx); throw stKILLED
  | .ok _ =>
    if engBad s ag va n then
      set (engError s ag (accessKeys s ag false va n))
      throw stKILLED
    else pure (leNat n (engBytes s ag va n))

/-- Write n bytes. -/
def cabWrite (ag : Agent) (va n v : Nat) : Cab Unit := do
  let s ← get
  match engCheck s ag true va n with
  | .bad c => throw (0x8000 + c.toNat)
  | .poisoned => set (pageError s ag.ctx); throw stKILLED
  | .ok _ => set (storeBytes s ag false va (leBytes n v))

/-- A node record (R249). -/
structure NodeRec where
  live : Bool
  var : Nat
  hi : Nat
  lo : Nat
  ref : Nat
  deriving DecidableEq, Repr

def NodeRec.ofNat (x : Nat) : NodeRec := ⟨x.testBit 116, bitsN x 96 20, bitsN x 56 40, bitsN x 16 40, bitsN x 0 16⟩
def NodeRec.toNat (r : NodeRec) : Nat :=
  r.live.toNat * 2 ^ 116 + r.var % 2 ^ 20 * 2 ^ 96 + r.hi % 2 ^ 40 * 2 ^ 56 + r.lo % 2 ^ 40 * 2 ^ 16 + r.ref % 2 ^ 16

def getRec (t : Table) (n : Nat) : Cab NodeRec := NodeRec.ofNat <$> cabRead t.ag (t.base + 16 * n) 16
def putRec (t : Table) (n : Nat) (r : NodeRec) : Cab Unit := cabWrite t.ag (t.base + 16 * n) 16 r.toNat
def getBucket (t : Table) (b : Nat) : Cab Nat := (· % 2 ^ 40) <$> cabRead t.ag (t.base + 16 * t.size + 8 * b) 8
def putBucket (t : Table) (b n : Nat) : Cab Unit := cabWrite t.ag (t.base + 16 * t.size + 8 * b) 8 n

/-! ### Levels and validity (R249, R252) -/

def levelOfVar (t : Table) (v : Nat) : Cab Nat := do return tget 0 ((← get).dctx t.key).v2l v
def varAt (t : Table) (l : Nat) : Cab Nat := do return tget 0 ((← get).dctx t.key).l2v l

/-- Whether a node is live: a record at NEXT or above has not been allocated since the last DDCAP write, which leaves none of
them live whatever its bits say (R250, R251; log entry 37). -/
def liveRec (t : Table) (n : Nat) (r : NodeRec) : Cab Bool := do
  if n ≤ 1 then pure r.live
  else return r.live && n < (← getRec t 0).lo

/-- The level of a node that an operation meets: its index, LIVE and VAR are checked. -/
def levelOf (t : Table) (n : Nat) : Cab Nat := do
  if t.size ≤ n then throw stBADNODE
  else
    let r ← getRec t n
    if !(← liveRec t n r) then throw stBADNODE
    else if n ≤ 1 then pure t.count
    else if t.count ≤ r.var then throw stBADNODE
    else levelOfVar t r.var

/-- A decision node that an operation visits: both children are valid and lie at greater levels (R252; log entry
37). -/
def visit (t : Table) (n : Nat) : Cab (NodeRec × Nat) := do
  let l ← levelOf t n
  let r ← getRec t n
  if n ≤ 1 then pure (r, l)
  else
    let a ← levelOf t r.lo
    let b ← levelOf t r.hi
    if a ≤ l || b ≤ l then throw stBADNODE else pure (r, l)

/-- The cofactors of x at level L (R257). -/
def cofactors (t : Table) (x l : Nat) : Cab (Nat × Nat) := do
  let (r, m) ← visit t x
  if 1 < x && m = l then pure (r.lo, r.hi) else pure (x, x)

/-! ### mk (R253) -/

/-- Change the REF of a node; one at 0xFFFF stays. -/
def bumpRef (t : Table) (n : Nat) (up : Bool) : Cab Unit := do
  let r ← getRec t n
  if r.ref = 0xFFFF then pure () else putRec t n { r with ref := if up then r.ref + 1 else r.ref - 1 }

def homeBucket (t : Table) (v lo hi : Nat) : Nat :=
  (v * 0x9E3779B1 + lo * 0x85EBCA77 + hi * 0xC2B2AE3D) % 2 ^ 64 % t.size

/-- What probing answers: the node that is there, or a slot for it. -/
inductive Probe where
  | found (n : Nat)
  | slot (b : Option Nat)
  deriving DecidableEq, Repr

/-- Probe at most `fuel` buckets from the k-th on. -/
def probe (t : Table) (v lo hi h : Nat) : Nat → Nat → Option Nat → Cab Probe
  | 0, _, slot => pure (.slot slot)
  | fuel + 1, k, slot => do
    let b := (h + k) % t.size
    let x ← getBucket t b
    if x = 0 then pure (.slot (some (slot.getD b)))
    else if x = 1 then probe t v lo hi h fuel (k + 1) (some (slot.getD b))
    else
      let r ← getRec t x
      if r.var = v && r.lo = lo && r.hi = hi then pure (.found x) else probe t v lo hi h fuel (k + 1) slot

/-- The context's PEAK on the die (R266). -/
def notePeak (t : Table) (live : Nat) : Cab Unit :=
  modify (fun s => s.modDctx t.key (fun x => { x with peak := max x.peak live }))

/-- A fresh index: the head of the free list, else NEXT. -/
def takeIndex (t : Table) : Cab Nat := do
  let r0 ← getRec t 0
  if r0.hi ≠ 0 then
    let f ← getRec t r0.hi
    putRec t 0 { r0 with hi := f.lo }
    pure r0.hi
  else
    putRec t 0 { r0 with lo := r0.lo + 1 }
    pure r0.lo

/-- mk (R253), with the probe limit `most`. -/
def mkNode (t : Table) (most v lo hi : Nat) : Cab Nat := do
  if lo = hi then pure lo
  else
    match ← probe t v lo hi (homeBucket t v lo hi) (min most t.size) 0 none with
    | .found n => pure n
    | .slot none => throw stFULL
    | .slot (some b) =>
      let r0 ← getRec t 0
      let r1 ← getRec t 1
      if t.limit ≤ r1.lo || (r0.hi = 0 && t.size ≤ r0.lo) then throw stFULL
      else
        let n ← takeIndex t
        putRec t n ⟨true, v, hi, lo, 0⟩
        bumpRef t lo true
        bumpRef t hi true
        putBucket t b n
        let r1 ← getRec t 1
        putRec t 1 { r1 with lo := r1.lo + 1 }
        notePeak t (r1.lo + 1)
        pure n

def mk32 (t : Table) (v lo hi : Nat) : Cab Nat := mkNode t 32 v lo hi

/-! ### The operation cache (R259) -/

def opKinds : Nat × Nat × Nat × Nat := (1, 2, 3, 4)

/-- Which slot an operation falls on is not given (log entry 16). -/
def slotOf (t : Table) (kind tt f g h : Nat) : Nat :=
  Config.opSlot (t.key % 1024 + 1024 * kind) tt (f + g * 2 ^ 40) h % 65536

def cacheGet (t : Table) (kind tt f g h : Nat) : Cab (Option Nat) := do
  let es := ((← get).die (t.key / 1024)).ops
  return (es.find? (fun e => e.2.ctx == t.key % 1024 && e.2.kind == kind && e.2.tt == tt && e.2.f == f &&
    e.2.g == g && e.2.h == h)).map (fun e => e.2.r)

def cachePut (t : Table) (kind tt f g h r : Nat) : Cab Unit :=
  modify (fun s => s.modDie (t.key / 1024) (fun d =>
    { d with ops := tset d.ops (slotOf t kind tt f g h) ⟨t.key % 1024, kind, tt, f, g, h, r⟩ }))

/-- A step of a recursion: the cached result, else the result of the work, which is cached. -/
def cached (t : Table) (kind tt f g h : Nat) (work : Cab Nat) : Cab Nat := do
  match ← cacheGet t kind tt f g h with
  | some r => pure r
  | none =>
    let r ← work
    cachePut t kind tt f g h r
    pure r

/-! ### Combining (R257, R258). The fuel bounds the levels. -/

def levelFor (t : Table) (x : Nat) : Cab Nat := do return (← visit t x).2

def appNode (t : Table) (tt : Nat) : Nat → Nat → Nat → Cab Nat
  | 0, _, _ => throw stBADNODE
  | fuel + 1, f, g => do
    if f ≤ 1 && g ≤ 1 then pure (tt.testBit (2 * f + g)).toNat
    else
      cached t 1 tt f g 0 (do
        let l := min (← levelFor t f) (← levelFor t g)
        let (f0, f1) ← cofactors t f l
        let (g0, g1) ← cofactors t g l
        let lo ← appNode t tt fuel f0 g0
        let hi ← appNode t tt fuel f1 g1
        mk32 t (← varAt t l) lo hi)

def iteNode (t : Table) : Nat → Nat → Nat → Nat → Cab Nat
  | 0, _, _, _ => throw stBADNODE
  | fuel + 1, f, g, h => do
    if f = 1 then pure g
    else if f = 0 then pure h
    else if g = h then pure g
    else if g = 1 && h = 0 then pure f
    else
      cached t 2 0 f g h (do
        let l := min (← levelFor t f) (min (← levelFor t g) (← levelFor t h))
        let (f0, f1) ← cofactors t f l
        let (g0, g1) ← cofactors t g l
        let (h0, h1) ← cofactors t h l
        let lo ← iteNode t fuel f0 g0 h0
        let hi ← iteNode t fuel f1 g1 h1
        mk32 t (← varAt t l) lo hi)

/-- The check of a cube (R258), of which every node is visited, the terminal too (R252). -/
def checkCube (t : Table) (ex : Bool) : Nat → Nat → Cab Unit
  | 0, _ => throw stBADNODE
  | fuel + 1, c => do
    let (r, _) ← visit t c
    if c = 0 then throw stOPERAND
    else if c = 1 then pure ()
    else
      if (if ex then r.lo ≠ 0 else (r.lo = 0) == (r.hi = 0)) then throw stOPERAND
      else checkCube t ex fuel (if r.lo = 0 then r.hi else r.lo)

/-- The rest of a cube from the first node at or below a level. -/
def cubeDown (t : Table) : Nat → Nat → Nat → Cab Nat
  | 0, _, _ => throw stBADNODE
  | fuel + 1, c, l => do
    if c = 1 then pure c
    else
      let (r, m) ← visit t c
      if m < l then cubeDown t fuel (if r.lo = 0 then r.hi else r.lo) l else pure c

def restrictNode (t : Table) : Nat → Nat → Nat → Cab Nat
  | 0, _, _ => throw stBADNODE
  | fuel + 1, f, c => do
    if f ≤ 1 then pure f
    else
      let (r, l) ← visit t f
      let c ← cubeDown t (t.count + 2) c l
      if c = 1 then pure f
      else
        cached t 3 0 f c 0 (do
          let (q, m) ← visit t c
          if m = l then
            if q.lo = 0 then restrictNode t fuel r.hi q.hi else restrictNode t fuel r.lo q.lo
          else
            let lo ← restrictNode t fuel r.lo c
            let hi ← restrictNode t fuel r.hi c
            mk32 t r.var lo hi)

def existsNode (t : Table) : Nat → Nat → Nat → Cab Nat
  | 0, _, _ => throw stBADNODE
  | fuel + 1, f, c => do
    if f ≤ 1 then pure f
    else
      let (r, l) ← visit t f
      let c ← cubeDown t (t.count + 2) c l
      if c = 1 then pure f
      else
        cached t 4 0 f c 0 (do
          let (q, m) ← visit t c
          if m = l then
            let lo ← existsNode t fuel r.lo q.hi
            let hi ← existsNode t fuel r.hi q.hi
            appNode t 0xE (t.count + 2) lo hi
          else
            let lo ← existsNode t fuel r.lo c
            let hi ← existsNode t fuel r.hi c
            mk32 t r.var lo hi)

/-! ### Counting (R260, R261) -/

def f64F : Fmt := ⟨11, 52⟩
def f64One : Nat := 0x3FF0000000000000

/-- The arithmetic of a count: exact integers, or f64 rounded to nearest even. -/
def cAdd (exact : Bool) (a b : Nat) : Nat := if exact then a + b else faddB f64F .rne a b
def cMul (exact : Bool) (a b : Nat) : Nat := if exact then a * b else fmulB f64F .rne a b

/-- The weights of a variable. -/
def weights (t : Table) (exact : Bool) (tab v : Nat) : Cab (Nat × Nat) := do
  if exact then pure (1, 1)
  else
    let w ← cabRead t.ag (tab + 16 * v) 16
    pure (w % 2 ^ 64, w / 2 ^ 64)

/-- lift: from level `hi` down to and including level `lo`. -/
def liftFrom (t : Table) (exact : Bool) (tab lo : Nat) : Nat → Nat → Cab Nat
  | 0, acc => pure acc
  | k + 1, acc => do
    if k < lo then pure acc
    else
      let (w0, w1) ← weights t exact tab (← varAt t k)
      liftFrom t exact tab lo k (cMul exact acc (cAdd exact w0 w1))

def wOf (exact : Bool) (w : Tbl Nat) (x : Nat) : Nat :=
  if x = 0 then 0 else if x = 1 then (if exact then 1 else f64One) else tget 0 w x

/-- The values of the nodes reached from n, in post-order, low child first. -/
def countNode (t : Table) (exact : Bool) (tab : Nat) : Nat → Tbl Nat → Nat → Cab (Tbl Nat)
  | 0, _, _ => throw stBADNODE
  | fuel + 1, w, n => do
    if n ≤ 1 || (tget? w n).isSome then pure w
    else
      let (r, l) ← visit t n
      let w ← countNode t exact tab fuel w r.lo
      let w ← countNode t exact tab fuel w r.hi
      let (w0, w1) ← weights t exact tab r.var
      let a ← liftFrom t exact tab (l + 1) (← levelOf t r.lo) (wOf exact w r.lo)
      let b ← liftFrom t exact tab (l + 1) (← levelOf t r.hi) (wOf exact w r.hi)
      let v := cAdd exact (cMul exact w0 a) (cMul exact w1 b)
      if exact && 2 ^ 128 ≤ v then throw stRANGE else pure (tset w n v)

def countFrom (t : Table) (exact : Bool) (tab f : Nat) : Cab Nat := do
  let l ← levelFor t f
  let w ← countNode t exact tab (t.count + 2) [] f
  let v ← liftFrom t exact tab 0 l (wOf exact w f)
  if exact && 2 ^ 128 ≤ v then throw stRANGE else pure v

/-! ### References and collection (R264, R265) -/

def refNode (t : Table) (n : Nat) (up : Bool) : Cab Unit := do
  if t.size ≤ n then throw stBADNODE
  else
    let r ← getRec t n
    if !(← liveRec t n r) then throw stBADNODE
    else if !up && r.ref = 0 then throw stOPERAND
    else bumpRef t n up

/-- The bucket that holds a node, from the k-th probe on. -/
def findBucket (t : Table) (h n : Nat) : Nat → Nat → Cab (Option Nat)
  | 0, _ => pure none
  | fuel + 1, k => do
    let b := (h + k) % t.size
    if (← getBucket t b) = n then pure (some b) else findBucket t h n fuel (k + 1)

/-- Turn the bucket of a node into a tombstone. -/
def dropBucket (t : Table) (n : Nat) (r : NodeRec) : Cab Unit := do
  match ← findBucket t (homeBucket t r.var r.lo r.hi) n t.size 0 with
  | some b => putBucket t b 1
  | none => pure ()

/-- The live decision nodes of REF 0 that are not taken yet. -/
def idleNodes (t : Table) (taken : List Nat) : Nat → Nat → Cab (List Nat)
  | 0, _ => pure []
  | fuel + 1, n => do
    let r ← getRec t n
    let rest ← idleNodes t taken fuel (n + 1)
    pure (if r.live && r.ref = 0 && !taken.contains n then n :: rest else rest)

/-- Take one node: its bucket, its children's references, the live count. -/
def takeNode (t : Table) (n : Nat) : Cab Unit := do
  let r ← getRec t n
  dropBucket t n r
  bumpRef t r.lo false
  bumpRef t r.hi false
  let r1 ← getRec t 1
  putRec t 1 { r1 with lo := r1.lo - 1 }

def gcRounds (t : Table) (next : Nat) : Nat → List Nat → Cab (List Nat)
  | 0, taken => pure taken
  | fuel + 1, taken => do
    let round ← idleNodes t taken (next - 2) 2
    if round.isEmpty then pure taken
    else
      round.forM (takeNode t)
      gcRounds t next fuel (taken ++ round)

/-- Push an index on the free list. -/
def freeIndex (t : Table) (n : Nat) : Cab Unit := do
  let r0 ← getRec t 0
  putRec t n ⟨false, 0, 0, r0.hi, 0⟩
  putRec t 0 { r0 with hi := n }

/-- Entries that name a reclaimed node go (R259). -/
def purgeNodes (t : Table) (taken : List Nat) : Cab Unit :=
  modify (fun s => s.modDie (t.key / 1024) (fun d => { d with ops := d.ops.filter (fun e =>
    !(e.2.ctx == t.key % 1024 && (taken.contains e.2.f || taken.contains e.2.g || taken.contains e.2.h ||
      taken.contains e.2.r))) }))

def descending (ns : List Nat) : List Nat := ns.mergeSort (fun a b => decide (b ≤ a))

def collect (t : Table) : Cab Unit := do
  let next := min (← getRec t 0).lo t.size
  let taken ← gcRounds t next next []
  (descending taken).forM (freeIndex t)
  purgeNodes t taken

/-! ### Changing the order (R262, R263) -/

/-- The live nodes of variable v with a child of variable w, in ascending order. -/
def swapNodes (t : Table) (v w : Nat) : Nat → Nat → Cab (List Nat)
  | 0, _ => pure []
  | fuel + 1, n => do
    let r ← getRec t n
    let rest ← swapNodes t v w fuel (n + 1)
    if r.live && r.var = v then
      let _ ← visit t n
      let a ← getRec t r.lo
      let b ← getRec t r.hi
      pure (if a.var = w || b.var = w then n :: rest else rest)
    else pure rest

/-- The length of the free list. -/
def freeCount (t : Table) : Nat → Nat → Cab Nat
  | 0, _ => pure 0
  | fuel + 1, n => do
    if n = 0 || t.size ≤ n then pure 0
    else
      let r ← getRec t n
      return 1 + (← freeCount t fuel r.lo)

/-- The cofactors of a node at a variable. -/
def varCof (t : Table) (x w : Nat) : Cab (Nat × Nat) := do
  let r ← getRec t x
  pure (if 1 < x && r.var = w then (r.lo, r.hi) else (x, x))

/-- Put a node into a bucket: the first tombstone or the empty one it meets, with no limit. -/
def rehash (t : Table) (n : Nat) (r : NodeRec) : Cab Unit := do
  match ← probe t r.var r.lo r.hi (homeBucket t r.var r.lo r.hi) t.size 0 none with
  | .slot (some b) => putBucket t b n
  | _ => throw stFULL

/-- Rewrite one node of a swap. The new children gain the parent edge that REF counts (R264; log entry 38). -/
def swapOne (t : Table) (v w n : Nat) : Cab Unit := do
  let r ← getRec t n
  let (f00, f01) ← varCof t r.lo w
  let (f10, f11) ← varCof t r.hi w
  let lo ← mkNode t t.size v f00 f10
  let hi ← mkNode t t.size v f01 f11
  dropBucket t n r
  let r' := { (← getRec t n) with var := w, lo := lo, hi := hi }
  putRec t n r'
  rehash t n r'
  bumpRef t lo true
  bumpRef t hi true
  bumpRef t r.lo false
  bumpRef t r.hi false

/-- Exchange levels l and l + 1 in the order table, in memory and in the engine. -/
def swapOrder (t : Table) (l v w : Nat) : Cab Unit := do
  cabWrite t.ag (t.vobase + 4 * l) 4 w
  cabWrite t.ag (t.vobase + 4 * (l + 1)) 4 v
  cabWrite t.ag (t.vobase + 4 * t.count + 4 * v) 4 (l + 1)
  cabWrite t.ag (t.vobase + 4 * t.count + 4 * w) 4 l
  modify (fun s => s.modDctx t.key (fun x => { x with
    l2v := tset (tset x.l2v l w) (l + 1) v
    v2l := tset (tset x.v2l v (l + 1)) w l }))

def swapLevel (t : Table) (l : Nat) : Cab Unit := do
  if t.count ≤ l + 1 then throw stOPERAND
  else
    let v ← varAt t l
    let w ← varAt t (l + 1)
    let r0 ← getRec t 0
    let r1 ← getRec t 1
    let ns ← swapNodes t v w (min r0.lo t.size - 2) 2
    let free ← freeCount t t.size r0.hi
    if t.limit < r1.lo + 2 * ns.length || free + (t.size - r0.lo) < 2 * ns.length then throw stFULL
    else
      swapOrder t l v w
      ns.forM (swapOne t v w)

/-- Move the variable at level l + d up to level l. -/
def moveUp (t : Table) (l : Nat) : Nat → Cab Unit
  | 0 => pure ()
  | d + 1 => do
    swapLevel t (l + d)
    moveUp t l d

def isPerm (xs : List Nat) : Bool := (List.range xs.length).all (fun i => xs.contains i)

def setOrder (t : Table) (va : Nat) : Cab Unit := do
  let target ← (List.range t.count).mapM (fun i => cabRead t.ag (va + 4 * i) 4)
  if !isPerm target then throw stOPERAND
  else
    ((List.range t.count).zip target).forM (fun e => do
      let at_ ← levelOfVar t e.2
      moveUp t e.1 (at_ - e.1))

/-! ### Commands (R254 to R256) -/

/-- Whether a command is exclusive. -/
def DdCmd.exclusive (c : DdCmd) : Bool := c.op = 9 || c.op = 10 || c.op = 11 || 13 ≤ c.op

def DdCmd.agent (c : DdCmd) : Agent := ⟨c.ctx, some c.launch, some c.ptile, false⟩
def DdCmd.source (c : DdCmd) (die : Nat) : Source := ⟨c.agent, some c.band, 0x83000000 + die⟩

/-- A marker of an `srw` counts while its band waits for its turn (R251); one of a WRREG until that is carried out. -/
def liveCmd (s : State) (c : DdCmd) : Bool :=
  c.op ≠ 13 || (s.band c.band).wait == .turn

/-- The statistics record (R266). -/
def statRecord (t : Table) (ready : Bool) (running : Nat) (f : CabFail) : Cab Nat := do
  let top := f.sig.toNat * 2 ^ 448 + f.blk.toNat * 2 ^ 384 + f.status * 2 ^ 352 + f.cmd * 2 ^ 320 + running * 2 ^ 128
  if !ready then pure top
  else
    let r0 ← getRec t 0
    let r1 ← getRec t 1
    let free ← freeCount t t.size r0.hi
    let peak := ((← get).dctx t.key).peak
    pure (top + peak * 2 ^ 256 + free * 2 ^ 192 + r0.lo * 2 ^ 64 + r1.lo)

/-- The operands of a combining command are valid, whether or not its recursion looks at them (R252). -/
def operands (t : Table) (ns : List Nat) : Cab Unit := ns.forM (fun n => do let _ ← visit t n)

/-- What a command does, and where its result goes. RUNNING of `dd.stat` counts the commands that have started before it and not itself,
which is the model's choice (R266; log entry 71). -/
def ddWork (s : State) (die : Nat) (c : DdCmd) : Cab (Option (Nat × Nat × Nat)) := do
  let k := dctxKey die c.ctx
  let t := tableOf s k c.agent
  let x := s.dctx k
  let fuel := t.count + 2
  let needsOrder := !(c.op = 7 || c.op = 8 || c.op = 11 || c.op = 12)
  if c.op ≠ 12 && (!x.tableReady || (needsOrder && !x.orderReady)) then throw stOPERAND
  else
    match c.op with
    | 7 => refNode t (c.a.toNat % 2 ^ 40) true; pure none
    | 8 => refNode t (c.a.toNat % 2 ^ 40) false; pure none
    | 9 => swapLevel t (c.a.toNat % 2 ^ 20); pure none
    | 10 => setOrder t c.a.toNat; pure none
    | 11 => collect t; pure none
    | 12 =>
      let running := ((s.die die).cab.filter (fun d => d.ctx == c.ctx && d.status.isSome)).length
      return some (0, 64, ← statRecord t x.tableReady running (s.band c.band).cab)
    | op =>
      let blk ← cabRead c.agent c.a.toNat 32
      let a := bitsN blk 0 40
      let b := bitsN blk 64 40
      let h := bitsN blk 128 40
      match op with
      | 0 =>
        let v := bitsN blk 0 20
        if t.count ≤ v then throw stOPERAND
        else
          let l ← levelOfVar t v
          if (← levelFor t b) ≤ l || (← levelFor t h) ≤ l then throw stOPERAND
          else return some (24, 8, ← mk32 t v b h)
      | 1 => operands t [a, b]; return some (24, 8, ← appNode t c.tt fuel a b)
      | 2 => operands t [a, b, h]; return some (24, 8, ← iteNode t fuel a b h)
      | 3 => operands t [a]; checkCube t false fuel b; return some (24, 8, ← restrictNode t fuel a b)
      | 4 => operands t [a]; checkCube t true fuel b; return some (24, 8, ← existsNode t fuel a b)
      | 5 => return some (24, 8, ← countFrom t false (bitsN blk 64 64) a)
      | _ => return some (16, 16, ← countFrom t true 0 a)

/-- Enter a command into the die's queue (R255): alignment, then the signal target, then room. -/
def issueDd (s : State) (op align tt : Nat) (a t : SReg) : Out :=
  let b := s.cb
  let die := dieOf b.tile
  let v := b.s a
  if v.toNat % align ≠ 0 then trapScalar s cMISALIGNED
  else
    needOperand s (targetOk (b.s t)) (
      if 64 ≤ ((s.die die).cab.filter (fun c => c.op < 13)).length then
        .next (s.modCb (fun b => { b with wait := .space }))
      else
        let c : DdCmd := ⟨op, tt, v, b.s t, s.cur.word.setWidth 32, s.cur.band, b.wg, b.ctx, b.launch, b.ptile, none, none⟩
        .next (finishS (s.modDie die (fun d => { d with cab := d.cab ++ [c] })) id))

def execDdMk (a t : SReg) (s : State) : Out := issueDd s 0 32 0 a t
def execDdApply (a t : SReg) (tt : BitVec 4) (s : State) : Out := issueDd s 1 32 tt.toNat a t
def execDdIte (a t : SReg) (s : State) : Out := issueDd s 2 32 0 a t
def execDdRestrict (a t : SReg) (s : State) : Out := issueDd s 3 32 0 a t
def execDdExists (a t : SReg) (s : State) : Out := issueDd s 4 32 0 a t
def execDdWcount (a t : SReg) (s : State) : Out := issueDd s 5 32 0 a t
def execDdSatcount (a t : SReg) (s : State) : Out := issueDd s 6 32 0 a t
def execDdRef (a t : SReg) (s : State) : Out := issueDd s 7 1 0 a t
def execDdDeref (a t : SReg) (s : State) : Out := issueDd s 8 1 0 a t
def execDdSwap (a t : SReg) (s : State) : Out := issueDd s 9 1 0 a t
def execDdOrder (a t : SReg) (s : State) : Out := issueDd s 10 1 0 a t
def execDdGc (t : SReg) (s : State) : Out := issueDd s 11 1 0 0#6 t
def execDdStat (a t : SReg) (s : State) : Out := issueDd s 12 64 0 a t

/-! ### Steps of the device -/

/-- Whether command i of a die may start now (R255). -/
def ddMayStart (s : State) (die i : Nat) : Bool :=
  let q := (s.die die).cab
  match q[i]? with
  | none => false
  | some c =>
    let before := (q.take i).filter (fun d => d.ctx == c.ctx && liveCmd s d)
    c.status.isNone && c.op < 13 &&
      (if c.exclusive then before.isEmpty
       else before.all (fun d => d.status.isSome && !d.exclusive) &&
        decide ((q.filter (fun d => d.status.isSome && !d.exclusive)).length < 8))

/-- Before a launch first changes the Cabinet state of its context on a die, what stands there is kept for a rollback
(R268, spec/13 R286). -/
def noteDd (s : State) (l k : Nat) : State :=
  (ancestry s l).foldl (fun s l => s.modLaunch l (fun x =>
    if !x.shadowed || !x.replayable || (tget? x.ddSave k).isSome then x
    else { x with ddSave := tset x.ddSave k (s.dctx k) })) s

/-- Whether a command's accesses stall in storage that wakes: its block, and the table area (spec/13 R282). -/
def ddWakes (s : State) (die : Nat) (c : DdCmd) : Bool :=
  let t := tableOf s (dctxKey die c.ctx) c.agent
  rangeWakes s c.agent c.a.toNat 64 || rangeWakes s c.agent t.base (24 * t.size) || rangeWakes s c.agent t.vobase (8 * t.count)

/-- CABINET_START: a queued command starts (R255). -/
def cabinetStart (s : State) (die i : Nat) : State :=
  if !ddMayStart s die i then s
  else
    match (s.die die).cab[i]? with
    | none => s
    | some c =>
      if ddWakes s die c then s
      else
      let s := noteDd s c.launch (dctxKey die c.ctx)
      let (r, s') := (ddWork s die c).run.run s
      let (st, res) := match r with
        | .ok v => (0, v)
        | .error e => (e, none)
      s'.modDie die (fun d => { d with cab := d.cab.modify i (fun c => { c with status := some st, result := res }) })

/-- A failed command raises its cause in the issuing band, unless that has ended (R256). -/
def ddFail (s : State) (c : DdCmd) (st : Nat) : State :=
  if st = 0 || st = stKILLED then s
  else if (tget? s.bands c.band).isSome then
    deferCause (s.modBand c.band (fun b => { b with cab := ⟨c.target, c.a, st, c.word.toNat⟩ })) c.band
      (BitVec.ofNat 9 st) none
  else s

/-- CABINET_COMPLETE: the result is written and the command signals (R255, R256). -/
def cabinetComplete (s : State) (die i : Nat) : State :=
  match (s.die die).cab[i]? with
  | none => s
  | some c =>
    match c.status with
    | none => s
    | some st =>
      if rangeWakes s c.agent c.a.toNat 64 || targetWakes s c.agent c.target then s
      else
      let s := s.modDie die (fun d => { d with cab := d.cab.eraseIdx i })
      let (s, st) := match (if st = 0 then c.result else none) with
        | none => (s, st)
        | some (off, n, v) =>
          match engWrite s c.agent (c.a.toNat + off) (leBytes n v) (fun _ => false) with
          | (s', some x) => (s', xlStatus x)
          | (s', none) => (s', st)
      let s := if c.op = 5 && st = 0 then
          setOverflow s c.launch c.ctx (fval f64F ((c.result.map (fun r => r.2.2)).getD 0)).special
        else s
      ddFail (signal s (c.source die) c.target 1 st) c st

/-! ### The Cabinet registers (R250, R251) -/

/-- Purge a context's entries of a die's operation cache. -/
def purgeCtx (s : State) (k : Nat) : State :=
  s.modDie (k / 1024) (fun d => { d with ops := d.ops.filter (fun e => e.2.ctx != k % 1024) })

/-- The places of a range: address, first place and bytes of each piece. -/
def rangePlaces (s : State) (ag : Agent) (va n : Nat) : List (Nat × Nat × Nat) :=
  (piecesOf va n).filterMap (fun p => match xlByte s ag true p.1 with | .ok k => some (p.1, k, p.2) | _ => none)

/-- Zeros at n places from k on. -/
def zeroPlaces (s : State) (k n : Nat) : State :=
  let s := settle s
  { s with
    mem := s.mem.filter (fun c => !(decide (k ≤ c.1) && decide (c.1 < k + n)))
    poison := s.poison.filter (fun g => !(decide (k ≤ 8 * g) && decide (8 * g + codeSize (8 * g) ≤ k + n))) }

/-- Write zeros over a range whose places are given. -/
def zeroRange (s : State) (ag : Agent) (ps : List (Nat × Nat × Nat)) : State :=
  ps.foldl (fun s p => zeroPlaces (contain s ag p.1 p.2.1) p.2.1 p.2.2) s

/-- The first failing access of a range: one look at a 64 KiB unit, of which every byte meets the same check, and every byte
of a slice. -/
def rangeFault (s : State) (ag : Agent) (write : Bool) (va n : Nat) : Option Xl :=
  firstBad ((piecesOf va n).map (fun p => engCheck s ag write p.1 (if p.1 < spaceStep then min p.2 16 else p.2)))

/-- A terminal record of a fresh table. -/
def terminalRec : Nat := (NodeRec.mk true 0xFFFFF 0 2 0xFFFF).toNat

/-- What an `srw` or WRREG of a Cabinet register meets. -/
inductive DdWrite where
  | done (s : State)
  | cause (c : Cause)
  /-- an uncorrectable error was consumed, and its containment marked -/
  | lost (s : State)
  deriving Repr

def DdWrite.ofXl (s : State) (ag : Agent) : Xl → DdWrite
  | .bad c => .cause c
  | _ => .lost (pageError s ag.ctx)

/-- The cause that the value itself gives a write of each register (R250, R251). -/
def ddbaseBad (v : W64) : Option Cause := if v.toNat % 65536 ≠ 0 then some cRESERVED_NONZERO else none
def ddcapBad (v : W64) : Option Cause :=
  let logn := bitsN v.toNat 0 6
  let limit := bitsN v.toNat 8 40
  if bitsN v.toNat 6 2 ≠ 0 || bitsN v.toNat 48 16 ≠ 0 then some cRESERVED_NONZERO
  else if logn = 0 then (if limit ≠ 0 then some cDD_OPERAND else none)
  else if logn < 6 || 34 < logn || limit < 3 || 2 ^ logn < limit then some cDD_OPERAND
  else none
def vobaseBad (v : W64) : Option Cause := if v.toNat % 4 ≠ 0 then some cRESERVED_NONZERO else none
def vocountBad (v : W64) : Option Cause :=
  if bitsN v.toNat 20 44 ≠ 0 then some cRESERVED_NONZERO else if v.toNat = 0xFFFFF then some cDD_OPERAND else none

def writeDdbase (s : State) (k : Nat) (v : W64) : DdWrite :=
  .done (purgeCtx (s.modDctx k (fun x => { x with ddbase := v, tableReady := false })) k)

def writeDdcap (s : State) (k : Nat) (ag : Agent) (v : W64) : DdWrite :=
  let logn := bitsN v.toNat 0 6
  let base := (s.dctx k).ddbase.toNat
  if logn = 0 then .done (purgeCtx (s.modDctx k (fun x => { x with ddcap := v, tableReady := false, peak := 0 })) k)
  else
    let buckets := base + 16 * 2 ^ logn
    match rangeFault s ag true base 32, rangeFault s ag true buckets (8 * 2 ^ logn) with
    | some x, _ => DdWrite.ofXl s ag x
    | none, some x => DdWrite.ofXl s ag x
    | none, none =>
      let ps := rangePlaces s ag buckets (8 * 2 ^ logn)
      let s := storeBytes s ag false base (leBytes 16 terminalRec)
      let s := storeBytes s ag false (base + 16) (leBytes 16 terminalRec)
      let s := zeroRange s ag ps
      .done (purgeCtx (s.modDctx k (fun x => { x with ddcap := v, tableReady := true, peak := 2 })) k)

/-- Load the order from memory (R251). -/
def writeOrder (s : State) (k : Nat) (ag : Agent) (vobase vocount : W64) : DdWrite :=
  let n := vocount.toNat
  let set_ (s : State) (l2v v2l : Tbl Nat) (ready : Bool) : DdWrite :=
    .done (purgeCtx (s.modDctx k (fun x => { x with
      vobase := vobase, vocount := vocount, l2v := l2v, v2l := v2l, orderReady := ready })) k)
  if n = 0 then set_ s [] [] false
  else
    match rangeFault s ag false vobase.toNat (8 * n) with
    | some x => DdWrite.ofXl s ag x
    | none =>
      if engBad s ag vobase.toNat (8 * n) then
        .lost (engError s ag (accessKeys s ag false vobase.toNat (8 * n)))
      else
        let bs := engBytes s ag vobase.toNat (8 * n)
        let entry (i : Nat) : Nat := leNat 4 ((List.range 4).map (fun j => byteAt bs (4 * i + j)))
        let l2v := (List.range n).map entry
        let v2l := (List.range n).map (fun i => entry (n + i))
        if ((List.range n).zip l2v).all (fun e => v2l[e.2]? == some e.1) &&
            ((List.range n).zip v2l).all (fun e => l2v[e.2]? == some e.1) then
          set_ s ((List.range n).zip l2v) ((List.range n).zip v2l) true
        else .cause cDD_OPERAND

def writeVobase (s : State) (k : Nat) (ag : Agent) (v : W64) : DdWrite :=
  writeOrder s k ag v (s.dctx k).vocount

def writeVocount (s : State) (k : Nat) (ag : Agent) (v : W64) : DdWrite :=
  writeOrder s k ag (s.dctx k).vobase v

/-- Whether a register write that has its marker, or comes now, may go on: no command of its context that came before it is on
the die, and none runs (R251, R255). -/
def ddFree (s : State) (die ctx : Nat) (mine : DdCmd → Bool) : Bool :=
  let q := (s.die die).cab
  let before := q.take ((q.findIdx? mine).getD q.length)
  before.all (fun c => c.ctx != ctx || !liveCmd s c) && q.all (fun c => c.ctx != ctx || c.status.isNone)

/-- The marker of a band's `srw`. -/
def srwMark (band : Nat) (c : DdCmd) : Bool := c.op = 13 && c.band = band

/-- Whether a band's exclusive register write may go on. -/
def ddTurn (s : State) (die ctx band : Nat) : Bool := ddFree s die ctx (srwMark band)

/-- An `srw` of a Cabinet register: its value is checked at issue (spec/05 R91); then it waits its turn as an exclusive operation, and
writes. -/
def srwDd (s : State) (bad : Option Cause) (write : State → DdWrite) : Out :=
  let b := s.cb
  let die := dieOf b.tile
  let gone (s : State) : State := s.modDie die (fun d =>
    { d with cab := d.cab.filter (fun c => !(srwMark s.cur.band c)) })
  if let some c := bad then trapScalar (gone s) c
  else if ddTurn s die b.ctx s.cur.band then
    match write (noteDd (gone s) b.launch s.cdk) with
    | .done s' => .next (finishS s' id)
    | .lost s' => .next s'
    | .cause c => trapScalar (gone s) c
  else if (s.die die).cab.any (srwMark s.cur.band) then
    .next (s.modCb (fun b => { b with wait := .turn }))
  else
    let m : DdCmd := ⟨13, 0, 0, 0, 0, s.cur.band, b.wg, b.ctx, b.launch, b.ptile, none, none⟩
    .next ((s.modDie die (fun d => { d with cab := d.cab ++ [m] })).modCb (fun b => { b with wait := .turn }))

def execSrwDdbase (s : State) : Out := srwDd s (ddbaseBad (s.cb.s s.cur.x.src)) (fun st => writeDdbase st st.cdk (s.cb.s s.cur.x.src))
def execSrwDdcap (s : State) : Out := srwDd s (ddcapBad (s.cb.s s.cur.x.src)) (fun st => writeDdcap st st.cdk st.cb.agent (s.cb.s s.cur.x.src))
def execSrwVobase (s : State) : Out := srwDd s (vobaseBad (s.cb.s s.cur.x.src)) (fun st => writeVobase st st.cdk st.cb.agent (s.cb.s s.cur.x.src))
def execSrwVocount (s : State) : Out := srwDd s (vocountBad (s.cb.s s.cur.x.src)) (fun st => writeVocount st st.cdk st.cb.agent (s.cb.s s.cur.x.src))

/-- Containment discards a context's or a workgroup's commands: each completes KILLED, and a marker goes (R268). `started`:
whether those that have started are discarded too. -/
def killCabinet (s : State) (started : Bool) (p : DdCmd → Bool) : State :=
  let hit (c : DdCmd) : Bool := p c && (started || c.status.isNone)
  let gone := s.dies.flatMap (fun e => ((e.2.cab.filter hit).filter (fun c => c.op < 13)).map (fun c => (e.1, c)))
  let s := { s with dies := s.dies.map (fun e => (e.1, { e.2 with cab := e.2.cab.filter (fun c => !hit c) })) }
  gone.foldl (fun s g => signal s (g.2.source g.1) g.2.target 1 stKILLED) s

end Sys2Proof.Machine
end

