-- ==== Sys2Proof/Machine/Approx.lean ====
section
/-!
DEFINITION. The approximated functions (spec/07 R151). Each is one mapping of bits to bits; where the rule states no
exact result, the mapping is a free value held to the rule's error bound: the exact value is computed to
about 2^-250, and a free result outside the bound is replaced by the correctly rounded one (log entry 11).
-/
namespace Sys2Proof.Machine

/-- The fraction bits of the fixed-point numbers below. -/
def fxBits : Nat := 400
def fxOne : Int := 2 ^ fxBits

/-- π and ln 2 in fixed point, rounded down. -/
def fxPi : Int :=
  0x3243f6a8885a308d313198a2e03707344a4093822299f31d0082efa98ec4e6c89452821e638d01377be5466cf34e90c6cc0ac
def fxLn2 : Int :=
  0xb17217f7d1cf79abc9e3b39803f2f6af40f343267298b62d8a0d175b8baafa2be7b876206debac98559552fb4afa1b10ed2e

def fxMul (a b : Int) : Int := a * b / fxOne
def fxDiv (a b : Int) : Int := if b = 0 then 0 else a * fxOne / b

/-- The sum of n terms: each is the one before it by `f k`. -/
def fxSeries (f : Nat → Int → Int) : Nat → Nat → Int → Int
  | 0, _, _ => 0
  | n + 1, k, t => t + fxSeries f n (k + 1) (f k t)

/-- A finite f32 value in fixed point; exact, since its last bit stands at 2^-149. -/
def fxOf (m : Nat) (e : Int) : Int :=
  if 0 ≤ e + (fxBits : Int) then (m * 2 ^ (e + (fxBits : Int)).toNat : Nat) else (m / 2 ^ (-(e + (fxBits : Int))).toNat : Nat)

/-- e^r for r in [0, 1). -/
def fxExpSmall (r : Int) : Int := fxSeries (fun k t => fxMul t r / ((k : Int) + 1)) 70 0 fxOne

/-- e^x for |x| below 2^9; a smaller x gives 0. -/
def fxExp (x : Int) : Int :=
  if x < -(300 * fxOne) then 0
  else
    let k := x / fxLn2
    let r := fxExpSmall (x - k * fxLn2)
    if 0 ≤ k then r * 2 ^ k.toNat else r / 2 ^ (-k).toNat

/-- ln of m × 2^e. -/
def fxLn (m : Nat) (e : Int) : Int :=
  let k := log2N m
  let y : Int := if k ≤ fxBits then (m * 2 ^ (fxBits - k) : Nat) else (m / 2 ^ (k - fxBits) : Nat)
  let z := fxDiv (y - fxOne) (y + fxOne)
  let zz := fxMul z z
  let s := fxSeries (fun j t => fxMul t zz * (2 * (j : Int) + 1) / (2 * (j : Int) + 3)) 120 0 z
  2 * s + (e + (k : Int)) * fxLn2

/-- ⌊√n⌋ of a number of at most 2 × n bits. -/
def isqrtBits (bits n : Nat) : Nat :=
  (List.range bits).reverse.foldl (fun r i => if (r + 2 ^ i) * (r + 2 ^ i) ≤ n then r + 2 ^ i else r) 0

/-- 1 ÷ √(m × 2^e) in fixed point. -/
def fxRsqrt (m : Nat) (e : Int) : Int :=
  let odd : Nat := if e % 2 = 0 then 0 else 1
  -- 2^-e ÷ m = 2^(2 h - odd) ÷ m
  let h := (-e + (odd : Int)) / 2
  let q := 2 ^ (2 * fxBits) / (m * 2 ^ odd)
  let r : Int := (isqrtBits (fxBits + 1) q : Nat)
  if 0 ≤ h then r * 2 ^ h.toNat else r / 2 ^ (-h).toNat

/-- sin and cos of x in fixed point, for any x that f32 holds. -/
def fxReduce (x : Int) : Int :=
  let r := x % (2 * fxPi)
  if fxPi < r then r - 2 * fxPi else r
def fxSin (x : Int) : Int :=
  let r := fxReduce x
  let rr := fxMul r r
  fxSeries (fun k t => -(fxMul t rr) / ((2 * (k : Int) + 2) * (2 * (k : Int) + 3))) 50 0 r
def fxCos (x : Int) : Int :=
  let r := fxReduce x
  let rr := fxMul r r
  fxSeries (fun k t => -(fxMul t rr) / ((2 * (k : Int) + 1) * (2 * (k : Int) + 2))) 50 0 fxOne

/-- A value that is less than 1, however close it comes. -/
def fxBelowOne (v : Int) : Int := min (fxOne - 1) v

/-- The exact value in fixed point at the finite argument ± m × 2^e, where R151 states no exact result. -/
def fxFn (fn : Config.Approx) (neg : Bool) (m : Nat) (e : Int) : Int :=
  let x := if neg then -(fxOf m e) else fxOf m e
  match fn with
  | .exp => fxExp x
  | .exp2 => fxExp (fxMul x fxLn2)
  | .log => fxLn m e
  | .log2 => fxDiv (fxLn m e) fxLn2
  | .tanh =>
    if 100 * fxOne < fxOf m e then fxBelowOne fxOne
    else let t := fxExp (-2 * fxOf m e); fxBelowOne (fxDiv (fxOne - t) (fxOne + t))
  | .sig =>
    if 300 * fxOne < x then fxBelowOne fxOne
    else if neg then let t := fxExp x; fxDiv t (fxOne + t)
    else fxBelowOne (fxDiv fxOne (fxOne + fxExp (-x)))
  | .rsqrt => fxRsqrt m e
  | .sin => fxSin x
  | .cos => fxCos x

/-- One ulp of a value in fixed point: 2^(e - 23), e the exponent and no less than -126 (R151). -/
def fxUlp (v : Int) : Int :=
  let e : Int := (log2N v.natAbs : Int) - fxBits
  2 ^ ((max e (-126)) - 23 + fxBits).toNat

/-- The largest error of each function. -/
def fxBound (fn : Config.Approx) (v : Int) : Int :=
  match fn with
  | .exp | .exp2 | .log | .log2 | .rsqrt => fxUlp v
  | .tanh | .sig => 2 * fxUlp v
  | .sin | .cos => max (2 * fxUlp v) (2 ^ (fxBits - 24))

/-- Whether f32 bits r are within the bound of v. A function that is never negative gives no negative sign. -/
def fxWithin (fn : Config.Approx) (v : Int) (r : Nat) : Bool :=
  let signOk := match fn with
    | .exp | .exp2 | .tanh | .sig | .rsqrt => !r.testBit 31
    | _ => true
  match fval ⟨8, 23⟩ r with
  | .fin neg m e =>
    let x := if neg then -(fxOf m e) else fxOf m e
    signOk && decide (x - v ≤ fxBound fn v) && decide (v - x ≤ fxBound fn v)
  | _ => false

/-- A fixed-point value as an exact number. -/
def fxVal (v : Int) : FVal := .fin (decide (v < 0)) v.natAbs (-(fxBits : Int))

/-- The result at a finite argument without a stated exact result. -/
def approxAt (fn : Config.Approx) (x : Nat) (neg : Bool) (m : Nat) (e : Int) : Nat :=
  let v := fxFn fn neg m e
  let r := (Config.approx fn (w32 x)).toNat
  if fxWithin fn v r then r else fround ⟨8, 23⟩ .rne (fxVal v)

def f32Nan : Nat := 0x7FC00000
def f32One : Nat := 0x3F800000
def f32Inf (neg : Bool) : Nat := if neg then 0xFF800000 else 0x7F800000

/-- Whether ± m × 2^e is an integer, and which. -/
def dyadicInt (neg : Bool) (m : Nat) (e : Int) : Option Int :=
  let n : Option Nat :=
    if 0 ≤ e then some (m * 2 ^ e.toNat)
    else if m % 2 ^ (-e).toNat = 0 then some (m / 2 ^ (-e).toNat) else none
  n.map (fun n => if neg then -(n : Int) else (n : Int))

/-- The exponent k when m × 2^e is 2^k. -/
def dyadicPow (m : Nat) (e : Int) : Option Int :=
  if m = 2 ^ log2N m then some (e + (log2N m : Int)) else none

/-- 2^k as f32 bits. -/
def f32Pow (k : Int) : Nat := fround ⟨8, 23⟩ .rne (.fin false 1 k)

/-- x > n ÷ d for x = m × 2^e. -/
def dyadicAbove (m : Nat) (e : Int) (n d : Nat) : Bool := decide (fxOf (n) 0 < (d : Int) * fxOf m e)

/-- The f32 function of R151. -/
def approxF32 (fn : Config.Approx) (x : Nat) : Nat :=
  match fn, fval ⟨8, 23⟩ x with
  | _, .nan => f32Nan
  | .exp, .inf neg | .exp2, .inf neg => if neg then 0 else f32Inf false
  | .log, .inf neg | .log2, .inf neg => if neg then f32Nan else f32Inf false
  | .tanh, .inf neg => if neg then 0xBF800000 else f32One
  | .sig, .inf neg => if neg then 0 else f32One
  | .rsqrt, .inf neg => if neg then f32Nan else 0
  | .sin, .inf _ | .cos, .inf _ => f32Nan
  | .exp, .fin neg m e =>
    if m = 0 then f32One
    else if !neg && dyadicAbove m e 8872284 100000 then f32Inf false
    else approxAt .exp x neg m e
  | .exp2, .fin neg m e =>
    match dyadicInt neg m e with
    | some k =>
      if 128 ≤ k then f32Inf false else if -149 ≤ k then f32Pow k else approxAt .exp2 x neg m e
    | none => if !neg && dyadicAbove m e 128 1 then f32Inf false else approxAt .exp2 x neg m e
  | .log, .fin neg m e =>
    if m = 0 then f32Inf true else if neg then f32Nan
    else if dyadicPow m e = some 0 then 0 else approxAt .log x neg m e
  | .log2, .fin neg m e =>
    if m = 0 then f32Inf true else if neg then f32Nan
    else
      match dyadicPow m e with
      | some k => fround ⟨8, 23⟩ .rne (ofIntV k)
      | none => approxAt .log2 x neg m e
  | .tanh, .fin neg m e =>
    if m = 0 then x % 2 ^ 32
    else (approxAt .tanh (x % 2 ^ 31) false m e) + (if neg then 2 ^ 31 else 0)
  | .sig, .fin neg m e => if m = 0 then 0x3F000000 else approxAt .sig x neg m e
  | .rsqrt, .fin neg m e =>
    if m = 0 then f32Inf neg else if neg then f32Nan
    else
      match dyadicPow m e with
      | some k => if k % 2 = 0 then f32Pow (-(k / 2)) else approxAt .rsqrt x neg m e
      | none => approxAt .rsqrt x neg m e
  | .sin, .fin neg m e => if m = 0 then x % 2 ^ 32 else approxAt .sin x neg m e
  | .cos, .fin neg m e => if m = 0 then f32One else approxAt .cos x neg m e

/-- The function at a type: f16 and bf16 are widened, and the f32 result rounded to nearest even (R151). -/
def approxB (ty : Ty) (fn : Config.Approx) (x : Nat) : Nat :=
  let wide := fround ⟨8, 23⟩ .rne (fval (fmtOf ty) x)
  fround (fmtOf ty) .rne (fval ⟨8, 23⟩ (approxF32 fn wide))

end Sys2Proof.Machine
end

