-- ==== Sys2Proof/Machine/LaneInt.lean ====
section
/-!
DEFINITION. Lane integer, logic, bit-field, compare and move instructions (spec/07 R140 to R146).
-/
namespace Sys2Proof.Machine

/-- The last source of a two-source instruction: a register or an immediate (R137). -/
inductive Last where
  | src (x : Src)
  | imm (x : W32)
  deriving DecidableEq, Repr

def State.rdLast (s : State) (ty : Ty) (x : Last) (lane : Nat) : Nat :=
  match x with
  | .src v => s.rd ty v lane
  | .imm i => immAt ty i

/-- A last source that is read as n32 whatever the type (R141, R144). -/
def State.rdAmount (s : State) (x : Last) (lane : Nat) : Nat :=
  match x with
  | .src v => s.rdN32 v lane
  | .imm i => i.toNat

/-- The latencies of the rows (R139). -/
def lat24 (ty : Ty) : Latency := latOf ty (.fixed 2) (.fixed 4)
def lat4V (ty : Ty) : Latency := latOf ty (.fixed 4) .variable

/-- The two-source mould (R140): an exact result of the two values, modulo 2^w. -/
def mould2 (s : State) (ty : Ty) (d : VReg) (a : Src) (b : Last) (lat : Latency) (f : Int → Int → Int) : Out :=
  laneWrite s ty d lat (fun l => ofInt (tyBits ty) (f (intOf ty (s.rd ty a l)) (intOf ty (s.rdLast ty b l))))

/-- The same on bit patterns. -/
def mouldBits (s : State) (ty : Ty) (d : VReg) (a : Src) (b : Last) (f : Nat → Nat → Nat) : Out :=
  laneWrite s ty d (lat24 ty) (fun l => f (s.rd ty a l) (s.rdLast ty b l) % 2 ^ tyBits ty)

/-- The range of an integer type. -/
def tyMin (ty : Ty) : Int := if ty.signed then -((2 ^ (tyBits ty - 1) : Nat) : Int) else 0
def tyMax (ty : Ty) : Int :=
  if ty.signed then ((2 ^ (tyBits ty - 1) : Nat) : Int) - 1 else ((2 ^ tyBits ty : Nat) : Int) - 1

def clampTy (ty : Ty) (x : Int) : Int := max (tyMin ty) (min (tyMax ty) x)

def execLaneAdd (o : Bin) (s : State) : Out := mould2 s o.ty o.d o.a (.src o.b) (lat24 o.ty) (· + ·)
def execLaneAddImm (o : BinI) (s : State) : Out := mould2 s o.ty o.d o.a (.imm o.imm) (lat24 o.ty) (· + ·)
def execLaneSub (o : Bin) (s : State) : Out := mould2 s o.ty o.d o.a (.src o.b) (lat24 o.ty) (· - ·)
def execLaneSubImm (o : BinI) (s : State) : Out := mould2 s o.ty o.d o.a (.imm o.imm) (lat24 o.ty) (· - ·)
def execLaneMul (o : Bin) (s : State) : Out := mould2 s o.ty o.d o.a (.src o.b) (lat4V o.ty) (· * ·)
def execLaneMulImm (o : BinI) (s : State) : Out := mould2 s o.ty o.d o.a (.imm o.imm) (lat4V o.ty) (· * ·)

/-- ⌊a × b ÷ 2^w⌋ (R140). -/
def mulHigh (ty : Ty) (a b : Int) : Int := a * b / ((2 ^ tyBits ty : Nat) : Int)
def execMulhi (o : Bin) (s : State) : Out := mould2 s o.ty o.d o.a (.src o.b) (lat4V o.ty) (mulHigh o.ty)
def execMulhiImm (o : BinI) (s : State) : Out :=
  mould2 s o.ty o.d o.a (.imm o.imm) (lat4V o.ty) (mulHigh o.ty)

/-- mad (R140). -/
def execMad (o : Tri) (s : State) : Out :=
  laneWrite s o.ty o.d (lat4V o.ty) (fun l =>
    (s.rd o.ty o.a l * s.rd o.ty o.b l + s.rd o.ty o.c l) % 2 ^ tyBits o.ty)

def execAddsat (o : Bin) (s : State) : Out :=
  mould2 s o.ty o.d o.a (.src o.b) (lat24 o.ty) (fun a b => clampTy o.ty (a + b))
def execAddsatImm (o : BinI) (s : State) : Out :=
  mould2 s o.ty o.d o.a (.imm o.imm) (lat24 o.ty) (fun a b => clampTy o.ty (a + b))
def execSubsat (o : Bin) (s : State) : Out :=
  mould2 s o.ty o.d o.a (.src o.b) (lat24 o.ty) (fun a b => clampTy o.ty (a - b))
def execSubsatImm (o : BinI) (s : State) : Out :=
  mould2 s o.ty o.d o.a (.imm o.imm) (lat24 o.ty) (fun a b => clampTy o.ty (a - b))

def execLaneAnd (o : Bin) (s : State) : Out := mouldBits s o.ty o.d o.a (.src o.b) (· &&& ·)
def execLaneAndImm (o : BinI) (s : State) : Out := mouldBits s o.ty o.d o.a (.imm o.imm) (· &&& ·)
def execLaneOr (o : Bin) (s : State) : Out := mouldBits s o.ty o.d o.a (.src o.b) (· ||| ·)
def execLaneOrImm (o : BinI) (s : State) : Out := mouldBits s o.ty o.d o.a (.imm o.imm) (· ||| ·)
def execLaneXor (o : Bin) (s : State) : Out := mouldBits s o.ty o.d o.a (.src o.b) (· ^^^ ·)
def execLaneXorImm (o : BinI) (s : State) : Out := mouldBits s o.ty o.d o.a (.imm o.imm) (· ^^^ ·)

/-- a AND NOT b on w-bit patterns (R140). -/
def andNot (ty : Ty) (a b : Nat) : Nat := a &&& (2 ^ tyBits ty - 1 - b % 2 ^ tyBits ty)
def execAndn (o : Bin) (s : State) : Out := mouldBits s o.ty o.d o.a (.src o.b) (andNot o.ty)
def execAndnImm (o : BinI) (s : State) : Out := mouldBits s o.ty o.d o.a (.imm o.imm) (andNot o.ty)

/-- Shifts with an amount that is never masked (R141). -/
def shlTy (ty : Ty) (a n : Nat) : Nat := if n < tyBits ty then a * 2 ^ n % 2 ^ tyBits ty else 0
def shrTy (ty : Ty) (a n : Nat) : Nat := ofInt (tyBits ty) (intOf ty a / ((2 ^ min n (tyBits ty) : Nat) : Int))

def laneShift (s : State) (ty : Ty) (d : VReg) (a : Src) (n : Last) (f : Ty → Nat → Nat → Nat) : Out :=
  laneWrite s ty d (lat24 ty) (fun l => f ty (s.rd ty a l) (s.rdAmount n l))
def execLaneShl (o : Bin) (s : State) : Out := laneShift s o.ty o.d o.a (.src o.b) shlTy
def execLaneShlImm (o : BinI) (s : State) : Out := laneShift s o.ty o.d o.a (.imm o.imm) shlTy
def execLaneShr (o : Bin) (s : State) : Out := laneShift s o.ty o.d o.a (.src o.b) shrTy
def execLaneShrImm (o : BinI) (s : State) : Out := laneShift s o.ty o.d o.a (.imm o.imm) shrTy

def execLaneMin (o : Bin) (s : State) : Out := mould2 s o.ty o.d o.a (.src o.b) (lat24 o.ty) min
def execLaneMinImm (o : BinI) (s : State) : Out := mould2 s o.ty o.d o.a (.imm o.imm) (lat24 o.ty) min
def execLaneMax (o : Bin) (s : State) : Out := mould2 s o.ty o.d o.a (.src o.b) (lat24 o.ty) max
def execLaneMaxImm (o : BinI) (s : State) : Out := mould2 s o.ty o.d o.a (.imm o.imm) (lat24 o.ty) max

/-- Division truncating toward zero; by zero the quotient is 0 and the remainder the dividend (R142). -/
def quotTy (a b : Int) : Int := if b = 0 then 0 else a.tdiv b
def remTy (a b : Int) : Int := if b = 0 then a else a.tmod b
def execDiv (o : Bin) (s : State) : Out := mould2 s o.ty o.d o.a (.src o.b) .variable quotTy
def execDivImm (o : BinI) (s : State) : Out := mould2 s o.ty o.d o.a (.imm o.imm) .variable quotTy
def execLaneRem (o : Bin) (s : State) : Out := mould2 s o.ty o.d o.a (.src o.b) .variable remTy
def execLaneRemImm (o : BinI) (s : State) : Out := mould2 s o.ty o.d o.a (.imm o.imm) .variable remTy

/-- The one-source mould on w-bit patterns (R143). -/
def mould1 (s : State) (o : Un) (f : Nat → Nat) : Out :=
  laneWrite s o.ty o.d (lat24 o.ty) (fun l => f (s.rd o.ty o.a l) % 2 ^ tyBits o.ty)

def execAbs (o : Un) (s : State) : Out := mould1 s o (fun x => (intOf o.ty x).natAbs)
def execNeg (o : Un) (s : State) : Out := mould1 s o (fun x => ofInt (tyBits o.ty) (-(intOf o.ty x)))
def execLanePopc (o : Un) (s : State) : Out := mould1 s o (popN (tyBits o.ty))
def execLaneClz (o : Un) (s : State) : Out := mould1 s o (clzN (tyBits o.ty))
def execCtz (o : Un) (s : State) : Out := mould1 s o (ctzN (tyBits o.ty))
def execBrev (o : Un) (s : State) : Out := mould1 s o (brevN (tyBits o.ty))

/-- The position and effective width of a lane field descriptor (R144). -/
def lanePos (d : Nat) : Nat := bitsN d 0 5
def laneLen (d : Nat) : Nat :=
  let w := bitsN d 8 6
  min (if w = 0 || 32 < w then 32 else w) (32 - lanePos d)

def bfeTy (ty : Ty) (x d : Nat) : Nat :=
  let f := bitsN x (lanePos d) (laneLen d)
  if ty == .i32 then sextN (laneLen d) 32 f else f
def laneBfe (s : State) (ty : Ty) (d : VReg) (a : Src) (n : Last) : Out :=
  laneWrite s ty d (.fixed 2) (fun l => bfeTy ty (s.rd ty a l) (s.rdAmount n l))
def execBfe (o : Bin) (s : State) : Out := laneBfe s o.ty o.d o.a (.src o.b)
def execBfeImm (o : BinI) (s : State) : Out := laneBfe s o.ty o.d o.a (.imm o.imm)

/-- bfi reads vd as well as writing it (R144). -/
def laneBfi (s : State) (ty : Ty) (d : VReg) (a : Src) (n : Last) : Out :=
  laneWrite s ty d (.fixed 2) (fun l =>
    insN (s.rd ty (.v d) l) (s.rd ty a l) (lanePos (s.rdAmount n l)) (laneLen (s.rdAmount n l)))
def execBfi (o : Bin) (s : State) : Out := laneBfi s o.ty o.d o.a (.src o.b)
def execBfiImm (o : BinI) (s : State) : Out := laneBfi s o.ty o.d o.a (.imm o.imm)

/-- sel: of f32 it passes on the tangents of the operand selected (R145, spec/11 R234, R235). -/
def execSel (o : SelOp) (s : State) : Out :=
  let b := s.cb
  let p := s.pread b o.p.toNat
  let first (l : Nat) : Bool := p.getLsbD l != o.np
  laneWriteT s o.ty o.d (lat24 o.ty) (fun l => s.rd o.ty (if first l then o.a else o.b) l)
    (fun l j => if o.ty == .f32 then w32 (s.tanOf (if first l then o.a else o.b) l j) else 0)

/-- mov (R145). -/
def execMov (o : Un) (s : State) : Out :=
  laneWriteT s o.ty o.d (lat24 o.ty) (fun l => s.rd o.ty o.a l)
    (fun l j => if o.ty == .f32 then w32 (s.tanOf o.a l j) else 0)
def execMovImm (o : ImmD) (s : State) : Out := laneWrite s o.ty o.d (lat24 o.ty) (fun _ => immAt o.ty o.imm)

/-- icmp (R146). -/
def latP (ty : Ty) : Nat := if ty.wide then 4 else 2
def execIcmp (o : CmpOp) (s : State) : Out :=
  laneWriteP s o.p (latP o.ty) (fun l => intCond o.cond (intOf o.ty (s.rd o.ty o.a l)) (intOf o.ty (s.rd o.ty o.b l)))
def execIcmpImm (o : CmpI) (s : State) : Out :=
  laneWriteP s o.p (latP o.ty) (fun l => intCond o.cond (intOf o.ty (s.rd o.ty o.a l)) (intOf o.ty (immAt o.ty o.imm)))

/-- lidx (R145). -/
def execLidx (d : VReg) (s : State) : Out := laneWrite s .n32 d (.fixed 2) (fun l => l)

end Sys2Proof.Machine
end

