-- ==== Sys2Proof/Machine/LaneFp.lean ====
section
/-!
DEFINITION. Lane floating-point instructions (spec/07 R147 to R151) with the tangents that they carry in a
relaxation body (spec/11 R235).
-/
namespace Sys2Proof.Machine

/-- The latencies of the rows (R139). -/
def latF4 (ty : Ty) : Latency := latOf ty (.fixed 4) .variable

/-- f32 operations of the tangent rules, rounded to nearest even whatever the instruction's rm. -/
def f32F : Fmt := ⟨8, 23⟩
def tAdd (a b : Nat) : Nat := faddB f32F .rne a b
def tSub (a b : Nat) : Nat := fsubB f32F .rne a b
def tMul (a b : Nat) : Nat := fmulB f32F .rne a b
def tDiv (a b : Nat) : Nat := fdivB f32F .rne a b
def tFma (a b c : Nat) : Nat := ffmaB f32F .rne a b c
def tNeg (a : Nat) : Nat := fnegB f32F a

/-- Tangent j of a last source: an immediate has none. -/
def State.tanLast (s : State) (x : Last) (lane j : Nat) : Nat :=
  match x with
  | .src v => s.tanOf v lane j
  | .imm _ => 0

/-- A two-source instruction of the rounding mould: its result, and its tangent from the operand values, their
tangents and the result. -/
def fmould (s : State) (ty : Ty) (d : VReg) (a : Src) (b : Last) (lat : Latency) (f : Nat → Nat → Nat)
    (t : Nat → Nat → Nat → Nat → Nat → Nat) : Out :=
  laneWriteF s ty d lat (fun l => f (s.rd ty a l) (s.rdLast ty b l)) (fun l j =>
    let x := s.rd ty a l
    let y := s.rdLast ty b l
    w32 (t x y (f x y) (s.tanOf a l j) (s.tanLast b l j)))

def doFadd (s : State) (ty : Ty) (rm : Rm) (d : VReg) (a : Src) (b : Last) : Out :=
  fmould s ty d a b (latF4 ty) (faddB (fmtOf ty) rm) (fun _ _ _ da db => tAdd da db)
def doFsub (s : State) (ty : Ty) (rm : Rm) (d : VReg) (a : Src) (b : Last) : Out :=
  fmould s ty d a b (latF4 ty) (fsubB (fmtOf ty) rm) (fun _ _ _ da db => tSub da db)
def doFmul (s : State) (ty : Ty) (rm : Rm) (d : VReg) (a : Src) (b : Last) : Out :=
  fmould s ty d a b (latF4 ty) (fmulB (fmtOf ty) rm) (fun x y _ da db => tFma x db (tMul da y))
def doFdiv (s : State) (ty : Ty) (rm : Rm) (d : VReg) (a : Src) (b : Last) : Out :=
  fmould s ty d a b .variable (fdivB (fmtOf ty) rm) (fun _ y v da db => tDiv (tFma (tNeg v) db da) y)

def execFadd (o : BinR) (s : State) : Out := doFadd s o.ty o.rm o.d o.a (.src o.b)
def execFaddImm (o : BinRI) (s : State) : Out := doFadd s o.ty o.rm o.d o.a (.imm o.imm)
def execFsub (o : BinR) (s : State) : Out := doFsub s o.ty o.rm o.d o.a (.src o.b)
def execFsubImm (o : BinRI) (s : State) : Out := doFsub s o.ty o.rm o.d o.a (.imm o.imm)
def execFmul (o : BinR) (s : State) : Out := doFmul s o.ty o.rm o.d o.a (.src o.b)
def execFmulImm (o : BinRI) (s : State) : Out := doFmul s o.ty o.rm o.d o.a (.imm o.imm)
def execFdiv (o : BinR) (s : State) : Out := doFdiv s o.ty o.rm o.d o.a (.src o.b)
def execFdivImm (o : BinRI) (s : State) : Out := doFdiv s o.ty o.rm o.d o.a (.imm o.imm)

/-- ffma: one rounding (R147). -/
def execFfma (o : TriR) (s : State) : Out :=
  let ty := o.ty
  laneWriteF s ty o.d (latF4 ty) (fun l => ffmaB (fmtOf ty) o.rm (s.rd ty o.a l) (s.rd ty o.b l) (s.rd ty o.c l))
    (fun l j => w32 (tFma (s.rd ty o.a l) (s.tanOf o.b l j)
      (tFma (s.tanOf o.a l j) (s.rd ty o.b l) (s.tanOf o.c l j))))

/-- A one-source floating instruction: its result, and its tangent from the operand, the result and the
operand's tangent. -/
def fmould1 (s : State) (ty : Ty) (d : VReg) (a : Src) (lat : Latency) (f : Nat → Nat)
    (t : Nat → Nat → Nat → Nat) : Out :=
  laneWriteF s ty d lat (fun l => f (s.rd ty a l)) (fun l j =>
    w32 (t (s.rd ty a l) (f (s.rd ty a l)) (s.tanOf a l j)))


def execFsqrt (o : UnR) (s : State) : Out :=
  fmould1 s o.ty o.d o.a .variable (fsqrtB (fmtOf o.ty) o.rm) (fun _ v da =>
    fround f32F .rne (fdivV (fval f32F da) (fmulV (.fin false 2 0) (fval f32F v))))
def execFrnd (o : UnR) (s : State) : Out :=
  fmould1 s o.ty o.d o.a (latF4 o.ty) (frndB (fmtOf o.ty) o.rm) (fun _ _ _ => 0)

/-- fmax and fmin (R148): the tangent is that of the operand selected, the canonical NaN for two NaNs. -/
def doFmax (s : State) (max : Bool) (ty : Ty) (d : VReg) (a : Src) (b : Last) : Out :=
  let f := fmtOf ty
  fmould s ty d a b (latOf ty (.fixed 2) (.fixed 4)) (fmaxB f max) (fun x y _ da db =>
    if (fval f x).isNan && (fval f y).isNan then f32F.nan
    else if picksFirst f max x y then da else db)
def execFmax (o : Bin) (s : State) : Out := doFmax s true o.ty o.d o.a (.src o.b)
def execFmaxImm (o : BinI) (s : State) : Out := doFmax s true o.ty o.d o.a (.imm o.imm)
def execFmin (o : Bin) (s : State) : Out := doFmax s false o.ty o.d o.a (.src o.b)
def execFminImm (o : BinI) (s : State) : Out := doFmax s false o.ty o.d o.a (.imm o.imm)

/-- fabs and fneg are bit operations (R149). -/
def execFabs (o : Un) (s : State) : Out :=
  laneWrite s o.ty o.d (lat24 o.ty) (fun l => fabsB (fmtOf o.ty) (s.rd o.ty o.a l))
def execFneg (o : Un) (s : State) : Out :=
  laneWrite s o.ty o.d (lat24 o.ty) (fun l => fnegB (fmtOf o.ty) (s.rd o.ty o.a l))

/-- fcmp (R150). -/
def execFcmp (o : CmpOp) (s : State) : Out :=
  laneWriteP s o.p (latP o.ty) (fun l => fcondB (fmtOf o.ty) o.cond (s.rd o.ty o.a l) (s.rd o.ty o.b l))
def execFcmpImm (o : CmpI) (s : State) : Out :=
  laneWriteP s o.p (latP o.ty) (fun l => fcondB (fmtOf o.ty) o.cond (s.rd o.ty o.a l) (immAt o.ty o.imm))

/-- An approximated function (R151). -/
def doApprox (fn : Config.Approx) (s : State) (o : Un) (t : Nat → Nat → Nat → Nat) : Out :=
  fmould1 s o.ty o.d o.a .variable (approxB o.ty fn) t

def execFexp (o : Un) (s : State) : Out := doApprox .exp s o (fun _ v da => tMul v da)
def execFexp2 (o : Un) (s : State) : Out := doApprox .exp2 s o (fun _ _ _ => 0)
def execFlog (o : Un) (s : State) : Out := doApprox .log s o (fun x _ da => tDiv da x)
def execFlog2 (o : Un) (s : State) : Out := doApprox .log2 s o (fun _ _ _ => 0)
def execFtanh (o : Un) (s : State) : Out :=
  doApprox .tanh s o (fun _ v da => tMul (tFma (tNeg v) v f32One) da)
def execFsig (o : Un) (s : State) : Out :=
  doApprox .sig s o (fun _ v da => tMul (tMul v (tSub f32One v)) da)
def execFrsqrt (o : Un) (s : State) : Out := doApprox .rsqrt s o (fun _ _ _ => 0)
def execFsin (o : Un) (s : State) : Out := doApprox .sin s o (fun _ _ _ => 0)
def execFcos (o : Un) (s : State) : Out := doApprox .cos s o (fun _ _ _ => 0)

end Sys2Proof.Machine
end

