-- ==== Sys2Proof/Machine/ScalarSys.lean ====
section
/-!
DEFINITION. Special registers: srr, srw and the srw rows of the budget counter and of the registers held per die and
context (spec/06 R128, R129, spec/15 R303 to R308; the Cabinet's four stand in Cabinet.lean).
-/
namespace Sys2Proof.Machine

/-- CAP_ATOM (spec/04 R75). -/
def capAtom : Nat := 0x3356

/-- CAP_DEV (R308). -/
def capDev (s : State) (ctx : Nat) : Nat :=
  let c := s.ctx ctx
  96 + 2 * 2 ^ 8 + 8 * 2 ^ 16 + 8 * 2 ^ 24 + ctx / 16 % 64 * 2 ^ 32 + c.spare0.toNat * 2 ^ 40 + c.spare1.toNat * 2 ^ 41

/-- The lanes that recorded a cause at the last trap (spec/13 R275). -/
def Band.causeMask (b : Band) : Mask :=
  maskWhere (BitVec.allOnes 128) (fun l => (tget? b.causes l).any (fun c => c != 0))

/-- The value of a special register (R303, R304). -/
def State.sysReg (s : State) (b : Band) (n : Nat) : Nat :=
  let c := s.ctx b.ctx
  let d := s.dctx (dctxKey (dieOf b.tile) b.ctx)
  match n with
  | 0x000 => b.kparam.toNat
  | 0x001 => b.scrbase.toNat
  | 0x002 => b.privbase.toNat
  | 0x003 => b.wgidx.toNat
  | 0x004 => b.no
  | 0x005 => b.lanes
  | 0x006 => b.budget
  | 0x007 => b.tile
  | 0x008 => s.cycleOf b
  | 0x010 => b.jto.toNat
  | 0x011 => b.stallchk.toNat
  | 0x012 => b.sig.toNat
  | 0x013 => b.budleft.toNat
  | 0x014 => b.ycstat.toNat
  | 0x015 => b.mxRetired.toNat + b.mxStatus.toNat * 2 ^ 48
  | 0x018 => b.tvec.toNat
  | 0x019 => b.trapcause.toNat
  | 0x01A => b.trappc.toNat
  | 0x01B => bitsN b.causeMask.toNat 0 64
  | 0x01C => bitsN b.causeMask.toNat 64 64
  | 0x01D => bitsN b.dead.toNat 0 64
  | 0x01E => bitsN b.dead.toNat 64 64
  | 0x020 => b.rxout.toNat
  | 0x021 => b.rxpass.toNat
  | 0x022 => b.rxres.toNat
  | 0x023 => b.rxpre.toNat
  | 0x024 => b.rxseq.toNat
  | 0x040 => d.ddbase.toNat
  | 0x041 => d.ddcap.toNat
  | 0x042 => d.vobase.toNat
  | 0x043 => d.vocount.toNat
  | 0x044 => d.specdepth
  | 0x045 => d.bfqthr
  | 0x046 => d.bfqmax
  | 0x060 => c.contain.toNat
  | 0x061 => c.wdlim.toNat
  | 0x062 => c.extlim.toNat
  | 0x063 => c.lscale.toNat
  | 0x064 => c.lsn.toNat
  | 0x065 => c.lscnt.toNat
  | 0x066 => c.lsovf.toNat
  | 0x067 => (s.vif (b.ctx / 16)).gpatUse
  | 0x080 => capAtom
  | 0x081 => capDev s b.ctx
  | _ => 0

/-- srr (R128). -/
def execSrr (d : SReg) (n : BitVec 14) (s : State) : Out := writeS s d (w64 (s.sysReg s.cb n.toNat))

/-- A register value whose reserved bits must be 0 (R128). -/
def srwChecked (s : State) (n : Nat) (reserved : Bool) (f : Band → Band) : Out :=
  if reserved then trapScalar s cRESERVED_NONZERO
  else .next (finishS s (fun b => { f b with errBand := b.errBut (.special n) }))

/-- srw (R128): JTO, STALLCHK, TVEC and RXSEQ; every other number of this row is read-only. -/
def execSrw (n : BitVec 14) (a : SReg) (s : State) : Out :=
  let v := s.cb.s a
  match n.toNat with
  | 0x010 => srwChecked s 0x010 (v.toNat / 2 ^ 32 != 0) (fun b => { b with jto := w32 v.toNat })
  | 0x011 => srwChecked s 0x011 (v.toNat / 2 != 0) (fun b => { b with stallchk := v.getLsbD 0 })
  | 0x018 =>
    noHandler s (srwChecked s 0x018 (v.toNat / 2 ^ 52 != 0 || v.toNat % 4 != 0) (fun b => { b with tvec := v }))
  | 0x024 => srwChecked s 0x024 (v.toNat / 2 ^ 32 != 0) (fun b => { b with rxseq := v })
  | _ => trapScalar s cILLEGAL_ENCODING

/-- srw BUDLEFT (R129). -/
def execSrwBudleft (s : State) : Out :=
  let v := s.cb.s s.cur.x.src
  needHandler s (srwChecked s 0x013 (v.toNat / 2 ^ 32 != 0) (fun b => { b with budleft := w32 v.toNat }))

/-- A write of a register of the band's context on its die, with its range (R305). -/
def srwDie (s : State) (bits : Nat) (ok : Nat → Bool) (bad : Cause) (f : Nat → State → State) : Out :=
  let v := (s.cb.s s.cur.x.src).toNat
  if v / 2 ^ bits != 0 then trapScalar s cRESERVED_NONZERO
  else if !ok v then trapScalar s bad
  else .next (finishS (f v s) id)

def execSrwSpecdepth (s : State) : Out :=
  srwDie s 8 (fun v => decide (1 ≤ v) && decide (v ≤ 128)) cRLX_CONFIG
    (fun v st => st.modDctx st.cdk (fun d => { d with specdepth := v }))

/-- BFQTHR; requests already waiting are judged against the new value (R305). -/
def execSrwBfqthr (s : State) : Out :=
  srwDie s 13 (fun v => decide (1 ≤ v) && decide (v ≤ 4096) && decide (v ≤ (s.dctx s.cdk).bfqmax)) cENG_OPERAND
    (fun v st => formDue (st.modDctx st.cdk (fun d => { d with bfqthr := v })) st.cdk)

def execSrwBfqmax (s : State) : Out :=
  srwDie s 13 (fun v => decide (1 ≤ v) && decide (v ≤ 4096) && decide ((s.dctx s.cdk).bfqthr ≤ v)) cENG_OPERAND
    (fun v st => formDue (st.modDctx st.cdk (fun d => { d with bfqmax := v })) st.cdk)

end Sys2Proof.Machine
end

