-- ==== Sys2Proof/Machine/Matrix.lean ====
section
/-!
DEFINITION. The quad matrix engine (spec/09 R181 to R206, spec/03 R65 to R67), deferred barrier arrivals (spec/10 R217)
and stride patterns (spec/10 R224), with the device's steps that belong to them.
-/
namespace Sys2Proof.Machine

/-! ### Quads and accumulator tiles (R181, R183) -/

def State.quad (s : State) (q : Nat) : Quad := tget Quad.init s.quads q
def State.modQuad (s : State) (q : Nat) (f : Quad → Quad) : State := { s with quads := tupd Quad.init s.quads q f }

/-- The physical quad of a physical tile; the array of a tile is its place there. -/
def quadOf (ptile : Nat) : Nat := ptile / 4
def State.cq (s : State) : Nat := quadOf s.cb.ptile

/-- The key of an element of an accumulator tile. -/
def accKey (n i j : Nat) : Nat := n * 16384 + i * 128 + j

def Quad.elem (q : Quad) (n i j : Nat) : W32 := tget 0 q.acc (accKey n i j)

/-- Every element of a tile becomes +0. -/
def Quad.clear (q : Quad) (n : Nat) : Quad :=
  { q with acc := q.acc.filter (fun e => e.1 / 16384 != n), bad := q.bad.filter (fun k => k / 16384 != n) }

/-- Write an element, with valid codes. -/
def Quad.put (q : Quad) (k : Nat) (x : W32) : Quad := { q with acc := tput 0 q.acc k x, bad := q.bad.filter (· != k) }

/-- The tiles of a mask. -/
def tilesOf (m : W64) : List Nat := (List.range 64).filter (fun n => m.getLsbD n)

/-- The mask of tiles. -/
def tileMask (ns : List Nat) : W64 := ns.foldl (fun m n => m ||| BitVec.ofNat 64 (2 ^ n)) 0

/-- The resident workgroup that holds a tile of a quad. -/
def accHolder (s : State) (q n : Nat) : Option Nat :=
  (s.wgs.find? (fun e => quadOf e.2.ptile == q && e.2.saved.isNone && e.2.acc.getLsbD n)).map (·.1)

/-- The tiles that the present band's workgroup holds. -/
def State.heldAcc (s : State) : W64 := match tget? s.wgs s.cb.wg with | some w => w.acc | none => 0

/-! ### Allocation (R184 to R186) -/

/-- The count for an array in a count word. -/
def accCount (w : W64) (a : Nat) : Nat := bitsN w.toNat (8 * a) 5

def countOk (w : W64) : Bool :=
  w &&& ~~~0x1F1F1F1F#64 == 0 && w != 0 && [0, 1, 2, 3].all (fun a => accCount w a ≤ 16)

/-- The free tiles of an array; those of a cordoned tile's array are lost (R204). -/
def freeTiles (s : State) (q a : Nat) : List Nat :=
  if (s.tile (q * 4 + a)).cordoned then []
  else ((List.range 16).map (fun i => 16 * a + i)).filter (fun n => (accHolder s q n).isNone)

/-- The tiles a request would get, when it can be granted whole. -/
def accGrant (s : State) (q : Nat) (w : W64) : Option (List Nat) :=
  if [0, 1, 2, 3].all (fun a => accCount w a ≤ (freeTiles s q a).length) then
    some ([0, 1, 2, 3].flatMap (fun a => (freeTiles s q a).take (accCount w a)))
  else none

/-- Tiles pass to a workgroup, and read +0. -/
def takeTiles (s : State) (q wg : Nat) (ns : List Nat) : State :=
  let s := ns.foldl (fun s n => wakeStores s (q * 4 + n / 16) [.acc (n % 16)]) s
  (s.modQuad q (fun x => ns.foldl Quad.clear x)).modWg wg (fun w => { w with acc := w.acc ||| tileMask ns })

/-- The waiting requests of a quad, oldest first: band, destination, count word, age. -/
def accWaiting (s : State) (q : Nat) : List (Nat × SReg × W64 × Nat) :=
  let all := s.bands.filterMap (fun e =>
    match e.2.wait with
    | .acc d w n => if quadOf e.2.ptile = q && e.2.resident then some (e.1, d, w, n) else none
    | _ => none)
  all.mergeSort (fun x y => decide (x.2.2.2 ≤ y.2.2.2))

/-- Whether a waiting request of a quad can be granted now. -/
def olderFits (s : State) (q : Nat) : Bool :=
  (accWaiting s q).any (fun r => (accGrant s q r.2.2.1).isSome && s.awake r.1)

/-- acc.alloc (R184): it waits where its request cannot be granted whole, or where an older request that fits comes first. -/
def execAccAlloc (d a : SReg) (s : State) : Out :=
  let b := s.cb
  let w := b.s a
  if !countOk w then trapScalar s cMX_OPERAND
  else
    match (if olderFits s s.cq then none else accGrant s s.cq w) with
    | some ns => laterS (takeTiles s s.cq b.wg ns) d (tileMask ns)
    | none =>
      .next (s.modCb (fun b => { b with wait := .acc d w s.nonce, waitWord := s.cur.word.setWidth 32 }))

/-- ACC_ALLOC_GRANT: the waiting requests are considered oldest first (R184). -/
def accAllocGrant (s : State) (q : Nat) : State :=
  (accWaiting s q).foldl (fun s r =>
    match accGrant s q r.2.2.1 with
    | some ns =>
      if s.awake r.1 then
        endWait (takeTiles s q (s.band r.1).wg ns) r.1 (fun x => x.setS r.2.1 (tileMask ns))
      else s
    | none => s) s

/-- The arrays in which a request exceeds the free count. -/
def shortArrays (s : State) (q : Nat) (w : W64) : List Nat :=
  [0, 1, 2, 3].filter (fun a => (freeTiles s q a).length < accCount w a)

/-- The waiting requests that a request waits for: those whose workgroup holds tiles where it is short (R186). -/
def accEdges (s : State) (q : Nat) (r : Nat × SReg × W64 × Nat) (all : List (Nat × SReg × W64 × Nat)) : List Nat :=
  let hs := (shortArrays s q r.2.2.1).flatMap (fun a =>
    ((List.range 16).filterMap (fun i => accHolder s q (16 * a + i))))
  (all.filter (fun x => x.1 != r.1 && hs.contains (s.band x.1).wg)).map (·.1)

/-- The bands reachable from some, in at most n rounds. -/
def reachFrom (edges : List (Nat × List Nat)) : Nat → List Nat → List Nat
  | 0, xs => xs
  | n + 1, xs =>
    reachFrom edges n (xs ++ ((edges.filter (fun e => xs.contains e.1)).flatMap (·.2)).filter (fun y => !xs.contains y))

/-- ACC_DEADLOCK: the youngest request of a cycle of waiting requests is withdrawn and traps (R186). -/
def accDeadlock (s : State) (q : Nat) : State :=
  let all := accWaiting s q
  let edges := all.map (fun r => (r.1, accEdges s q r all))
  let n := all.length
  let inCycle (b : Nat) : Bool :=
    (reachFrom edges n (((edges.find? (fun e => e.1 == b)).map (·.2)).getD [])).contains b
  match (all.filter (fun r => inCycle r.1)).getLast? with
  | none => s
  | some r =>
    let x := s.band r.1
    let l := lowest x.live
    takeTrap s r.1 ⟨[(l, cACC_DEADLOCK)], l, cACC_DEADLOCK, false, false, false, 0, x.pc, 0, 0, 4, .plain⟩

/-- acc.held (R185). -/
def execAccHeld (d : SReg) (s : State) : Out := writeS s d s.heldAcc

/-- Whether an entry of the quad names a tile of a mask. -/
def tilesBusy (s : State) (q : Nat) (m : W64) : Bool :=
  (s.quad q).table.any (fun e => e.tiles.any (fun n => m.getLsbD n))

/-- Tiles are released. -/
def dropTiles (s : State) (wg : Nat) (m : W64) : State := s.modWg wg (fun w => { w with acc := w.acc &&& ~~~m })

/-- acc.free (R185). -/
def execAccFree (a : SReg) (s : State) : Out :=
  let m := s.cb.s a
  if m &&& ~~~s.heldAcc != 0 then trapScalar s cACC_NOTHELD
  else if tilesBusy s s.cq m then
    .next (s.modCb (fun b => { b with wait := .accFree m, waitWord := s.cur.word.setWidth 32 }))
  else .next (finishS (dropTiles s s.cb.wg m) id)

/-- ACC_FREE_RELEASE: the entries that name the tiles have retired (R185). -/
def accFreeRelease (s : State) (b : Nat) : State :=
  let x := s.band b
  match x.wait with
  | .accFree m => if tilesBusy s (quadOf x.ptile) m then s else endWait (dropTiles s x.wg m) b id
  | _ => s

/-! ### Records (R187 to R189) -/

def recBase (r : Nat) : Nat := bitsN r 0 64
def recLd (r : Nat) : Nat := bitsN r 96 32
def recRows (r : Nat) : Nat := bitsN r 128 16
def recCols (r : Nat) : Nat := bitsN r 144 16
def recGpat (r : Nat) : Nat := bitsN r 160 4
def recOrder (r : Nat) : Bool := r.testBit 164

/-- A record is valid (R187); `gather`: it may have ORDER = 1. -/
def recOk (gather : Bool) (r : Nat) : Bool :=
  r / 2 ^ 165 == 0 && recRows r != 0 && recCols r != 0 && recBase r % 64 == 0 &&
    (if recOrder r then gather && recRows r ≤ recLd r else recGpat r == 0 && recCols r ≤ recLd r)

/-- Resolve a record (R188): the cached copy, or memory; what it holds and the state after, or what the read met. -/
def resolveRec (s : State) (addr : Nat) : Except Xl Nat × State :=
  let b := s.cb
  let put (s : State) (rest : List CachedRec) (x : CachedRec) : State :=
    s.modQuad s.cq (fun q => { q with records := (x :: rest).take 64 })
  let rs := (s.quad s.cq).records
  let other := rs.filter (fun x => !(x.ctx == b.ctx && x.addr == addr))
  match rs.find? (fun x => x.ctx == b.ctx && x.addr == addr) with
  | some x => (.ok x.data, put s other x)
  | none =>
    if addr % 64 ≠ 0 then (.error (.bad cMISALIGNED), s)
    else
      match engCheck s b.agent false addr 192 with
      | .ok _ =>
        let data := leNat 192 (engBytes s b.agent addr 192)
        (.ok data, put (tlbFill s b.agent addr) other ⟨b.ctx, addr, data⟩)
      | x => (.error x, s)

/-- Whether a record that the cache lacks lies in poisoned memory. -/
def recPoison (s : State) (addr : Nat) : List Nat :=
  let b := s.cb
  if (s.quad s.cq).records.any (fun x => x.ctx == b.ctx && x.addr == addr) then []
  else
    let ks := accessKeys s b.agent false addr 192
    if anyPoison s ks then ks else []

/-- Resolve the records of a posting instruction, in order, and go on with them. Memory causes are recorded in every
lane of A; of two records' causes the one that ranks higher (R192, spec/13 R270). -/
def withRecs (s : State) (addrs : List Nat) (k : State → List Nat → Out) : Out :=
  let bads := addrs.filterMap (fun a => match (resolveRec s a).1 with | .error x => some x | .ok _ => none)
  match bads with
  | [] =>
    let pk := addrs.flatMap (recPoison s)
    if !pk.isEmpty then .next (memError s s.cb.launch pk)
    else
      let s' := addrs.foldl (fun s a => (resolveRec s a).2) s
      k s' (addrs.map (fun a => match (resolveRec s a).1 with | .ok r => r | .error _ => 0))
  | x :: xs =>
    match xs.foldl Xl.join x with
    | .bad c => trapActive s c
    | _ => .next (pageError s s.cb.ctx)

/-- rfence (R189): every earlier access has been performed in this model (log entry 5). -/
def dropRecs (s : State) (qs : Option Nat) (p : CachedRec → Bool) : State :=
  { s with quads := s.quads.map (fun e =>
    if qs.isNone || qs == some e.1 then (e.1, { e.2 with records := e.2.records.filter (fun x => !p x) }) else e) }

def execRfenceQdAddr (a : SReg) (s : State) : Out :=
  .next (finishS (dropRecs s (some s.cq) (fun x => x.ctx == s.cb.ctx && x.addr == (s.cb.s a).toNat)) id)
def execRfenceQd (s : State) : Out := .next (finishS (dropRecs s (some s.cq) (fun x => x.ctx == s.cb.ctx)) id)
def execRfenceDvAddr (a : SReg) (s : State) : Out :=
  .next (finishS (dropRecs s none (fun x => x.ctx == s.cb.ctx && x.addr == (s.cb.s a).toNat)) id)
def execRfenceDv (s : State) : Out := .next (finishS (dropRecs s none (fun x => x.ctx == s.cb.ctx)) id)

/-! ### The operation word (R190) -/

def opCt (w : W64) : Nat := bitsN w.toNat 0 6
def opAtile (w : W64) : Nat := bitsN w.toNat 6 6
def opClr (w : W64) : Bool := w.getLsbD 12
def opAsrc (w : W64) : Bool := w.getLsbD 13
def opM (w : W64) : Nat := bitsN w.toNat 14 7 + 1
def opN (w : W64) : Nat := bitsN w.toNat 21 7 + 1
def opRow (w : W64) : Nat := bitsN w.toNat 32 8 * 128
def opCol (w : W64) : Nat := bitsN w.toNat 40 8 * 128
def opKorg (w : W64) : Nat := bitsN w.toNat 48 8 * 128
def opK (w : W64) : Nat := (bitsN w.toNat 56 8 + 1) * 128

/-- The follower array of a paired operation, kinds 1 and 2 (R191). -/
def followArray (kind a : Nat) : Option Nat :=
  match kind with
  | 1 => some (a ^^^ 1)
  | 2 => some (a ^^^ 2)
  | _ => none

/-- The arrays and the result tiles of a matrix operation. -/
def mmaArrays (kind : Nat) (w : W64) : List Nat := opCt w / 16 :: (followArray kind (opCt w / 16)).toList
def mmaTiles (kind : Nat) (w : W64) : List Nat := (mmaArrays kind w).map (fun a => a * 16 + opCt w % 16)

/-- The rules of an operation word for mma and its pairs. -/
def mmaWordOk (kind : Nat) (w : W64) : Bool :=
  bitsN w.toNat 28 4 == 0 &&
    (if opAsrc w then
      opRow w == 0 && opKorg w == 0 && opK w == 128 && opAtile w / 16 == opCt w / 16 &&
        !(mmaTiles kind w).contains (opAtile w)
     else opAtile w == 0)

/-- The rules for acc.out: it uses CT, MM1, NM1, ROWBLK and COLBLK alone (R199). -/
def outWordOk (w : W64) : Bool :=
  bitsN w.toNat 28 4 == 0 && opAtile w == 0 && !opClr w && !opAsrc w && bitsN w.toNat 48 16 == 0

/-! ### Elements (R187, R193, R194) -/

def MxEntry.agent (e : MxEntry) : Agent := ⟨e.ctx, some e.launch, some e.ptile, false⟩

/-- The floating type of a kind. -/
def kindFmt (kind : Nat) : Fmt := fmtOf (if kind = 0 then .f32 else if kind = 1 then .bf16 else .f16)

/-- Whether an element lies in its view, and its index. -/
def inView (r row col : Nat) : Bool := decide (row < recRows r) && decide (col < recCols r)
def elemIndex (r row col : Nat) : Nat := if recOrder r then col * recLd r + row else row * recLd r + col

/-- The elements of the tensor that a record describes. -/
def recElems (r : Nat) : Nat := (if recOrder r then recCols r else recRows r) * recLd r

/-- The pieces of memory that `planes` planes of an element take, or a floating element: address, bytes. -/
def elemPieces (f : Format) (planes r row col : Nat) : List (Nat × Nat) :=
  let e := elemIndex r row col
  match f.kind with
  | 0 => [((recBase r + 4 * e) % 2 ^ 64, 4)]
  | 3 => (List.range planes).map (fun j => ((recBase r + j * planeBytes (recElems r) + e / 8) % 2 ^ 64, 1))
  | _ => [((recBase r + 2 * e) % 2 ^ 64, 2)]

/-- An element as its bits, or as the integer of the planes read (spec/03 R60). -/
def readElem (s : State) (ag : Agent) (f : Format) (r row col : Nat) : Int :=
  let raw (p : Nat × Nat) : Nat := leNat p.2 (engBytes s ag p.1 p.2)
  match f.kind with
  | 3 =>
    let e := elemIndex r row col
    planeInt f.signed f.pread ((elemPieces f f.pread r row col).foldl (fun acc p =>
      2 * acc + ((raw p).testBit (e % 8)).toNat) 0)
  | _ => (((elemPieces f 0 r row col).map raw).headD 0 : Nat)

/-- The down-converter (R194): bits, or the stored integer I. -/
def downConvert (f : Format) (rm : Rm) (x : W32) : Int :=
  let v := fval (fmtOf .f32) x.toNat
  match f.kind with
  | 0 => (x.toNat : Int)
  | 3 => f.toPlane rm v
  | k => (fround (kindFmt k) rm v : Nat)

/-- An element that the down-converter feeds to an array, read with PREAD planes. -/
def feedElem (f : Format) (rm : Rm) (x : W32) : Int :=
  if f.kind = 3 then downConvert f rm x / ((2 ^ (f.pstore - f.pread) : Nat) : Int) else downConvert f rm x

/-! ### Errors in accumulators (spec/13 R281) -/

/-- The elements with an uncorrectable error among some that are read. -/
def accBad (s : State) (q : Nat) (ks : List Nat) : List Nat := ks.filter (fun k => (s.quad q).bad.contains k)

/-- Their use ends the workgroups that hold their tiles; a tile that none holds is scrubbed. -/
def accError (s : State) (q : Nat) (ks : List Nat) : State :=
  ((ks.map (· / 16384)).eraseDups).foldl (fun s n =>
    match accHolder s q n with
    | some w => wgError s w
    | none => s.modQuad q (fun x => x.clear n)) s

/-! ### One pass (R193, spec/03 R65 to R67) -/

/-- How a pass ends early: the status, its cause, the places of an error it consumed, and a bad page entry. -/
structure MxFail where
  status : Nat
  cause : Cause
  keys : List Nat
  page : Bool
  deriving DecidableEq, Repr

/-- What a piece of memory that a pass reads gives. `gather`: read by the transpose-gather unit (R195). -/
def pieceFail (s : State) (ag : Agent) (gather : Bool) (p : Nat × Nat) : Option MxFail :=
  match engCheck s ag false p.1 p.2 with
  | .bad c => some ⟨0x10, c, [], false⟩
  | .poisoned => some ⟨0x20, 0, [], true⟩
  | .ok _ =>
    let ks := accessKeys s ag false p.1 p.2
    if gather && ks.any (fun k => typeOf k != .hbm) then some ⟨2, cGATHER_FAULT, [], false⟩
    else if anyPoison s ks then
      (if gather then some ⟨3, cGATHER_FAULT, [], false⟩ else some ⟨0x20, 0, ks, false⟩)
    else none

/-- The k steps of a pass, from 0. -/
def passSteps (w : W64) (q : Nat) : List Nat := (List.range 4096).filterMap (fun i =>
  if 4096 * q + i < opK w then some (4096 * q + i) else none)

/-- Whether a stride-pattern entry matches a record (spec/10 R224). -/
def patternFits (s : State) (ctx : Nat) (f : Format) (r : Nat) : Bool :=
  match gpatEntry s (ctx / 16) (recGpat r) with
  | none => false
  | some i =>
    let w := (gpatWord s ctx i).toNat
    let size := if f.kind = 0 then 4 else if f.kind = 3 then 1 else 2
    let code := if f.kind = 0 then 2 else if f.kind = 3 then 0 else 1
    w != 0 && bitsN w 0 32 == recLd r * size && bitsN w 32 2 == code

/-- The first fault of a pass (R195, R200): A before B, each in ascending rows and steps (log entry 39). -/
def passFail (s : State) (e : MxEntry) : Option MxFail :=
  let w := e.op
  let fa := Format.ofNat e.fa.toNat
  let fb := Format.ofNat e.fb.toNat
  let ks := passSteps w e.pass
  let a := if opAsrc w then none else
    ((List.range (opM w)).flatMap (fun i => ks.flatMap (fun k =>
      if inView e.ra (opRow w + i) (opKorg w + k) then elemPieces fa fa.pread e.ra (opRow w + i) (opKorg w + k) else []))
      ).findSome? (pieceFail s e.agent false)
  match a with
  | some x => some x
  | none =>
    if recOrder e.rb && !e.fits then some ⟨1, cGATHER_FAULT, [], false⟩
    else
      (ks.flatMap (fun k => (List.range ((mmaArrays e.kind w).length * 128)).flatMap (fun j =>
        if j % 128 < opN w && inView e.rb (opKorg w + k) (opCol w + j) then
          elemPieces fb fb.pread e.rb (opKorg w + k) (opCol w + j) else []))).findSome?
        (pieceFail s e.agent (recOrder e.rb))

/-- Element a(i, k), none outside its view. -/
def elemA (s : State) (q : Nat) (e : MxEntry) (i k : Nat) : Option Int :=
  let w := e.op
  let f := Format.ofNat e.fa.toNat
  if opAsrc w then some (feedElem f e.rm ((s.quad q).elem (opAtile w) i k))
  else if inView e.ra (opRow w + i) (opKorg w + k) then
    some (readElem s e.agent f e.ra (opRow w + i) (opKorg w + k))
  else none

/-- Element b(k, c) at column j of half h, none outside its view. -/
def elemB (s : State) (e : MxEntry) (h k j : Nat) : Option Int :=
  let w := e.op
  let c := opCol w + 128 * h + j
  if inView e.rb (opKorg w + k) c then
    some (readElem s e.agent (Format.ofNat e.fb.toNat) e.rb (opKorg w + k) c)
  else none

/-- An exact sum of exact products (spec/03 R66). -/
def exactSum (f : Fmt) : List (Int × Int) → FVal
  | [] => .fin true 0 0
  | (a, b) :: rest => faddV .rne (fmulV (fval f a.toNat) (fval f b.toNat)) (exactSum f rest)

/-- An accumulator element after the terms of a pass, given with their k (spec/03 R65 to R67). -/
def combine (fa fb : Format) (old : Nat) (terms : List (Nat × Int × Int)) : Nat :=
  let f32 := fmtOf .f32
  match fa.kind with
  | 0 => terms.foldl (fun acc t => ffmaB f32 .rne t.2.1.toNat t.2.2.toNat acc) old
  | 3 =>
    if terms.isEmpty then old
    else
      let sum := (terms.map (fun t => t.2.1 * t.2.2)).sum
      let exact := fmulV (ofIntV (sum * ((2 ^ (fa.pstore - fa.pread + (fb.pstore - fb.pread)) : Nat) : Int)))
        (fmulV fa.scaleV fb.scaleV)
      faddB f32 .rne old (fround f32 .rne exact)
  | k =>
    (List.range 128).foldl (fun acc g =>
      let ts := terms.filter (fun t => t.1 % 4096 / 32 == g)
      if ts.isEmpty then acc
      else faddB f32 .rne acc (fround f32 .rne (exactSum (kindFmt k) (ts.map (·.2))))) old

/-- The elements that a pass writes: key, value (R193). -/
def passWrites (s : State) (q : Nat) (e : MxEntry) : List (Nat × W32) :=
  let w := e.op
  let fa := Format.ofNat e.fa.toNat
  let fb := Format.ofNat e.fb.toNat
  let ks := passSteps w e.pass
  (List.range (mmaTiles e.kind w).length).flatMap (fun h =>
    let n := ((mmaTiles e.kind w)[h]?).getD 0
    (List.range (opM w)).flatMap (fun i => (List.range (opN w)).filterMap (fun j =>
      let terms := ks.filterMap (fun k =>
        match elemA s q e i k, elemB s e h k j with
        | some a, some b => some (k, a, b)
        | _, _ => none)
      if terms.isEmpty then none
      else some (accKey n i j, w32 (combine fa fb ((s.quad q).elem n i j).toNat terms)))))

/-- The elements that a pass reads: those that it writes, and those of A's tile. -/
def passReads (e : MxEntry) (ws : List (Nat × W32)) : List Nat :=
  ws.map (·.1) ++ (if opAsrc e.op then
    (List.range (opM e.op)).flatMap (fun i => (passSteps e.op e.pass).map (accKey (opAtile e.op) i)) else [])

/-- Write elements; a ±Inf or NaN counts for the overflow flag (spec/03 R71). -/
def putElems (s : State) (q : Nat) (e : MxEntry) (ws : List (Nat × W32)) : State :=
  let s := s.modQuad q (fun x => ws.foldl (fun x w => x.put w.1 w.2) x)
  setOverflow s e.launch e.ctx (ws.any (fun w => (fval (fmtOf .f32) w.2.toNat).special))

/-! ### acc.out (R199) -/

/-- The elements that acc.out writes: row, column, pieces of memory, value. -/
def outElems (s : State) (q : Nat) (e : MxEntry) : List (Nat × List (Nat × Nat) × Int) :=
  let w := e.op
  let f := Format.ofNat e.fa.toNat
  (List.range (opM w)).flatMap (fun i => (List.range (opN w)).filterMap (fun j =>
    let row := opRow w + i
    let col := opCol w + j
    if inView e.ra row col then
      some (elemIndex e.ra row col, elemPieces f f.pstore e.ra row col,
        downConvert f e.rm ((s.quad q).elem (opCt w) i j))
    else none))

/-- Write bytes, but for those whose place cannot be written and those in the granules that `skip` names. -/
def storeSome (s : State) (ag : Agent) (skip : Nat → Bool) (va : Nat) (bs : List Byte) : State :=
  let ks := ((xlBytes s ag true va bs.length).zip bs).filterMap (fun e =>
    match e.1 with
    | .ok k => if skip (granOf k) then none else some (k, e.2)
    | _ => none)
  storeAt (tlbFill s ag va) ag false va (ks.map (·.1)) (ks.map (·.2))

/-- Write one element: its bytes, or its bit in the byte of each plane, which the write queue merges: the page need not be
readable (R199). -/
def writeElem (s : State) (ag : Agent) (skip : Nat → Bool) (f : Format) (x : Nat × List (Nat × Nat) × Int) : State :=
  if f.kind = 3 then
    ((List.range f.pstore).zip x.2.1).foldl (fun s e =>
      let va := e.2.1
      let old := ((accessKeys s ag true va 1).map s.peek).headD 0
      let bit := (ofInt f.pstore x.2.2).testBit (f.pstore - 1 - e.1)
      let m := BitVec.ofNat 8 (2 ^ (x.1 % 8))
      storeSome s ag skip va [if bit then old ||| m else old &&& ~~~m]) s
  else x.2.1.foldl (fun s p => storeSome s ag skip p.1 (leBytes p.2 x.2.2.toNat)) s

/-- The whole write-out; at a fault, which of the other granules were written is open (spec/04 R75; log entry 14). -/
def outWork (s : State) (q : Nat) (e : MxEntry) : State × Option MxFail :=
  let f := Format.ofNat e.fa.toNat
  let xs := outElems s q e
  let check (x : Nat × List (Nat × Nat) × Int) : Option MxFail :=
    x.2.1.findSome? (fun p => match engCheck s e.agent true p.1 p.2 with
      | .bad c => some ⟨0x10, c, [], false⟩
      | .poisoned => some ⟨0x20, 0, [], true⟩
      | .ok _ => none)
  let fault := xs.findSome? check
  let skip (g : Nat) : Bool := fault.isSome && Config.freeChoice (s.freeIx (2 ^ 51 + g / 8)) % 2 == 1
  let whole (x : Nat × List (Nat × Nat) × Int) : Bool := x.2.1.all (fun p =>
    (xlBytes s e.agent true p.1 p.2).all (fun y => match y with | .ok k => !skip (granOf k) | _ => false))
  let special := f.kind != 3 && xs.any (fun x => (fval (kindFmt f.kind) x.2.2.toNat).special && whole x)
  let s' := xs.foldl (fun st x => writeElem st e.agent skip f x) s
  (setOverflow s' e.launch e.ctx special, fault)

/-! ### Retirement (R200, R202, spec/10 R217) -/

/-- Count the finished operations of a band in posting order; a status that traps becomes a deferred cause. -/
def countOne (s : State) (b : Nat) : State :=
  let x := s.band b
  match tget? x.mxDone x.mxRetired.toNat with
  | none => s
  | some m =>
    let s := s.modBand b (fun x => { x with
      mxDone := tdel x.mxDone x.mxRetired.toNat
      mxRetired := x.mxRetired + 1
      mxStatus := if x.mxStatus = 0 then BitVec.ofNat 16 m.status else x.mxStatus
      mxBad := if m.status = 0 then x.mxBad else x.mxBad ++ [x.mxRetired.toNat] })
    if m.cause = 0 then s else deferCause s b m.cause (some m.lane)

/-- An entry leaves the table, and its band and the deferred arrivals take its status. -/
def retireEntry (s : State) (q : Nat) (e : MxEntry) (status : Nat) (cause : Cause) : State :=
  let s := s.modQuad q (fun x => { x with table := x.table.filter (fun y => y.id != e.id) })
  if e.kind = 3 || e.kind = 4 then s
  else
    let s := { s with arrivals := s.arrivals.map (fun (a : MxArrival) =>
      if a.band = e.band && a.need.contains e.seq then
        { a with need := a.need.filter (· != e.seq), bad := a.bad || status != 0 } else a) }
    let s := s.modBand e.band (fun x => { x with mxDone := tset x.mxDone e.seq ⟨status, cause, e.lane⟩ })
    (List.range (s.band e.band).mxDone.length).foldl (fun s _ => countOne s e.band) s

/-! ### acc.ld and acc.st (R198) -/

def selTile (w : W64) : Nat := bitsN w.toNat 0 6

/-- The element of a lane: (r, l), or (l, r) with COL = 1; r is bits [12:6]. -/
def selElem (w : W64) (l : Nat) : Nat :=
  let r := bitsN w.toNat 6 7
  if w.getLsbD 13 then accKey (selTile w) l r else accKey (selTile w) r l

/-- The value that acc.ld delivers. -/
def accValue (ty : Ty) (rm : Rm) (x : W32) : W32 :=
  match ty with
  | .f32 => x
  | _ => w32 (fround (fmtOf ty) rm (fval (fmtOf .f32) x.toNat))

/-- The data of an acc.ld or acc.st moves. An acc.ld writes no lane that keeps an earlier value (spec/05 R107). -/
def accMove (s : State) (q : Nat) (e : MxEntry) : State :=
  if e.kind = 3 then
    let ws := e.vals.map (fun v => (v.2, vkey e.d v.1, accValue e.ty e.rm (tget 0 (s.quad q).acc (selElem e.op v.1))))
    let s := accError s q (accBad s q (e.vals.map (fun v => selElem e.op v.1)))
    let special := e.ty != .f32 && ws.any (fun w => (fval (fmtOf e.ty) w.2.2.toNat).special)
    (setOverflow s e.launch e.ctx special).modBand e.band (fun b =>
      ws.foldl (fun b w => if w.1 = 0 then b.putReg w.2.1 w.2.2 else b) b)
  else s.modQuad q (fun x => e.vals.foldl (fun x v => x.put (selElem e.op v.1) v.2) x)

/-! ### The arbiter (R197) -/

/-- Waiting entries in the order of the walk. -/
def walkOrder (t : List MxEntry) : List MxEntry :=
  [7, 6, 5, 4, 3, 2, 1, 0].flatMap (fun c => t.filter (fun e => !e.running && e.cls == c))

/-- Whether an older entry still in the table names one of an entry's tiles. -/
def tileHeldUp (t : List MxEntry) (e : MxEntry) : Bool :=
  (t.takeWhile (fun y => y.id != e.id)).any (fun y => y.tiles.any (fun n => e.tiles.contains n))

/-- Whether one of an entry's tiles still wakes (spec/16 R311). -/
def tileWaking (s : State) (q : Nat) (e : MxEntry) : Bool :=
  e.tiles.any (fun n => s.isWaking (q * 4 + n / 16) (.acc (n % 16)))

/-- One step of the walk: the entry is granted, or claims its arrays. -/
def walkStep (q : Nat) (acc : State × List Nat) (e : MxEntry) : State × List Nat :=
  let s := acc.1
  let t := (s.quad q).table
  let busy := (t.filter (·.running)).flatMap (·.arrays)
  if e.arrays.any (fun a => busy.contains a || acc.2.contains a) || tileHeldUp t e || tileWaking s q e then (s, acc.2 ++ e.arrays)
  else if e.kind = 3 || e.kind = 4 then (retireEntry (accMove s q e) q e 0 0, acc.2)
  else
    let gather := decide (e.kind ≤ 2) && recOrder e.rb
    let run (x : Quad) : Quad := { x with table := x.table.map (fun y => if y.id = e.id then { y with
      running := true
      pat := if gather then gpatEntry s (e.ctx / 16) (recGpat e.rb) else none
      fits := gather && patternFits s e.ctx (Format.ofNat e.fb.toNat) e.rb } else y) }
    let s := if e.kind ≤ 2 && e.pass = 0 && opClr e.op then
        s.modQuad q (fun x => (mmaTiles e.kind e.op).foldl Quad.clear x) else s
    (s.modQuad q run, acc.2)

/-- The walk, again while entries that move at once retire. -/
def walk (s : State) (q : Nat) : State :=
  (List.range 33).foldl (fun s _ => ((walkOrder (s.quad q).table).foldl (walkStep q) (s, [])).1) s

/-- Whether the tensor of a record lies in storage that wakes (spec/13 R282). -/
def recWakes (s : State) (ag : Agent) (f : Format) (planes r : Nat) : Bool :=
  rangeWakes s ag (recBase r) (match f.kind with
    | 0 => 4 * recElems r
    | 3 => planes * planeBytes (recElems r)
    | _ => 2 * recElems r)

/-- Whether the accesses of an entry's pass stall in storage that wakes. -/
def passWakes (s : State) (e : MxEntry) : Bool :=
  let fa := Format.ofNat e.fa.toNat
  let fb := Format.ofNat e.fb.toNat
  if e.kind = 5 then recWakes s e.agent fa fa.pstore e.ra
  else (!opAsrc e.op && recWakes s e.agent fa fa.pread e.ra) || recWakes s e.agent fb fb.pread e.rb

/-- PASS_COMPLETE: a running pass of an entry ends (R181, R193, R199). -/
def passComplete (s : State) (q i : Nat) : State :=
  match (s.quad q).table[i]? with
  | none => s
  | some e =>
    if !e.running || passWakes s e then s
    else
      let stop (s : State) (x : MxFail) : State :=
        let s := if x.page then pageError s e.ctx else memError s e.launch x.keys
        walk (retireEntry s q e x.status x.cause) q
      let lost (bad : List Nat) : State := walk (retireEntry (accError s q bad) q e 0x20 0) q
      if e.kind = 5 then
        let bad := accBad s q ((List.range (opM e.op)).flatMap (fun i => (List.range (opN e.op)).map (accKey (opCt e.op) i)))
        if !bad.isEmpty then lost bad else
        let (s', fault) := outWork { s with nonce := s.nonce + 1 } q e
        match fault with
        | some x => stop s' x
        | none => walk (retireEntry s' q e 0 0) q
      else
        match passFail s e with
        | some x => stop s x
        | none =>
          let ws := passWrites s q e
          let bad := accBad s q (passReads e ws)
          if !bad.isEmpty then lost bad else
          let s := putElems s q e ws
          if 4096 * (e.pass + 1) < opK e.op then
            walk (s.modQuad q (fun x => { x with table := x.table.map (fun y =>
              if y.id = e.id then { y with pass := y.pass + 1, running := false, pat := none } else y) })) q
          else walk (retireEntry s q e 0 0) q

/-- CLASS_AGING: an entry that has waited 4,096 cycles rises by a class, up to 7 (R196). -/
def classAging (s : State) (q i : Nat) : State :=
  match (s.quad q).table[i]? with
  | none => s
  | some e =>
    if e.running || e.waited < 4096 then s
    else
      walk (s.modQuad q (fun x => { x with table := x.table.map (fun y =>
        if y.id = e.id then { y with cls := min 7 (y.cls + 1), waited := y.waited - 4096 } else y) })) q

/-! ### Posting (R191, R192, R198, R199) -/

/-- The lanes of A whose format words differ from those of its lowest lane; two words, or one. -/
def diverging (s : State) (f : VReg) (pair : Bool) : List (Nat × Cause) :=
  let word (l : Nat) : Nat := if pair then s.vread64 s.cb f.toNat l else (s.vread s.cb f.toNat l).toNat
  ((lanesOf s.act).filter (fun l => word l != word (lowest s.act))).map (fun l => (l, cFORMAT_DIVERGENCE))

/-- An entry as the present instruction posts it. -/
def entryOf (s : State) (kind : Nat) (op : W64) (rm : Rm) : MxEntry :=
  let b := s.cb
  { id := s.nonce, kind := kind, band := s.cur.band, wg := b.wg, ctx := b.ctx, launch := b.launch, tile := b.tile,
    ptile := b.ptile, lane := lowest s.act, op := op, fa := 0, fb := 0, rm := rm, ra := 0, rb := 0, arrays := [],
    tiles := [], cls := (match tget? s.launches b.launch with | some l => l.prio | none => 0), waited := 0, pass := 0,
    running := false, pat := none, fits := false, seq := b.mxPosted.toNat, ty := .f32, d := 0, vals := [] }

/-- The reservation table is full: the fragment waits and issues again. -/
def tableFull (s : State) : Bool := 32 ≤ (s.quad s.cq).table.length

/-- Post an entry; the issuing fragment goes on once the entry is in the table. -/
def post (s : State) (e : MxEntry) (counted : Bool) : Out :=
  if tableFull s then .next (s.modCb (fun b => { b with sleepLane := true }))
  else
    let s' := finishL s (fun b => if counted then { b with mxPosted := b.mxPosted + 1 } else b)
    .next (walk (s'.modQuad s.cq (fun x => { x with table := x.table ++ [e] })) s.cq)

/-- mma, mmah and mmav (R191, R192). When lanes diverge, only those record a cause, FORMAT_DIVERGENCE; that the lanes which agree record
none of the causes that their word would raise is the model's choice (log entry 71). -/
def postMma (s : State) (kind : Nat) (o : MmaOp) : Out :=
  let b := s.cb
  let w := b.s o.op
  if s.act = 0 then .next (finishL s id)
  else
    let addrs := (if opAsrc w then [] else [(b.s o.ra).toNat]) ++ [(b.s o.rb).toNat]
    withRecs s addrs (fun s recs =>
      let fw := s.vread64 b o.f.toNat (lowest s.act)
      let fa := fw % 2 ^ 32
      let fb := fw / 2 ^ 32
      let ra := if opAsrc w then 0 else recs.headD 0
      let rb := recs.getLastD 0
      let a := opCt w / 16
      if !(diverging s o.f true).isEmpty then trapLanes s (diverging s o.f true)
      else if !formatOk fa || !formatOk fb || fa % 16 != fb % 16 then trapActive s cFORMAT_BAD
      else if !mmaWordOk kind w then trapActive s cMX_OPERAND
      else if !recOk true rb || (!opAsrc w && !recOk false ra) then trapActive s cRECORD_BAD
      else if tileMask (mmaTiles kind w ++ (if opAsrc w then [opAtile w] else [])) &&& ~~~s.heldAcc != 0 then
        trapActive s cACC_NOTHELD
      else if (followArray kind a).any (fun f => a != b.tile % 4 || (s.tile (s.cq * 4 + f)).cordoned) then
        trapActive s cPAIR_BAD
      else
        post s { entryOf s kind w o.rm with
          fa := w32 fa, fb := w32 fb, ra := ra, rb := rb, arrays := mmaArrays kind w
          tiles := mmaTiles kind w ++ (if opAsrc w then [opAtile w] else []) } true)

def execMma (o : MmaOp) (s : State) : Out := postMma s 0 o
def execMmah (o : MmaOp) (s : State) : Out := postMma s 1 o
def execMmav (o : MmaOp) (s : State) : Out := postMma s 2 o

/-- acc.out (R199). -/
def execAccOut (o : AccOutOp) (s : State) : Out :=
  let b := s.cb
  let w := b.s o.op
  if s.act = 0 then .next (finishL s id)
  else
    withRecs s [(b.s o.rc).toNat] (fun s recs =>
      let f := (s.vread b o.f.toNat (lowest s.act)).toNat
      let rc := recs.headD 0
      if !(diverging s o.f false).isEmpty then trapLanes s (diverging s o.f false)
      else if !formatOk f then trapActive s cFORMAT_BAD
      else if !outWordOk w then trapActive s cMX_OPERAND
      else if !recOk false rc then trapActive s cRECORD_BAD
      else if !s.heldAcc.getLsbD (opCt w) then trapActive s cACC_NOTHELD
      else
        post s { entryOf s 5 w o.rm with
          fa := w32 f, ra := rc, arrays := [opCt w / 16], tiles := [opCt w] } true)

/-- The checks of a selector word (R198). -/
def withSel (s : State) (sel : W64) (k : Out) : Out :=
  if s.act = 0 then .next (finishL s id)
  else if sel.toNat / 2 ^ 14 != 0 then trapActive s cMX_OPERAND
  else if !s.heldAcc.getLsbD (selTile sel) then trapActive s cACC_NOTHELD
  else k

/-- acc.ld (R198): its data moves when the arbiter grants the entry, and the destination is held back until then. Where an earlier
result for the register is not ready, either value remains, which is settled now (spec/05 R107). -/
def execAccLd (o : AccLdOp) (s : State) : Out :=
  let sel := s.cb.s o.sel
  let keeps (l : Nat) : W32 := if (s.kept s.cb [(vkey o.d.toNat l, 0)]).isEmpty then 1 else 0
  withSel s sel (post s { entryOf s 3 sel o.rm with
    tiles := [selTile sel], ty := o.ty, d := o.d.toNat, vals := (lanesOf s.act).map (fun l => (l, keeps l)) } false)

/-- acc.st (R198). -/
def execAccSt (sel : SReg) (data : Src) (s : State) : Out :=
  let w := s.cb.s sel
  withSel s w (post s { entryOf s 4 w .rne with
    tiles := [selTile w], vals := (lanesOf s.act).map (fun l => (l, w32 (s.rd .f32 data l))) } false)

/-- The vector registers for which a band's acc.ld entries still wait. -/
def State.accRegs (s : State) (b : Nat) : List Nat :=
  (s.quad (quadOf (s.band b).ptile)).table.filterMap (fun e => if e.kind = 3 && e.band = b then some e.d else none)

/-- Whether an acc.ld or acc.st of a band is under way: handler entry waits for it (spec/07 R155). -/
def State.accBusy (s : State) (b : Nat) : Bool :=
  (s.quad (quadOf (s.band b).ptile)).table.any (fun e => (e.kind == 3 || e.kind == 4) && e.band == b)

/-- fvote (R205). -/
def execFvote (d : SReg) (a : Src) (s : State) : Out :=
  let ls := lanesOf s.act
  let word (l : Nat) : Nat := s.rdN32 a l
  let first := word (lowest s.act)
  let r : Nat :=
    if ls.isEmpty then 3 else if ls.any (fun l => word l != first) then 1 else if formatOk first then 0 else 2
  laneWriteS s d (w64 r)

/-! ### mstat, mwait, barr.mx (R201, spec/10 R217) -/

def execMstat (d : SReg) (s : State) : Out :=
  let b := s.cb
  .next (finishS s (fun x =>
    { x.setS d (w64 (b.mxRetired.toNat + b.mxStatus.toNat * 2 ^ 48)) with mxStatus := 0 }))

def execMwait (sc : Scope) (a : SReg) (s : State) : Out :=
  let b := s.cb
  let r := (b.s a).toNat
  if b.mxPosted.toNat < r then trapScalar s cMX_OPERAND
  else if r ≤ b.mxRetired.toNat then .next (finishS (joinAt s b.ptile sc) id)
  else .next (s.modCb (fun b => { b with wait := .mwait sc r, waitWord := s.cur.word.setWidth 32 }))

/-- MWAIT_RETURN: RETIRED has reached the target; the return is a join. -/
def mwaitReturn (s : State) (b : Nat) : State :=
  let x := s.band b
  match x.wait with
  | .mwait sc r => if r ≤ x.mxRetired.toNat then joinAt (endWait s b id) x.ptile sc else s
  | _ => s

/-- The operations of a band that have been posted and have not retired. -/
def mxOpen (s : State) (b : Nat) : List Nat :=
  (s.quad (quadOf (s.band b).ptile)).table.filterMap (fun e =>
    if e.band = b && e.kind != 3 && e.kind != 4 then some e.seq else none)

/-- barr.mx: one arrival is deferred until r operations have retired. -/
def execBarrMx (_ : Scope) (a b : SReg) (s : State) : Out :=
  let x := s.cb
  let va := (x.s a).toNat
  let r := (x.s b).toNat % 2 ^ 48
  withBarrier s va ((x.s b).toNat / 2 ^ 48 == 0) false (fun _ =>
    if x.mxPosted.toNat < r then trapScalar s cMX_OPERAND
    else
      let bad := x.mxBad.any (fun n => n < r) || x.mxDone.any (fun e => e.1 < r && e.2.status != 0)
      let need := (mxOpen s s.cur.band).filter (fun n => n < r)
      .next (finishS { s with arrivals := s.arrivals ++
        [⟨w64 (va + 1), s.cur.band, x.wg, x.ctx, x.launch, x.tile, x.ptile, need, bad⟩] } id))

def MxArrival.source (a : MxArrival) : Source :=
  ⟨⟨a.ctx, some a.launch, some a.ptile, false⟩, some a.band, 0x81000000 + a.tile⟩

/-- BARR_MX_ARRIVAL: the operations have retired and the arrival is made (spec/10 R217). -/
def barrMxArrival (s : State) (i : Nat) : State :=
  match s.arrivals[i]? with
  | none => s
  | some a =>
    if a.need.isEmpty && !targetWakes s a.source.ag a.target then
      signal { s with arrivals := s.arrivals.eraseIdx i } a.source a.target 1 (if a.bad then 1 else 0)
    else s

/-- The deferred arrivals that p names are made now, poisoned where an operation has not retired: containment has ended those
(spec/10 R217). -/
def flushArrivals (s : State) (p : MxArrival → Bool) : State :=
  let gone := s.arrivals.filter p
  gone.foldl (fun s a => signal s a.source a.target 1 (if a.bad || !a.need.isEmpty then 1 else 0))
    { s with arrivals := s.arrivals.filter (fun a => !p a) }

/-! ### Kills and cordons (R204, spec/13 R285) -/

/-- The entries that p names retire KILLED. -/
def killEntries (s : State) (q : Nat) (p : MxEntry → Bool) : State :=
  walk (((s.quad q).table.filter p).foldl (fun s e => retireEntry s q e 0x20 0) s) q

/-! ### Stride patterns (spec/10 R224) -/

/-- Whether a pass in flight on either die uses a stride-pattern entry. -/
def patternBusy (s : State) (i : Nat) : Bool :=
  s.quads.any (fun e => e.2.table.any (fun x =>
    x.running && x.pat == some i))

/-- A stride-pattern instruction: its index, and what it does. `write`: it waits for passes that use the entry. -/
def withPattern (s : State) (a : SReg) (write : Bool) (f : Nat → Out) : Out :=
  let b := s.cb
  match (if (b.s a).toNat < 2 ^ 16 then gpatEntry s (b.ctx / 16) (b.s a).toNat else none) with
  | none => trapScalar s cENG_OPERAND
  | some i => if write && patternBusy s i then .next (s.modCb (fun b => { b with wait := .space })) else f i

def execGpatSet (a b : SReg) (s : State) : Out :=
  needOperand s (patternOk (s.cb.s b)) (
    withPattern s a true (fun i => .next (finishS { s with gpat := tset s.gpat i (s.cb.ctx, s.cb.s b) } id)))
def execGpatClr (a : SReg) (s : State) : Out :=
  withPattern s a true (fun i => .next (finishS { s with gpat := tdel s.gpat i } id))
def execGpatGet (d a : SReg) (s : State) : Out :=
  withPattern s a false (fun i => laterS s d (gpatWord s s.cb.ctx i))

end Sys2Proof.Machine
end

