-- ==== Sys2Proof/Machine/Relax.lean ====
section
/-!
DEFINITION. Relaxation regions (spec/11 R228 to R248, spec/02 R44, R45): the sequencer's passes, repairs and fallbacks,
the commands of the scalar stream and the instructions of a body, with the device's steps that open a region
and end a pass.
-/
namespace Sys2Proof.Machine

/-! ### The configuration word (R230) -/

def cfgMode (w : W64) : Nat := bitsN w.toNat 4 2
def cfgFallback (w : W64) : Nat := bitsN w.toNat 6 2
def cfgPlim (w : W64) : Nat := bitsN w.toNat 8 12
def cfgAtol (w : W64) : Nat := bitsN w.toNat 20 16
def cfgRtol (w : W64) : Nat := bitsN w.toNat 36 16
def cfgStall (w : W64) : Nat := bitsN w.toNat 52 4
def cfgDepth (w : W64) : Bool := w.getLsbD 56
def cfgWarm (w : W64) : Bool := w.getLsbD 57
def cfgRt (w : W64) : Nat := 16 * (bitsN w.toNat 58 3 + 1)
def cfgD (w : W64) : Nat := bitsN w.toNat 0 4

/-- A tolerance is non-negative and finite; -0 is no negative number. -/
def tolOk (x : Nat) : Bool := x % 2 ^ 15 < 0x7F80 && (x < 2 ^ 15 || x == 2 ^ 15)

/-- The checks of the word alone and against the band (R231, 4). -/
def cfgOk (b : Band) (w : W64) (t : Nat) : Bool :=
  bitsN w.toNat 61 3 == 0 && 1 ≤ cfgD w && cfgD w ≤ 8 && cfgMode w != 3 && cfgFallback w != 3 && cfgPlim w != 0 &&
    tolOk (cfgAtol w) && tolOk (cfgRtol w) && 1 ≤ t && t ≤ min 128 b.lanes &&
    (cfgMode w == 2 || cfgRt w + cfgD w * cfgRt w ≤ b.budget)

/-! ### Exact residuals (R237) -/

/-- The magnitude of an f32, none when it is not finite. -/
def magOf (x : W32) : Resid :=
  match fval (fmtOf .f32) x.toNat with
  | .fin _ m e => some (m, e)
  | _ => none

/-- |a - b|, +Inf where either is not finite. -/
def residOf (a b : W32) : Resid :=
  match fval (fmtOf .f32) a.toNat, fval (fmtOf .f32) b.toNat with
  | .fin na ma ea, .fin nb mb eb =>
    match faddV .rne (.fin na ma ea) (fnegV (.fin nb mb eb)) with
    | .fin _ m e => some (m, e)
    | _ => none
  | _, _ => none

/-- A residual as a value. -/
def residV : Resid → FVal
  | none => .inf false
  | some (m, e) => .fin false m e

def residLe (a b : Resid) : Bool := decide (fcmpV (residV a) (residV b) ≤ 0)
def residMax (a b : Resid) : Resid := if residLe a b then b else a

/-- A residual rounded to f32 upward (R236, R247). -/
def residUp (r : Resid) : W32 := w32 (fround (fmtOf .f32) .rup (residV r))

/-! ### What an evaluation delivered (R236) -/

/-- y[t] component i: what `rlx.out` wrote, else the guess. -/
def Region.out (r : Region) (t i : Nat) : W32 := (tget? r.y (stepKey t i)).getD (r.guess t i)

/-- J[t] row i column j: the tangents that `rlx.out` delivered, else the identity. -/
def Region.jacob (r : Region) (t i j : Nat) : Nat :=
  if (tget? r.y (stepKey t i)).isSome then (tget 0 r.jac (stepKey t i * 8 + j)).toNat
  else if i = j then f32One else 0

/-- Residual t. -/
def Region.resAt (r : Region) (t : Nat) : Resid :=
  ((List.range r.dim).map (fun i => residOf (r.out t i) (r.guess (t + 1) i))).foldl residMax (some (0, 0))

/-- The tolerance test of one component: a residual of +Inf fails it. -/
def Region.tolAt (r : Region) (t i : Nat) : Bool :=
  match residOf (r.out t i) (r.guess (t + 1) i), magOf (r.out t i) with
  | some x, some y =>
    let tol (w : Nat) : FVal := .fin false (match fval (fmtOf .bf16) w with | .fin _ m _ => m | _ => 0)
      (match fval (fmtOf .bf16) w with | .fin _ _ e => e | _ => 0)
    residLe (some x) (match faddV .rne (tol (cfgAtol r.cfg)) (fmulV (tol (cfgRtol r.cfg)) (residV (some y))) with
      | .fin _ m e => some (m, e)
      | _ => none)
  | _, _ => false

/-! ### The repair (R238) -/

/-- A matrix by rows; an omitted term is none. -/
abbrev RMat := List (Option Nat)

def rFma (a b c : Nat) : Nat := ffmaB (fmtOf .f32) .rne a b c
def matAt (d : Nat) (m : RMat) (i j : Nat) : Option Nat := (m[i * d + j]?).getD none

/-- P · Q. -/
def matMul (d : Nat) (p q : RMat) : RMat :=
  (List.range (d * d)).map (fun x =>
    (List.range d).foldl (fun acc j =>
      match matAt d p (x / d) j, matAt d q j (x % d) with
      | some a, some b => some (rFma a b (acc.getD 0))
      | _, _ => acc) none)

/-- P · v + w. -/
def matVec (d : Nat) (p : RMat) (v w : List Nat) : List Nat :=
  (List.range d).map (fun i =>
    (List.range d).foldl (fun acc j =>
      match matAt d p i j with
      | some a => rFma a ((v[j]?).getD 0) acc
      | none => acc) ((w[i]?).getD 0))

/-- The scan: each round composes the maps s apart; `fuel` rounds. -/
def scanMaps (d m : Nat) : Nat → Nat → List (RMat × List Nat) → List (RMat × List Nat)
  | 0, _, xs => xs
  | fuel + 1, s, xs =>
    if m ≤ s then xs
    else
      scanMaps d m fuel (2 * s) ((List.range m).map (fun k =>
        let x := (xs[k]?).getD ([], [])
        if s ≤ k then
          let p := (xs[k - s]?).getD ([], [])
          (matMul d x.1 p.1, matVec d x.1 p.2 x.2)
        else x))

/-- The states of a step as a list. -/
def Region.outs (r : Region) (t : Nat) : List Nat := (List.range r.dim).map (fun i => (r.out t i).toNat)

/-- The guesses after the repair: step, component, value. The maps take the guesses that the pass was evaluated from
(log entry 25). -/
def Region.repaired (r : Region) : List (Nat × W32) :=
  let d := r.dim
  let put (t : Nat) (v : List Nat) : List (Nat × W32) :=
    (List.range d).map (fun i => (stepKey t i, w32 ((v[i]?).getD 0)))
  if cfgMode r.cfg = 2 then (List.range r.n).flatMap (fun t => put (t + 1) (r.outs t))
  else
    let m := r.n - r.e
    let maps := (List.range m).map (fun k =>
      let t := r.e + k
      let a : RMat := (List.range (d * d)).map (fun x =>
        if cfgMode r.cfg = 1 && x / d != x % d then none else some (r.jacob t (x / d) (x % d)))
      let neg : RMat := a.map (fun o => o.map (fun v => fnegB (fmtOf .f32) v))
      (a, matVec d neg ((List.range d).map (fun i => (r.guess t i).toNat)) (r.outs t)))
    let z := r.outs (r.e - 1)
    (List.range r.e).flatMap (fun t => put (t + 1) (r.outs t)) ++
      ((List.range m).zip (scanMaps d m 12 1 maps)).flatMap (fun x => put (r.e + x.1 + 1) (matVec d x.2.1 z x.2.2))

def putStates (t : Tbl W32) (ws : List (Nat × W32)) : Tbl W32 := ws.foldl (fun t w => tput 0 t w.1 w.2) t

/-! ### The bands of a region -/

/-- The band and the lane of a step. -/
def stepPlace (s : State) (leader : Nat) (r : Region) (t : Nat) : Nat × Nat :=
  let place (b : Nat) : Option (Nat × Nat) :=
    match (s.band b).rx with
    | some k => if k.first ≤ t && t < k.first + k.steps then some (b, t - k.first) else none
    | none => none
  ((regionBands leader r).findSome? place).getD (leader, t)

/-- Whether a step's lane is dead or has exited. -/
def stepGone (s : State) (leader : Nat) (r : Region) (t : Nat) : Bool :=
  let p := stepPlace s leader r t
  !(s.band p.1).live.getLsbD p.2

/-- Change the region and every band's status registers at a pass boundary. -/
def putRegion (s : State) (leader : Nat) (r : Region) (out : Nat) : State :=
  (regionBands leader r).foldl (fun s b => s.modBand b (fun y =>
      if y.rx.any (fun k => k.leader == leader) then y.rxStatus r out (residUp r.resmax) else y))
    { s with regions := tset s.regions leader r }

/-- Every band of the region runs the body in the lanes that `m` gives it. -/
def rerun (s : State) (leader : Nat) (r : Region) (m : Nat → RxBand → Mask) : State :=
  let s := { s with regions := tset s.regions leader { r with y := [], jac := [] } }
  (regionBands leader r).foldl (fun s b => s.modBand b (fun y =>
    match y.run, y.rx with
    | some run, some k => y.runBody run.blk (m b k) (s.cycleOf y)
    | _, _ => y)) s

/-- Raise a cause for a region in its leader, with TRAPPC at the body's `lend` (R243). -/
def raiseRegion (s : State) (leader : Nat) (lend : W64) (steps : Nat) (c : Cause) : State :=
  let x := s.band leader
  let l := lowest (x.live &&& maskN steps)
  let m := x.live &&& maskN steps
  takeTrap s leader ⟨[(l, c)], l, c, false, false, true, 0, lend, m, m, 0, .region⟩

/-- The overflow flag, from an evaluation that is committed (R245). -/
def regionFlag (s : State) (leader : Nat) (special : Bool) : State :=
  let x := s.band leader
  setOverflow s x.launch x.ctx special

/-- The lanes of an in-order run: step t alone. -/
def onlyStep (s : State) (leader : Nat) (r : Region) (t : Nat) (b : Nat) : Mask :=
  let p := stepPlace s leader r t
  if p.1 = b then maskBit p.2 else 0

/-- The in-order run goes to step t, from the committed x[t] (R241). -/
def seqGo (s : State) (leader : Nat) (r : Region) (t : Nat) : State :=
  let g := putStates r.g ((List.range r.dim).map (fun i => (stepKey t i, tget 0 r.xs (stepKey (t - 1) i))))
  let r := { r with seqAt := some t, g := g }
  rerun s leader r (fun b _ => onlyStep s leader r t b)

/-- The in-order run is over and the region closes. -/
def seqDone (s : State) (leader : Nat) (r : Region) : State :=
  let flag := r.seqOvf || r.spec.any (fun t => t < min r.e r.seqEnd)
  let k := (s.band leader).rx
  let lend := (k.map RxBand.lend).getD 0
  let steps := (k.map RxBand.steps).getD 0
  let s := closeRegion (regionFlag { s with regions := tset s.regions leader r } leader flag) leader r.seqOut
    (fun t i => tget 0 r.xs (stepKey t i))
  if r.seqOut = 7 && cfgFallback r.cfg = 1 then raiseRegion s leader lend steps cRLX_NOCONV else s

/-- The states of steps as entries of a table, x[t + 1] under t. -/
def Region.states (r : Region) (ts : List Nat) (f : Nat → Nat → W32) : List (Nat × W32) :=
  ts.flatMap (fun t => (List.range r.dim).map (fun i => (stepKey t i, f t i)))

/-- The fallback of a region (R241, R243). -/
def fallback (s : State) (leader : Nat) (r : Region) (c : Cause) : State :=
  let r := { r with stalled := r.stalled || c == cRLX_STALL }
  match cfgFallback r.cfg with
  | 2 =>
    closeRegion (regionFlag (putRegion s leader r 5) leader r.bestOvf) leader 5 (fun t i => tget 0 r.best (stepKey t i))
  | 1 =>
    let k := (s.band leader).rx
    raiseRegion (putRegion s leader { r with held := true } 9) leader ((k.map RxBand.lend).getD 0)
      ((k.map RxBand.steps).getD 0) c
  | _ =>
    let xs := putStates [] (r.states (List.range r.e) r.out)
    seqGo (putRegion s leader r 1) leader { r with xs := xs, seqEnd := r.n, seqOut := 4, seqOvf := false } r.e

/-- The sequencer carries the scan of a region of several bands in the top of their scratchpad: what its bytes hold is free
(R239, spec/16 R310). An allocation starts at 16 bytes, so that no 16 of them straddle a granule. -/
def scanCarry (s : State) (leader : Nat) (r : Region) : State :=
  if r.nb = 1 then s
  else
    match tget? s.wgs (leader / 16) with
    | none => s
    | some w =>
      (List.range (r.nb * 32)).foldl (fun s i =>
        let k := sramKey w.ptile (w.scrOff + w.scrSize - r.nb * 512 + 16 * i)
        let bs := (List.range 2).flatMap (fun j => leBytes 8 (Config.freeWord (s.freeIx (2 ^ 53 + 2 * i + j))).toNat)
        setPoison (enqStore s k bs) k 16 false) s

/-- The end of a pass (R237). A pending `rlx.abort` comes before a fallback that is due at the same pass end, which is the model's choice
(R241, R246; log entry 71). -/
def endPass (s : State) (leader : Nat) (r : Region) : State :=
  let s := scanCarry s leader r
  let n := r.n
  let dead := ((List.range n).find? (stepGone s leader r)).getD n
  let same (t : Nat) : Bool := (List.range r.dim).all (fun i => r.out (t - 1) i == r.guess t i)
  let e := (List.range n).foldl (fun e _ => if e < n && e - 1 < dead && same e then e + 1 else e) 1
  let resmax := ((List.range (n - 1)).map r.resAt).foldl residMax (some (0, 0))
  let res := putStates [] ((List.range (n - 1)).map (fun t => (t, residUp (r.resAt t))))
  let r := { r with pass := r.pass + 1, e := e, resmax := resmax, res := res }
  if dead < n then
    let xs := putStates [] (r.states (List.range (min e dead)) r.out ++
      r.states ((List.range n).filter (fun t => dead ≤ t)) (fun t i => r.guess (t + 1) i))
    let r := { r with xs := xs, seqEnd := dead, seqOut := 7, seqOvf := false }
    let s := putRegion s leader r 1
    if e < dead then seqGo s leader r e else seqDone s leader r
  else if e = n then
    closeRegion (regionFlag (putRegion s leader r 2) leader (!r.spec.isEmpty)) leader 2 r.out
  else if (List.range (n - 1)).all (fun t => (List.range r.dim).all (r.tolAt t)) then
    closeRegion (regionFlag (putRegion s leader r 3) leader (!r.spec.isEmpty)) leader 3 r.out
  else
    let better := match r.resbest with
      | none => true
      | some x => !residLe x resmax
    let r := if better then { r with
        best := putStates [] (r.states (List.range n) r.out), resbest := some resmax, bestOvf := !r.spec.isEmpty } else r
    let limit : Resid := match r.resprev with
      | some (m, x) => some (m * cfgStall r.cfg, x - 4)
      | none => none
    let stalls := if 2 ≤ r.pass && cfgStall r.cfg != 0 && !residLe resmax limit then r.stalls + 1 else 0
    let r := { r with stalls := stalls, resprev := resmax }
    let r := { r with g := putStates r.g r.repaired }
    let s := putRegion s leader r 1
    if r.abort then abortRegion s leader
    else if stalls = 2 then fallback s leader r cRLX_STALL
    else if r.limit ≤ r.pass then fallback s leader r cRLX_NOCONV
    else rerun s leader r (fun _ k => maskN k.steps)

/-- Whether every band of a region has run its body to its `lend`. -/
def passOver (s : State) (leader : Nat) (r : Region) : Bool :=
  !r.held && (regionBands leader r).all (fun b =>
    let x := s.band b
    s.awakeOut b && x.inBody && x.slot0.isNone && x.slot1.isNone && x.kinds.isEmpty && x.pend.all (fun p => !p.lane))

/-- PASS_END: the body's last `lend` has been reached (R237). In an in-order run a step whose lane has died keeps its guess where it
wrote no `rlx.out`, and the run goes on, which is the model's choice (R241; log entry 71). -/
def passEnd (s : State) (leader : Nat) : State :=
  match tget? s.regions leader with
  | none => s
  | some r =>
    if !passOver s leader r then s
    else
      let spec := (regionBands leader r).flatMap (fun b =>
        match (s.band b).rx with
        | some k => (lanesOf k.ovf).filterMap (fun l => if l < k.steps then some (k.first + l) else none)
        | none => [])
      match r.seqAt with
      | none => endPass s leader { r with spec := spec }
      | some t =>
        let xs := putStates r.xs (r.states [t] r.out)
        let r := { r with xs := xs, seqOvf := r.seqOvf || spec.contains t }
        if t + 1 < r.seqEnd then seqGo s leader r (t + 1) else seqDone s leader r

/-! ### Opening a region (R229 to R233, R239) -/

/-- The depth that a slack gives (spec/02 R44). -/
def slackBucket (x : Int) : Nat := if x < 1024 then 0 else min 15 (log2N x.toNat - 9)

/-- The depth of the sequence in RXSEQ, none when it names none (spec/02 R45). -/
def depthNow (s : State) (b : Band) : Option Nat :=
  let k := dctxKey (dieOf b.tile) b.ctx
  (seqOf s k b.rxseq).map (fun q =>
    let d := ((s.dctx k).depth[slackBucket q.2.slack]?).getD 0
    if d = 0 then (s.dctx k).specdepth else d)

/-- The first guesses of a region (R233): x[0], and with WARM what the bands' last regions committed. A component that only an earlier
region than the last has committed starts at +0, which is the model's choice (log entry 71). -/
def firstGuess (s : State) (places : Nat → Nat × Nat) (cfg : W64) (n : Nat) (x0 : List W32) : Tbl W32 :=
  let d := cfgD cfg
  putStates [] ((List.range d).map (fun i => (stepKey 0 i, (x0[i]?).getD 0)) ++
    (if cfgWarm cfg then
      (List.range n).flatMap (fun t => if t = 0 then [] else
        let p := places (t - 1)
        (List.range d).map (fun i => (stepKey t i,
          let b := s.band p.1
          if p.2 < b.rxN && i < b.rxD then tget 0 b.rxX (stepKey p.2 i) else 0)))
     else []))

/-- Open a region led by a band, with the steps of each of its bands; `takes`: the bands that take part. -/
def openFor (s : State) (leader : Nat) (cfg : W64) (x0 : List W32) (steps : List Nat) (takes : Nat → Bool) : State :=
  let n := steps.sum
  let firsts := (List.range steps.length).map (fun i => (steps.take i).sum)
  let places (t : Nat) : Nat × Nat :=
    ((((List.range steps.length).zip (firsts.zip steps)).findSome? (fun x =>
      if x.2.1 ≤ t && t < x.2.1 + x.2.2 then some (leader + x.1, t - x.2.1) else none)).getD (leader, t))
  let jac := cfgMode cfg = 2
  let r : Region :=
    { cfg := cfg, nb := steps.length, n := n, held := false, g := firstGuess s places cfg n x0, y := [], jac := [],
      e := 0, pass := 0, stalls := 0, limit := cfgPlim cfg, resprev := none, resmax := some (0, 0), best := [],
      resbest := none, bestOvf := false, res := [], seqAt := none, seqEnd := 0, seqOut := 0, xs := [], seqOvf := false,
      spec := [], abort := false, stalled := false }
  let s := (((List.range steps.length).zip (firsts.zip steps))).foldl (fun s x =>
    if takes x.1 then
      s.modBand (leader + x.1) (fun b => { b with
        rx := some ⟨leader, x.2.1, x.2.2, cfgD cfg, if jac then 0 else cfgRt cfg, jac, false, 0, 0⟩ })
    else s) s
  putRegion s leader r 1

/-- Open a region in all its bands. -/
def openRegion (s : State) (leader : Nat) (cfg : W64) (x0 : List W32) (steps : List Nat) : State :=
  openFor s leader cfg x0 steps (fun _ => true)

/-- The `rlx.begin` in which a band waits: T, word, sb, x[0] and NBM1. -/
def begun (s : State) (b : Nat) : Option (Nat × W64 × W64 × List W32 × Nat) :=
  match (s.band b).wait with
  | .rxBegin t c sb x0 n => if s.awake b then some (t, c, sb, x0, n) else none
  | _ => none

/-- A band that waits in its `rlx.begin` traps RLX_CONFIG there (R239). -/
def configTrap (s : State) (k : Nat) : State :=
  let x := s.band k
  let l := lowest x.live
  takeTrap s k ⟨[(l, cRLX_CONFIG)], l, cRLX_CONFIG, false, false, false, 0, x.pc, 0, 0, 4, .plain⟩

/-- rlx.begin (R229, R231): sd holds T, sa the configuration word, sb the address of x[0]. Band 0 with a region of its own differs
from each band that waits for a region of several, which traps (R239; log entry 68). A band whose number lies above its own NBM1 is
refused (log entry 71). -/
def execRlxBegin (t c x : SReg) (nb : BitVec 4) (s : State) : Out :=
  let b := s.cb
  let cfg := b.s c
  let steps := (b.s t).toNat
  let va := (b.s x).toNat
  let d := cfgD cfg
  if b.rx.isSome then trapScalar s cRLX_STATE
  else
    noHandler s (
      if va % 4 ≠ 0 then trapScalar s cMISALIGNED
      else
        let ag : Agent := { b.agent with lane := false }
        let n := if va = 0 then 0 else 4 * d
        match (if n = 0 then Xl.ok 0 else engCheck s ag false va n) with
        | .bad e => trapScalar s e
        | .poisoned => .next (pageError s b.ctx)
        | .ok _ =>
          let ks := if n = 0 then [] else accessKeys s ag false va n
          let bandsM1 := match tget? s.launches b.launch with | some l => bitsN l.desc.toNat 275 4 | none => 0
          let scr := match tget? s.wgs b.wg with | some w => w.scrSize | none => 0
          let nb := nb.toNat
          let multi := nb != 0
          if anyPoison s ks then .next (memError s b.launch ks)
          else if !cfgOk b cfg steps || (cfgDepth cfg && (multi || (depthNow s b).isNone)) || bandsM1 < nb ||
              (multi && (scr < (nb + 1) * 512 || nb < b.no)) then trapScalar s cRLX_CONFIG
          else
            let bytes := engBytes s ag va n
            let x0 := (List.range d).map (fun i =>
              if n = 0 then (0 : W32) else w32 (leNat 4 ((List.range 4).map (fun j => byteAt bytes (4 * i + j)))))
            let led := match (s.band (b.wg * 16)).wait with
              | .rxBegin _ _ _ _ m => decide (b.no ≤ m)
              | _ => false
            let here (s : State) : State := openRegion s s.cur.band cfg x0 [steps]
            match b.rxLate with
            | some (w, m) =>
              let s := s.modCb (fun b => { b with rxLate := none })
              if cfg != w || nb != m || va != 0 then trapScalar s cRLX_CONFIG
              else .next (finishS (abortRegion (here s) s.cur.band) id)
            | none =>
            if multi || led then
              .next (s.modCb (fun b => { b with
                wait := .rxBegin steps cfg (w64 va) x0 nb, waitWord := s.cur.word.setWidth 32 }))
            else
              let k := if cfgDepth cfg then min steps ((depthNow s b).getD 0) else steps
              let others := if b.no = 0 then ((List.range 16).map (fun i => b.wg * 16 + i)).filter (fun j =>
                j != s.cur.band && (begun s j).isSome) else []
              .next (others.foldl configTrap (finishS (openRegion s s.cur.band cfg x0 [k]) id)))

/-- A band whose word or NBM1 differs from band 0's, or whose sb is not zero (R239). -/
def differs (first x : Nat × W64 × W64 × List W32 × Nat) : Bool :=
  x.2.1 != first.2.1 || x.2.2.2.2 != first.2.2.2.2 || x.2.2.1 != 0

/-- REGION_OPEN: once the bands 0 to NBM1 of a workgroup have issued `rlx.begin`, the region of its band 0 opens in them. A band
that differs from band 0 is found as soon as both have issued: it traps RLX_CONFIG there, and the region closes ABORTED in its
other bands, at once in those that wait and at its `rlx.begin` in one that has not issued yet (R239, log entry 68). -/
def regionOpen (s : State) (wg : Nat) : State :=
  let leader := wg * 16
  match begun s leader with
  | none => s
  | some first =>
    let m := first.2.2.2.2
    let x (i : Nat) : Option (Nat × W64 × W64 × List W32 × Nat) := begun s (leader + i)
    let bad := (List.range 16).filter (fun i => i != 0 && (x i).any (differs first))
    let good := (List.range (m + 1)).filter (fun i => (x i).isSome && !bad.contains i)
    let opened := openFor s leader first.2.1 first.2.2.2.1
      ((List.range (m + 1)).map (fun i => ((x i).map (·.1)).getD 0)) (fun i => good.contains i)
    let go (s : State) (i : Nat) : State := endWait s (leader + i) id
    if !bad.isEmpty then
      let s := good.foldl go (abortRegion opened leader)
      let s := (List.range (m + 1)).foldl (fun s i =>
        if (x i).isNone then s.modBand (leader + i) (fun b => { b with rxLate := some (first.2.1, m) }) else s) s
      bad.foldl (fun s i => configTrap s (leader + i)) s
    else if good.length = m + 1 then good.foldl go opened
    else s

/-! ### Waiting, closing and resuming (R243, R246) -/

/-- rlx.wait. -/
def execRlxWait (d : SReg) (s : State) : Out :=
  let b := s.cb
  if b.rx.isSome && b.held.isNone then .next (s.modCb (fun b => { b with wait := .region }))
  else writeS s d b.rxout

/-- Whether no band of a region runs its body: the region stands before a pass. -/
def beforePass (s : State) (leader : Nat) (r : Region) : Bool :=
  (regionBands leader r).all (fun b => !(s.band b).inBody)

/-- rlx.abort: a held region closes at once, one that no pass runs in too (log entry 40), another at its next pass
boundary. -/
def execRlxAbort (s : State) : Out :=
  let s' := match s.cb.rx with
    | none => s
    | some k =>
      match tget? s.regions k.leader with
      | none => s
      | some r =>
        if r.held || beforePass s k.leader r then abortRegion s k.leader
        else { s with regions := tset s.regions k.leader { r with abort := true } }
  .next (finishS s' id)

/-- tret.retry at a held region: it goes on from the repaired guesses, with PLIM further passes (R243). -/
def resumeRegion (s : State) (b : Nat) : State :=
  match (s.band b).rx with
  | none => s
  | some k =>
    match tget? s.regions k.leader with
    | none => s
    | some r =>
      if r.held then
        let r := { r with held := false, stalls := 0, limit := r.pass + cfgPlim r.cfg }
        rerun (putRegion s k.leader r 1) k.leader r (fun _ k => maskN k.steps)
      else s

/-- tret.skip at a held region: it closes TRAPPED. -/
def skipRegion (s : State) (b : Nat) : State :=
  match (s.band b).rx with
  | none => s
  | some k =>
    match tget? s.regions k.leader with
    | none => s
    | some r => if r.held then closeRegion s k.leader 6 (fun t i => r.guess (t + 1) i) else s

/-! ### Body instructions (R236) -/

/-- The region that the present body belongs to, with the band's part. -/
def State.bodyRegion (s : State) : Option (RxBand × Region) :=
  let b := s.cb
  if b.inBody then b.rx.bind (fun k => (tget? s.regions k.leader).map (fun r => (k, r))) else none

/-- A body instruction outside a body, or with a component the region does not have. -/
def withBody (s : State) (i : Nat) (f : RxBand → Region → Out) : Out :=
  match s.bodyRegion with
  | none => trapActive s cRLX_STATE
  | some (k, r) => if r.dim ≤ i then trapActive s cRLX_CONFIG else f k r

/-- rlx.in. -/
def execRlxIn (d : VReg) (i : BitVec 3) (s : State) : Out :=
  withBody s i.toNat (fun k r =>
    laneWriteT s .f32 d .variable (fun l => (r.guess (k.first + l) i.toNat).toNat)
      (fun _ j => if j = i.toNat then w32 f32One else 0))

/-- rlx.out. -/
def execRlxOut (a : VReg) (i : BitVec 3) (s : State) : Out :=
  withBody s i.toNat (fun k r =>
    let ls := lanesOf s.act
    let y := ls.foldl (fun t l => tset t (stepKey (k.first + l) i.toNat) (w32 (s.rd .f32 (.v a) l))) r.y
    let jac := if k.jacobi then r.jac else
      putStates r.jac (ls.flatMap (fun l => (List.range r.dim).map (fun j =>
        (stepKey (k.first + l) i.toNat * 8 + j, w32 (s.tanOf (.v a) l j)))))
    .next (finishL { s with regions := tset s.regions k.leader { r with y := y, jac := jac } } id))

/-- rlx.get: what the band's last closed region committed. -/
def execRlxGet (d : VReg) (i : BitVec 3) (s : State) : Out :=
  let b := s.cb
  if !b.closed then trapActive s cRLX_STATE
  else if b.rxD ≤ i.toNat then trapActive s cRLX_CONFIG
  else laneWrite s .f32 d .variable (fun l => if l < b.rxN then (tget 0 b.rxX (stepKey l i.toNat)).toNat else 0)

/-- rlx.step. -/
def execRlxStep (d : VReg) (s : State) : Out :=
  withBody s 0 (fun k _ => laneWrite s .n32 d (.fixed 2) (fun l => l + k.first))

/-- rlx.res. -/
def execRlxRes (d : VReg) (s : State) : Out :=
  let b := s.cb
  if !b.closed then trapActive s cRLX_STATE
  else laneWriteF s .f32 d .variable (fun l => (tget 0 b.rxLast l).toNat) (fun _ _ => 0)

/-! ### What a body may hold (R234) -/

/-- The classes of instructions in a body. -/
inductive BodyClass where
  /-- carries tangents when its type is f32; with a floating destination of another type it is not differentiable -/
  | carry (ty : Ty)
  /-- not differentiable -/
  | nondiff
  /-- copies the tangents of an f32 -/
  | copy (ty : Ty)
  | plain
  | illegal
  deriving DecidableEq, Repr

def Instr.bodyClass : Instr → BodyClass
  | .fadd o | .fsub o | .fmul o | .fdiv o => .carry o.ty
  | .faddImm o | .fsubImm o | .fmulImm o | .fdivImm o => .carry o.ty
  | .ffma o => .carry o.ty
  | .fsqrt o => .carry o.ty
  | .fexp o | .flog o | .ftanh o | .fsig o => .carry o.ty
  | .fmax o | .fmin o => .carry o.ty
  | .fmaxImm o | .fminImm o => .carry o.ty
  | .fabs _ | .fneg _ | .frnd _ | .fexp2 _ | .flog2 _ | .frsqrt _ | .fsin _ | .fcos _ => .nondiff
  | .cvt o => if o.dst.isFp then .nondiff else .plain
  | .mov o => .copy o.ty
  | .movImm o => .copy o.ty
  | .sel o => .copy o.ty
  | .laneAdd _ | .laneSub _ | .laneMul _ | .mulhi _ | .addsat _ | .subsat _ | .laneAnd _ | .laneOr _ | .laneXor _
  | .andn _ | .laneShl _ | .laneShr _ | .laneMin _ | .laneMax _ | .div _ | .laneRem _ | .bfe _ | .bfi _ => .plain
  | .laneAddImm _ | .laneSubImm _ | .laneMulImm _ | .mulhiImm _ | .addsatImm _ | .subsatImm _ | .laneAndImm _
  | .laneOrImm _ | .laneXorImm _ | .andnImm _ | .laneShlImm _ | .laneShrImm _ | .laneMinImm _ | .laneMaxImm _
  | .divImm _ | .laneRemImm _ | .bfeImm _ | .bfiImm _ => .plain
  | .mad _ | .abs _ | .neg _ | .lanePopc _ | .laneClz _ | .ctz _ | .brev _ => .plain
  | .icmp _ | .icmpImm _ | .fcmp _ | .fcmpImm _ | .lidx _ | .rng _ | .plog _ | .ptest _ _ _ | .pget _ _ => .plain
  | .laneLd _ | .rlxIn _ _ | .rlxOut _ _ | .rlxStep _ | .lend | .lcause _ | .rlxGet _ _ | .rlxRes _ | .ltrap _ => .plain
  | _ => .illegal

/-- The cause that an instruction raises when it issues in the body of the present region (R234). -/
def bodyCause (b : Band) (i : Instr) (names : List Nat) (dests : List Nat) : Option Cause :=
  if !b.inBody then none
  else
    match Instr.bodyClass i, b.rx with
    | .illegal, _ => some cRLX_BODY_ILLEGAL
    | _, none => none
    | c, some k =>
      if k.jacobi then none
      else
        let bearing := match c with
          | .carry _ => true
          | .copy ty => ty == .f32
          | _ => false
        let bad := match c with
          | .carry ty => ty != .f32
          | .nondiff => true
          | _ => false
        if bad || (bearing && dests.any (fun d => k.rt ≤ d)) ||
            names.any (fun n => b.budget - k.d * k.rt ≤ n && n < b.budget) then some cRLX_NONDIFF
        else none

end Sys2Proof.Machine
end

