-- ==== Sys2Proof/Machine/Handler.lean ====
section
/-!
DEFINITION. Raising user causes, leaving a handler, ending a band, and a handler's access to the lanes (spec/06 R131 to
R133, spec/08 R179, spec/02 R27).
-/
namespace Sys2Proof.Machine

/-- trap (R131). -/
def execTrap (code : BitVec 14) (s : State) : Out := trapScalar s (code.setWidth 9)

/-- ltrap (spec/08 R179): the cause in every lane of A; an empty A raises nothing. -/
def execLtrap (imm : W32) (s : State) : Out :=
  if s.act = 0 then .next (finishL s id)
  else trapLanes s ((lanesOf s.act).map (fun l => (l, imm.setWidth 9)))

/-- The kind of the trap that the handler of the present band runs for. -/
def State.heldKind (s : State) : SkipKind := (s.cb.held.map Held.kind).getD .plain

/-- tret.retry (R132): a held region goes on (spec/11 R243). -/
def execTretRetry (s : State) : Out :=
  needHandler s (
    let s' := if s.heldKind = .region then resumeRegion s s.cur.band else s
    .next (s'.modCb (fun b => b.leave resumeAt)))

/-- tret.skip (R132): a held region closes TRAPPED (spec/11 R243). -/
def execTretSkip (s : State) : Out :=
  needHandler s (
    let s' := if s.heldKind = .region then skipRegion s s.cur.band else s
    .next (s'.modCb (fun b => b.leave resumePast)))

/-- lflush (R132). -/
def execLflush (s : State) : Out :=
  needHandler s (.next (finishS s (fun b => { b with queue := [] })))

/-- A band ends (spec/02 R27): its region closes ABORTED (spec/11 R243, R246) and the requests of its batch that have
not retired are abandoned (spec/10 R227). -/
def endBand (s : State) (b : Nat) : State :=
  let s := abandon (abortOf s b) b 0x41
  { s with bands := tdel s.bands b }

/-- exit (R132): outside handler mode it waits as `lsync` does. -/
def execExit (s : State) : Out :=
  let b := s.cb
  if b.held.isSome || b.drained then .next (endBand s s.cur.band)
  else .next (s.modCb (fun b => { b with wait := .sync }))

/-! ### A handler's access to the lanes (R133) -/

/-- An uncorrectable error in a lane's register or predicate that a handler reads (spec/13 R280, R284). -/
def readKill (s : State) (l : Nat) (bad : Bool) : State := if bad then laneKill s s.cur.band (maskBit l) else s

/-- The checks of a handler's access: the lane and the register, then the mode, as spec/13 R270 ranks their causes (log entry
41). -/
def withLane (s : State) (l : Nat) (ok : Bool) (k : Out) : Out :=
  if s.cb.lanes ≤ l || !ok then trapScalar s cREG_RANGE else needHandler s k

/-- Whether a register number is in range; a pair is even. -/
def regOk (b : Band) (wide : Bool) (n : Nat) : Bool :=
  if wide then n % 2 == 0 && n + 1 < b.budget else decide (n < b.budget)

/-- A lane's value as a handler reads it: 0 when the lane is dead. -/
def handlerRead (s : State) (l v : Nat) : W64 := if s.cb.dead.getLsbD l then 0 else w64 v

/-- hget (R133). -/
def hget (s : State) (wide : Bool) (d a b : SReg) : Out :=
  let x := s.cb
  let l := (x.s a).toNat
  let n := (x.s b).toNat
  withLane s l (regOk x wide n) (
    let bad := x.errV.contains (vkey n l) || (wide && x.errV.contains (vkey (n + 1) l))
    let s' := readKill s l bad
    writeS s' d (handlerRead s' l (if wide then x.v64 n l else (x.v n l).toNat)))

def execHgetN32 (d a b : SReg) (s : State) : Out := hget s false d a b
def execHgetN64 (d a b : SReg) (s : State) : Out := hget s true d a b

def execHgetp (d a b : SReg) (s : State) : Out :=
  let x := s.cb
  let l := (x.s a).toNat
  let n := (x.s b).toNat
  withLane s l (n < 8) (
    let s' := readKill s l (x.errP.contains (vkey n l))
    writeS s' d (handlerRead s' l (x.p n l).toNat))

/-- hput (R133): a write to a dead lane is discarded. -/
def hput (s : State) (wide : Bool) (d a b : SReg) : Out :=
  let x := s.cb
  let l := (x.s a).toNat
  let n := (x.s b).toNat
  withLane s l (regOk x wide n) (
    .next (finishS s (fun y =>
      if y.dead.getLsbD l then y
      else
        let v := (x.s d).toNat
        let y := y.setV n l (w32 v)
        if wide then y.setV (n + 1) l (w32 (v / 2 ^ 32)) else y)))

def execHputN32 (d a b : SReg) (s : State) : Out := hput s false d a b
def execHputN64 (d a b : SReg) (s : State) : Out := hput s true d a b

def execHputp (d a b : SReg) (s : State) : Out :=
  let x := s.cb
  let l := (x.s a).toNat
  let n := (x.s b).toNat
  withLane s l (n < 8) (
    .next (finishS s (fun y =>
      if y.dead.getLsbD l then y
      else y.setP n (maskBit l) (if (x.s d).getLsbD 0 then maskBit l else 0))))

/-- The lane state word (R133). Bit 11 reads the trapping fragment's lanes as they stood at the trap, those that `hkill` has removed
since among them (log entry 67). -/
def laneState (b : Band) (l : Nat) : Nat :=
  let h := b.held
  (tget 0 b.causes l).toNat + (b.dead.getLsbD l).toNat * 2 ^ 9
    + (h.any (fun x => x.active.getLsbD l)).toNat * 2 ^ 10 + (h.any (fun x => x.fragMask.getLsbD l)).toNat * 2 ^ 11

def execHstat (d a : SReg) (s : State) : Out :=
  let l := (s.cb.s a).toNat
  withLane s l true (writeS s d (w64 (laneState s.cb l)))

/-- hkill (R133). -/
def execHkill (s : State) : Out :=
  let l := (s.cb.s s.cur.x.src).toNat
  withLane s l true (.next (finishS (killLanes s s.cur.band (maskBit l)) id))

end Sys2Proof.Machine
end

