-- ==== Sys2Proof/Machine/Launch.lean ====
section
/-!
DEFINITION. Launches: the descriptor and the image header, acceptance and refusal, the saved parameter block, child
launches, the windows and the completion objects (spec/02 R19 to R21, R33, R34, R364; spec/08 R178; spec/16 R313; spec/17
R316; spec/18 R326).
-/
namespace Sys2Proof.Machine

/-! ### The launch descriptor (R19) -/

def dImage (d : Nat) : Nat := bitsN d 0 64
def dParam (d : Nat) : Nat := bitsN d 64 64
def dCompl (d : Nat) : Nat := bitsN d 128 64
def dScratch (d : Nat) : Nat := bitsN d 225 15 * 16
def dPbytes (d : Nat) : Nat := bitsN d 240 16 * 16
def dBudget (d : Nat) : Nat := (bitsN d 256 8 + 1) * 8
def dLanes (d : Nat) : Nat := bitsN d 264 7 + 1
def dPrivsz (d : Nat) : Nat := (bitsN d 271 4 + 1) * 4096
def dBands (d : Nat) : Nat := bitsN d 275 4 + 1
def dIdem (d : Nat) : Bool := d.testBit 280
def dPrio (d : Nat) : Nat := bitsN d 281 3
def dGang (d : Nat) : Nat := bitsN d 284 4
def dCount (d : Nat) : Nat := bitsN d 288 32
def dCycbud (d : Nat) : Nat := bitsN d 320 32
def dArena (d : Nat) : Nat := bitsN d 384 64

/-- The register footprint of one band in bytes (R26). -/
def footprint (budget lanes : Nat) : Nat := budget * ((lanes + 15) / 16) * 64

/-- The fields of a descriptor are in range, its reserved fields 0, its addresses aligned, and one band's footprint fits
a partition. -/
def descOk (d : Nat) : Bool :=
  bitsN d 192 33 == 0 && bitsN d 352 32 == 0 && bitsN d 448 64 == 0 &&
    dCount d != 0 && dGang d != 1 && dGang d ≤ 12 && dPbytes d ≤ 4096 && dScratch d ≤ 393216 &&
    dArena d % 4096 == 0 && dCompl d % 8 == 0 && dParam d % 16 == 0 && dImage d % 4096 == 0 &&
    footprint (dBudget d) (dLanes d) ≤ 131072

/-! ### The image header (R364) -/

def imageOf (h : Nat) : Image :=
  ⟨bitsN h 64 32, bitsN h 96 32, bitsN h 128 32, bitsN h 160 32, bitsN h 192 32, bitsN h 224 32⟩

/-- Two ranges share a byte. -/
def overlap (a b : Nat × Nat) : Bool := decide (a.1 < b.1 + b.2) && decide (b.1 < a.1 + a.2)

/-- The header and the sections that are not empty: offset and size. -/
def Image.parts (i : Image) : List (Nat × Nat) :=
  [(0, 64), (i.soff, i.ssize), (i.loff, i.lsize), (i.doff, i.dsize)].filter (fun p => p.2 != 0)

/-- No two parts overlap. -/
def apart : List (Nat × Nat) → Bool
  | [] => true
  | p :: ps => ps.all (fun q => !overlap p q) && apart ps

def headerOk (h : Nat) : Bool :=
  let i := imageOf h
  let budget := bitsN h 256 32
  let scratch := bitsN h 288 32
  bitsN h 0 32 == 0x4E424C48 && bitsN h 32 32 == 1 && bitsN h 320 192 == 0 &&
    i.soff % 4 == 0 && 64 ≤ i.soff && i.ssize % 4 == 0 && 4 ≤ i.ssize &&
    i.loff % 4 == 0 && i.lsize % 12 == 0 && i.lsize ≤ 4194304 && i.doff % 4096 == 0 &&
    budget % 8 == 0 && 8 ≤ budget && budget ≤ 2048 && scratch % 16 == 0 && scratch ≤ 393216 && apart i.parts

/-! ### Reading for the command processor -/

/-- The agent of the command processor's own accesses for a context. -/
def cpAgent (ctx : Nat) : Agent := ⟨ctx, none, none, false⟩

/-- n bytes at an address of a context; none when they cannot be read or hold an error. -/
def cpRead (s : State) (ctx va n : Nat) : Option (List Byte) :=
  match engCheck s (cpAgent ctx) false va n with
  | .ok _ => if engBad s (cpAgent ctx) va n then none else some (engBytes s (cpAgent ctx) va n)
  | _ => none

/-- The source of the command processor's signals (spec/10 R213). -/
def cpSource (ctx : Nat) : Source := ⟨cpAgent ctx, none, 0x8F000000 + ctx / 16⟩

/-- A ring command's signal with a status, and its interrupt (spec/20 R339). -/
def cmdSignalled (s : State) (ctx : Nat) (target : W64) (st : Nat) : State :=
  if target = 0 then s else interrupt (signal s (cpSource ctx) target 1 st) (ctx / 16) 1

/-! ### Completion objects and windows (R21, R34, spec/18 R326) -/

def Launch.outer (l : Launch) : Bool := l.contain.getLsbD 0

/-- Whether a launch's completion object lies in a bank that still wakes (spec/13 R282). -/
def State.complWakes (s : State) (l : Launch) : Bool := targetWakes s (cpAgent l.ctx) (w64 (dCompl l.desc.toNat))

/-- Whether a launch may write its completion object: it has no parent, or it is the oldest child that has not
reported. -/
def State.mayTell (s : State) (l : Launch) : Bool :=
  match l.parent with
  | none => true
  | some (p, q) => match tget? s.launches p with
    | some x => x.childHead == q
    | none => true

/-- A count and a status to a launch's completion object; one that cannot be written goes to the fault ring (spec/10
R366). -/
def complSignal (s : State) (l : Launch) (n st : Nat) : State :=
  let t := dCompl l.desc.toNat
  if t = 0 then s
  else
    match xlAccess s (cpAgent l.ctx) true true t 8 with
    | .bad c => faultWrite s l.ctx (faultEntry t l.descAddr.toNat 0xFFFFFFFF 0 0 l.ctx 6 c.toNat)
    | .poisoned => pageError s l.ctx
    | .ok _ => signal s (cpSource l.ctx) (w64 t) n st

/-- Whether a launch's completion object has been written for the last time, when the launch has ended. -/
def State.hasTold (s : State) (l : Launch) : Bool :=
  match l.parent with
  | none => true
  | some (p, q) => match tget? s.launches p with
    | some x => !x.children.any (fun e => e.id == q)
    | none => true

/-- A launch that has ended, and whose children have all reported, leaves the machine. -/
def forget (s : State) (l : Nat) : State :=
  match tget? s.launches l with
  | some x => if x.status.isSome && x.children.isEmpty && s.hasTold x then { s with launches := tdel s.launches l } else s
  | none => s

/-- A launch writes what its completion object may hold now: its reports under the address-space boundary, all with the
status once it has ended. -/
def tellOne (s : State) (l : Nat) : State :=
  match tget? s.launches l with
  | none => s
  | some x =>
    if !s.mayTell x || (x.status.isNone && !x.outer) then s
    else if x.status.isNone && x.told = x.reported then s
    else
      let s := s.modLaunch l (fun x => { x with told := x.reported })
      complSignal s x (x.reported - x.told) (x.status.getD 0)

/-- The launch of a parent's child q. -/
def childOf (s : State) (p q : Nat) : Option Nat :=
  (s.launches.find? (fun e => e.2.parent == some (p, q))).map (·.1)

/-- The children of a launch report in sequence order: the head goes over the done ones, at most n of them. -/
def tellKids : Nat → State → Nat → State
  | 0, s, _ => s
  | n + 1, s, p =>
    match tget? s.launches p with
    | none => s
    | some x =>
      match x.children with
      | [] => s
      | e :: rest =>
        let kid := childOf s p e.id
        let s := match kid with
          | some k => tellOne s k
          | none => s
        if e.done then
          let s := s.modLaunch p (fun x => { x with children := rest, childHead := e.id + 1 })
          let s := match kid with
            | some k => forget s k
            | none => s
          tellKids n s p
        else s

/-- A launch ends with a status (R21, spec/13 R286): its rollback versions are freed, then its completion object is
written, in its turn among its parent's children. -/
def finishLaunch (s : State) (l st : Nat) : State :=
  match tget? s.launches l with
  | none => s
  | some x =>
    if x.status.isSome then s
    else
      let s := s.modLaunch l (fun x => { x with
        status := some st, shadow := [], window := [], again := [], queued := false, dying := none })
      match x.parent with
      | none => forget (tellOne s l) l
      | some (p, q) =>
        let s := s.modLaunch p (fun y => { y with
          children := y.children.map (fun e => if e.id = q then { e with done := true, status := st } else e) })
        if (tget? s.launches p).isSome then forget (tellKids 256 s p) p else forget (tellOne s l) l

def stCOMPLETE : Nat := 0
def stDESC_BAD : Nat := 1
def stKILLEDL : Nat := 2
def stUNPLACEABLE : Nat := 3

/-- The head of a launch's window goes over the done workgroups, at most n of them; each is reported. -/
def report : Nat → State → Nat → State
  | 0, s, _ => s
  | n + 1, s, l =>
    match tget? s.launches l with
    | none => s
    | some x =>
      match x.window with
      | e :: rest =>
        if e.done then
          report n (tellOne (s.modLaunch l (fun x => { x with window := rest, reported := x.reported + 1 })) l) l
        else s
      | [] => if x.reported = dCount x.desc.toNat then finishLaunch s l stCOMPLETE else s

/-! ### Acceptance (R19, R20, spec/16 R313, spec/17 R316) -/

/-- The launches that hold an entry of a queue (spec/17 R314). -/
def inQueue (s : State) (vif prio : Nat) : Nat :=
  (s.launches.filter (fun e => e.2.queued && e.2.ctx / 16 == vif && e.2.prio == prio)).length

/-- A place for a saved parameter block in the interface's save area: 4,096 bytes that no live launch uses, whichever the device
takes of those (log entry 44). -/
def paramSlot (s : State) (ctx : Nat) : Option Nat :=
  let v := s.vif (ctx / 16)
  let used := s.launches.filterMap (fun e => if e.2.ctx / 16 = ctx / 16 && e.2.status.isNone then some e.2.kparam.toNat else none)
  match ((List.range (min 65536 (v.saveSize / 4096))).map (fun i => v.saveBase.toNat + 4096 * i)).filter
      (fun va => !used.contains va) with
  | [va] => some va
  | free => free[Config.freeChoice (s.freeIx 0) % free.length]?

/-- The physical 64 KiB units that an image's bytes lie in. -/
def imageUnits (s : State) (ctx base : Nat) (i : Image) : List Nat :=
  i.parts.flatMap (fun p =>
    (piecesOf (base + p.1) p.2).filterMap (fun u =>
      match xlByte s (cpAgent ctx) false u.1 with
      | .ok k => some (k / 65536)
      | _ => none))

/-- The code caches and the L1 of every tile drop the lines of an image (spec/16 R310, R313). -/
def dropImage (s : State) (ctx base : Nat) (i : Image) : State :=
  let us := imageUnits s ctx base i
  { s with tiles := s.tiles.map (fun e => (e.1, { e.2 with
      l1 := e.2.l1.filter (fun x => !us.contains (x.1 / 512))
      scode := e.2.scode.filter (fun x => !us.contains (x.1 / 65536))
      lcode := e.2.lcode.filter (fun x => !us.contains (x.1 / 65536)) })) }

/-- Why a descriptor is refused, or the image and the parameter bytes. -/
def admissible (s : State) (ctx d : Nat) : Option (Image × List Byte) :=
  if !descOk d then none
  else
    match cpRead s ctx (dImage d) 64 with
    | none => none
    | some hb =>
      let h := leNat 64 hb
      if !headerOk h || dBudget d < bitsN h 256 32 || dScratch d < bitsN h 288 32 then none
      else if dPbytes d = 0 then some (imageOf h, [])
      else
        match cpRead s ctx (dParam d) (dPbytes d) with
        | none => none
        | some ps => some (imageOf h, ps)

/-- A launch as it is accepted or refused. -/
def newLaunch (ctx addr d prio : Nat) (contain : W64) (parent : Option (Nat × Nat)) (img : Image) (kparam : Nat) : Launch :=
  { desc := BitVec.ofNat 512 d, descAddr := w64 addr, img := img, ctx := ctx, prio := prio, kparam := w64 kparam,
    contain := contain, next := 0, reported := 0, told := 0, window := [], childSeq := 0, childHead := 0, children := [],
    parent := parent, status := none, replays := 0, relaunches := [], again := [], replayable := true, shadow := [], ddSave := [],
    waited := [], passed := [], queued := true, dying := none }

/-- What became of a launch command. -/
inductive Accepted where
  | taken (s : State)
  | refused (s : State)
  /-- the queue, or the room for saved parameter blocks, is full -/
  | full
  deriving Repr

/-- The command processor accepts or refuses the launch of a descriptor. A refused one completes DESC_BAD. -/
def acceptLaunch (s : State) (ctx addr d : Nat) (parent : Option (Nat × Nat)) : Accepted :=
  let top := match parent with
    | some (p, _) => (match tget? s.launches p with | some x => x.prio | none => 7)
    | none => 7
  let prio := min (dPrio d) top
  let l := s.nextLaunch
  let put (s : State) (img : Image) (kp : Nat) : State :=
    { s with nextLaunch := l + 1
             launches := tset s.launches l (newLaunch ctx addr d prio (s.ctx ctx).contain parent img kp) }
  let kid (s : State) : State := match parent with
    | some (p, q) => s.modLaunch p (fun x => { x with children := x.children ++ [⟨q, false, 0⟩], childSeq := q + 1 })
    | none => s
  match admissible s ctx d with
  | none => .refused (finishLaunch (kid (put s ⟨0, 0, 0, 0, 0, 0⟩ 0)) l stDESC_BAD)
  | some (img, ps) =>
    if 1024 ≤ inQueue s (ctx / 16) prio then .full
    else if ps.isEmpty then .taken (dropImage (kid (put s img 0)) ctx (dImage d) img)
    else
      match paramSlot s ctx with
      | none => .full
      | some va =>
        let s := (engWrite s (cpAgent ctx) va ps (fun _ => false)).1
        .taken (dropImage (kid (put s img va)) ctx (dImage d) img)

/-! ### dlaunch (spec/08 R178) -/

/-- The next child of a launch, from a descriptor that an agent reads at an address: none when it must wait. The answer is its
number. -/
def makeChild (s : State) (ag : Agent) (l : Nat) (addr : Nat) : Option (Nat × State) :=
  match tget? s.launches l with
  | none => none
  | some x =>
    if x.childHead + 256 ≤ x.childSeq then none
    else
      let d := leNat 64 (engBytes s ag addr 64)
      match acceptLaunch s x.ctx addr d (some (l, x.childSeq)) with
      | .taken s' => some (x.childSeq, s')
      | .refused s' => some (x.childSeq, s')
      | .full => none

/-- Create the children of lanes in order until one must wait: the numbers given, the lanes left, the state. -/
def makeChildren (ag : Agent) (l : Nat) (addr : Nat → Nat) : List Nat → Tbl W32 → State → Tbl W32 × List Nat × State
  | [], got, s => (got, [], s)
  | x :: xs, got, s =>
    match makeChild s ag l (addr x) with
    | none => (got, x :: xs, s)
    | some (q, s') => makeChildren ag l addr xs (tset got x (w32 q)) s'

/-- The check of a lane's descriptor: a load of 64 bytes, 64-byte aligned. -/
def descCheck (s : State) (va : Nat) : Xl :=
  if va % 64 ≠ 0 then .bad cMISALIGNED else engCheck s s.cb.agent false va 64

/-- Whether the fragment of another slot stalls at a `dlaunch`: the lane stream waits for it (spec/17 R314). -/
def Band.stalledElse (b : Band) (slot : Nat) : Bool :=
  match b.dl with
  | some x => x.slot != slot && (b.frag x.slot).any (fun g => g.pc == x.pc)
  | none => false

/-- dlaunch: all descriptors are checked first, then the children are created one by one; where one must wait, the
fragment stays at the instruction and the rest follow, from the addresses read when it issued (R33, R316, spec/06 R110). -/
def execDlaunch (d : VReg) (a : Src) (s : State) : Out :=
  let b := s.cb
  let addrs : List (Nat × Nat) := (lanesOf s.act).map (fun l => (l, s.rd .n64 a l))
  let f := s.cf
  let mine : Option Dl := match b.dl with
    | some x => if x.slot = s.cur.slot && x.pc == f.pc then some x else none
    | none => none
  let go (addrs : List (Nat × Nat)) (left : List Nat) (got : Tbl W32) (s : State) : Out :=
    let (got, rest, s') := makeChildren { b.agent with lane := false } b.launch (tget 0 addrs) left got s
    if rest.isEmpty then
      laneWrite (s'.modCb (fun b => { b with dl := none })) .n32 d .variable (fun l => (tget 0 got l).toNat)
    else
      .next (s'.modCb (fun b => { b with
        sleepLane := true
        dl := some ⟨s.cur.slot, f.pc, rest.foldl (fun m l => m ||| maskBit l) 0, addrs, got⟩ }))
  if b.stalledElse s.cur.slot then .next (s.modCb (fun b => { b with sleepLane := true }))
  else
    match mine with
    | some x => go x.addrs (lanesOf (x.left &&& f.mask &&& ~~~b.dead)) x.got s
    | none =>
      let rs : List (Nat × Xl) := addrs.map (fun e => (e.1, descCheck s e.2))
      if rs.any (fun r => r.2 == .poisoned) then .next (pageError s b.ctx)
      else
        let bad := rs.filterMap (fun r => match r.2 with | .bad c => some (r.1, c) | _ => none)
        let ks := addrs.flatMap (fun e => accessKeys s b.agent false e.2 64)
        if !bad.isEmpty then trapLanes s bad
        else if anyPoison s ks then .next (memError s b.launch ks)
        else go addrs (lanesOf s.act) [] s

end Sys2Proof.Machine
end

