-- ==== Sys2Proof/Machine/Contain.lean ====
section
/-!
DEFINITION. Containment: workgroup kill, launch replay and kill, address-space kill (spec/13 R276, R279, R285 to R287,
spec/09 R204, spec/12 R268, spec/17 R320).
-/
namespace Sys2Proof.Machine

/-! ### Workgroup kill (R285) -/

/-- The bytes of a range of a slice become 0 with valid codes. -/
def scrubSlice (s : State) (p off n : Nat) : State :=
  let s := settle s
  let k := sramKey p off
  { s with
    mem := s.mem.filter (fun c => !(decide (k ≤ c.1) && decide (c.1 < k + n)))
    poison := s.poison.filter (fun g => !(decide (k ≤ 8 * g) && decide (8 * g < k + n))) }

/-- The bands of a workgroup. -/
def bandsOf (s : State) (w : Nat) : List Nat := (s.bands.filter (fun e => e.2.wg == w)).map (·.1)

/-- The bands of a workgroup end; requests of their batches retire KILLED (spec/10 R227), and their regions are lost. -/
def endBands (s : State) (w : Nat) : State :=
  let s := (bandsOf s w).foldl (fun s b => abandon s b 0x20) s
  { s with
    bands := s.bands.filter (fun e => e.2.wg != w)
    regions := s.regions.filter (fun e => e.1 / 16 != w) }

/-- A workgroup's accumulator tiles go with it; its scratchpad allocation is scrubbed and released. -/
def freeWg (s : State) (w : Nat) : State :=
  match tget? s.wgs w with
  | none => s
  | some x =>
    let s := if x.saved.isNone then scrubSlice s x.ptile x.scrOff x.scrSize else s
    { s with wgs := tdel s.wgs w }

/-- The reservation-table entries of workgroups retire KILLED. -/
def killOps (s : State) (ws : List Nat) : State :=
  ws.foldl (fun s w => match tget? s.wgs w with
    | some x => killEntries s (quadOf x.ptile) (fun e => e.wg == w)
    | none => s) s

/-- Workgroups are ended: first their bands, then their entries, copies and unstarted Cabinet commands, each of which completes
KILLED, and at last their storage. `cordon`: the kill follows a cordon, and their Cabinet commands complete normally (R268, R285). -/
def dropWgs (s : State) (cordon : Bool) (ws : List Nat) : State :=
  let s := killOps (ws.foldl endBands s) ws
  let s := killCopies s (fun c => ws.contains c.wg)
  let s := if cordon then s else killCabinet s false (fun c => ws.contains c.wg)
  ws.foldl freeWg (flushArrivals s (fun a => ws.contains a.wg))

/-- The workgroups that are killed with one: its gang (R285). -/
def gangOf (s : State) (w : Nat) : List Nat :=
  match tget? s.wgs w with
  | none => []
  | some x =>
    if x.gang = 0 then [w]
    else (s.wgs.filter (fun e => e.2.launch == x.launch && e.2.index / x.gang == x.index / x.gang)).map (·.1)

/-- The relaunches that a launch allows for each workgroup (R283). -/
def Launch.wrlim (l : Launch) : Nat := bitsN l.contain.toNat 5 3
def Launch.rplim (l : Launch) : Nat := bitsN l.contain.toNat 2 3

/-- WORKGROUP_KILL: the workgroup and its gang are ended; they are placed again when the launch is idempotent and within
WRLIM, and otherwise the outer boundary applies. -/
def killWg (s : State) (cordon : Bool) (w : Nat) : State :=
  match tget? s.wgs w with
  | none => s
  | some x =>
    let ws := gangOf s w
    let ixs := (ws.filterMap (fun i => (tget? s.wgs i).map (·.index))).mergeSort (· ≤ ·)
    let s := dropWgs s cordon ws
    match tget? s.launches x.launch with
    | none => s
    | some l =>
      if l.status.isSome then s
      else if dIdem l.desc.toNat && ixs.all (fun i => tget 0 l.relaunches i < l.wrlim) then
        s.modLaunch x.launch (fun l => { l with
          again := ((l.again.filter (fun i => !ixs.contains i)) ++ ixs).mergeSort (· ≤ ·)
          relaunches := ixs.foldl (fun t i => tset t i (tget 0 t i + 1)) l.relaunches })
      else outerError s x.launch

/-! ### Launch replay and kill (R276, R286) -/

/-- Every rollback version of a launch goes back to its unit, and the Cabinet state of its context to what it was. -/
def rollback (s : State) (l : Nat) : State :=
  match tget? s.launches l with
  | none => s
  | some x =>
    let s := x.shadow.foldl (fun s e =>
      copyUnit s ((s.vif (x.ctx / 16)).poolBase.toNat + e.slot * 65536) (e.unit * 65536)) s
    let s := x.ddSave.foldl (fun s e => purgeCtx (s.modDctx e.1 (fun d => { d with
      ddbase := e.2.ddbase, ddcap := e.2.ddcap, vobase := e.2.vobase, vocount := e.2.vocount,
      tableReady := e.2.tableReady, orderReady := e.2.orderReady, l2v := e.2.l2v, v2l := e.2.v2l,
      peak := e.2.peak })) e.1) s
    [0, 1].foldl (fun s d => purgeCtx s (dctxKey d x.ctx)) s
      |>.modLaunch l (fun x => { x with shadow := [], ddSave := [] })

/-- Requests of a launch, waiting or in a formed batch, retire KILLED (spec/10 R227). Those of a batch that another launch's band has taken
stay with that band, which retires them: the model's choice (log entry 71). -/
def killRequests (s : State) (p : Nat → Request → Bool) : State :=
  let gone := s.dctxs.flatMap (fun e =>
    ((e.2.waiting ++ e.2.formed.flatMap (·.reqs)).filter (p (e.1 % 1024))).map (fun r => (e.1, r)))
  let s := { s with dctxs := s.dctxs.map (fun e => (e.1, { e.2 with
    waiting := e.2.waiting.filter (fun r => !p (e.1 % 1024) r)
    formed := (e.2.formed.map (fun b => { b with reqs := b.reqs.filter (fun r => !p (e.1 % 1024) r) })).filter
      (fun b => !b.reqs.isEmpty) })) }
  gone.foldl (fun s e => retire s e.1 e.2 0x20) s

/-- Every unit of work of the contexts and launches that p names is ended, and completes KILLED; then its storage goes. -/
def killWork (s : State) (p : Nat → Nat → Bool) : State :=
  let ws := (s.wgs.filter (fun e => p e.2.ctx e.2.launch)).map (·.1)
  let s := killOps (ws.foldl endBands s) ws
  let s := killCopies s (fun c => p c.ctx c.launch)
  let s := killCabinet s true (fun c => p c.ctx c.launch)
  let s := killDecodes s (fun c => p c.ctx c.launch)
  let s := killRequests s (fun c r => p c r.launch)
  ws.foldl freeWg (flushArrivals s (fun a => p a.ctx a.launch))

/-- The unfinished children of a launch. -/
def kidsOf (s : State) (l : Nat) : List Nat :=
  (s.launches.filter (fun e => e.2.status.isNone && (e.2.parent.map (·.1)) == some l)).map (·.1)

/-- A launch and its unfinished descendants, at most n levels deep, each before its own. -/
def familyOf (s : State) : Nat → Nat → List Nat
  | 0, l => [l]
  | n + 1, l => l :: (kidsOf s l).flatMap (familyOf s n)

/-- A launch and all its unfinished descendants. -/
def family (s : State) (l : Nat) : List Nat := familyOf s s.launches.length l

/-- Under launch containment a launch that can be replayed is rolled back (R276, R286). -/
def restore (s : State) (l : Nat) : State :=
  match tget? s.launches l with
  | some x => if x.shadowed && x.replayable then rollback s l else s
  | none => s

/-- Launches, each before its descendants, complete KILLED, the descendants first. -/
def finishKilled (s : State) (ls : List Nat) : State := ls.reverse.foldl (fun s l => finishLaunch s l stKILLEDL) s

/-- Launches with all their descendants are killed: first every unit of their work, then what they wrote is restored, then they
complete (R276, R286). -/
def killLaunches (s : State) (ls : List Nat) : State :=
  finishKilled (ls.reverse.foldl restore (killWork s (fun _ l => ls.contains l))) ls

/-- A record about a launch. -/
def launchRecord (s : State) (l kind : Nat) : State :=
  match tget? s.launches l with
  | none => s
  | some x => faultWrite s x.ctx (faultEntry 0 x.descAddr.toNat 0xFFFFFFFF 0 0 x.ctx kind 0)

/-- A launch's final kill. -/
def killLaunch (s : State) (l : Nat) : State := killLaunches (launchRecord s l 2) (family s l)

/-- The finished children of a launch that runs again: its windows are discarded, so that none reports any more, and the sequence numbers
start anew (spec/18 R326). One whose own children still run stays, under a number that no child takes. -/
def disown (s : State) (l : Nat) : State :=
  { s with launches := s.launches.filterMap (fun (e : Nat × Launch) =>
    match e.2.parent with
    | some (p, q) =>
      if p = l && e.2.status.isSome then
        (if e.2.children.isEmpty then none else some (e.1, { e.2 with parent := some (p, q + 2 ^ 32) }))
      else some e
    | none => some e) }

/-- A launch runs again from its saved parameter block, once all its work and that of its unfinished children has been killed and
what they wrote is restored. -/
def replay (s : State) (l : Nat) : State :=
  let fam := family s l
  let s := killWork (launchRecord s l 3) (fun _ l => fam.contains l)
  let s := disown (finishKilled (rollback (fam.tail.reverse.foldl restore s) l) fam.tail) l
  s.modLaunch l (fun x => { x with
    next := 0, reported := 0, told := 0, window := [], childSeq := 0, childHead := 0, children := [],
    replays := x.replays + 1, relaunches := [], again := [], waited := [], passed := [], queued := true, dying := none })

/-- LAUNCH_REPLAY: a launch that is marked is killed, rolled back and replayed; past RPLIM it is killed, and one that
became unreplayable takes its context with it (R286). A mark of 1 is a kill without a replay (R276). -/
def launchReplay (s : State) (l : Nat) : State :=
  match tget? s.launches l with
  | none => s
  | some x =>
    if x.status.isSome then s
    else
      match x.dying with
      | none => s
      | some 0 =>
        if !(x.shadowed && x.replayable) then s.modCtx x.ctx (fun c => { c with dying := true })
        else if x.rplim ≤ x.replays then killLaunch s l
        else replay s l
      | some _ => killLaunch s l

/-! ### Address-space kill (R287, spec/17 R320) -/

/-- A page that a context maps: its virtual base, its bytes, the place of its entry, and the entry. -/
structure Page where
  va : Nat
  size : Nat
  at_ : Nat
  pte : Nat
  deriving DecidableEq, Repr

/-- The entries of a level's table. -/
def lvlCount : Nat → Nat
  | 3 => 8192
  | 0 => 32
  | _ => 512

/-- Every page under a table (spec/18 R327). -/
def pagesUnder (m : List Host.Cell) : Nat → Nat → Nat → List Page
  | lvl, table, va =>
    (List.range (lvlCount lvl)).flatMap (fun i =>
      let k := table + 8 * i
      let e := memNat m k 8
      let base := va + i * 2 ^ lvlShift lvl
      if pteBad e then []
      else if e.testBit 1 then
        if lvl = 3 || bitsN e 16 36 % 2 ^ (lvlShift lvl - 16) != 0 then [] else [⟨base, 2 ^ lvlShift lvl, k, e⟩]
      else
        match lvl with
        | 0 => []
        | l + 1 => pagesUnder m l (bitsN e 16 36 * 65536) base)

def ctxPages (s : State) (ctx : Nat) : List Page := pagesUnder s.view 3 (s.ctx ctx).root.toNat 0

/-- The physical 64 KiB units of a page. -/
def Page.units (p : Page) : List Nat := (List.range (p.size / 65536)).map (fun i => pteKey p.pte p.va / 65536 + i)

/-- Set or clear QUAR in a page's entry, and the quarantine of its units: the command processor alone does so
(spec/18 R327). -/
def setQuar (s : State) (p : Page) (on : Bool) : State :=
  let e := (if on then p.pte ||| 512 else p.pte &&& (2 ^ 64 - 1 - 512))
  let s := enqStore s p.at_ (leBytes 8 e)
  let us := p.units
  { s with quar := s.quar.filter (fun u => !us.contains u) ++ (if on then us else []) }

/-- The pages of a context that hold an error are quarantined. -/
def quarantine (s : State) (ctx : Nat) : State :=
  ((ctxPages s ctx).filter (fun p =>
    let k := pteKey p.pte p.va
    s.poison.any (fun g => decide (k ≤ 8 * g) && decide (8 * g < k + p.size)))).foldl (fun s p => setQuar s p true) s

/-- A WAIT and a STEPEND of a context that are under way complete KILLED, and the ring is read on (spec/17 R320). -/
def killCommands (s : State) (ctx : Nat) : State :=
  let c := s.ctx ctx
  let s := match (s.vif (ctx / 16)).waiting with
    | some w =>
      if w.ctx = ctx then cmdSignalled (s.modVif (ctx / 16) (fun v => { v with waiting := none })) ctx w.sig 0x20 else s
    | none => s
  if c.stepClosing then
    cmdSignalled (s.modCtx ctx (fun c => { c with stepClosing := false })) ctx c.stepSig 0x20
  else s

/-- All work of a context ends, and completes KILLED. -/
def killContext (s : State) (ctx : Nat) : State :=
  let ls := (s.launches.filter (fun e => e.2.ctx == ctx && e.2.status.isNone)).map (·.1)
  let s := killCommands (finishKilled (killWork s (fun c _ => c == ctx)) ls) ctx
  [0, 1].foldl (fun s d => purgeCtx s (dctxKey d ctx)) s

/-- ADDRESS_SPACE_KILL: a marked context's work ends, its queues stop, its pages that hold errors are quarantined. -/
def addressSpaceKill (s : State) (ctx : Nat) : State :=
  if !(s.ctx ctx).dying then s
  else
    let s := killContext s ctx
    let s := quarantine (s.modCtx ctx (fun c => { c with stopped := true, dying := false })) ctx
    let page := match (ctxPages s ctx).find? (fun p => p.units.any (fun u => s.quar.contains u)) with
      | some p => p.va
      | none => 0
    faultWrite s ctx (faultEntry page 0 0xFFFFFFFF 0 0 ctx 4 0)

end Sys2Proof.Machine
end

