-- ==== Sys2Proof/Machine/Place.lean ====
section
/-!
DEFINITION. The dispatcher: placing workgroups and gangs, gang reservations, eviction and readmission, and the completion
of workgroups (spec/02 R22 to R28, R34 to R38, R46; spec/13 R277, R278; spec/14 R297; spec/16 R312; spec/09 R204).
-/
namespace Sys2Proof.Machine

/-! ### Where tiles lie (spec/14 R290; log entry 31) -/

/-- Column and row of a physical tile in its die's mesh: quad q of a die at column q mod 5 and row q / 5 of quads. -/
def tileX (p : Nat) : Nat := 2 * (p % 100 / 4 % 5) + p % 2
def tileY (p : Nat) : Nat := 2 * (p % 100 / 4 / 5) + p % 4 / 2

/-- The physical number of R290, and back. -/
def attNo (p : Nat) : Nat := p / 100 * 100 + tileY p * 10 + tileX p
def tileAt (die x y : Nat) : Nat := die * 100 + (y / 2 * 5 + x / 2) * 4 + y % 2 * 2 + x % 2
def ofAttNo (n : Nat) : Nat := tileAt (n / 100) (n % 10) (n % 100 / 10)

/-- The logical tile of a context at a place of a die's mesh. -/
def logicalAt (s : State) (ctx die x y : Nat) : Option Nat :=
  ((List.range 96).map (fun i => die * 96 + i)).find? (fun t => s.phys ctx t == tileAt die x y)

/-! ### Room on a tile (R22, R26) -/

/-- The resident bands of a tile. -/
def residents (s : State) (p : Nat) : List Band :=
  (s.bands.filter (fun e => e.2.ptile == p && e.2.resident)).map (·.2)

/-- The bytes of registers that a partition's resident bands hold. -/
def partUsed (bs : List Band) (part : Nat) : Nat :=
  ((bs.filter (fun b => b.slot / 6 == part)).map (fun b => footprint b.budget b.lanes)).sum

/-- The slots that a band of a footprint may take beside some bands and the slots taken already. -/
def openSlots (bs : List Band) (foot : Nat) (taken : List Nat) : List Nat :=
  (List.range 96).filter (fun i =>
    !bs.any (fun b => b.slot == i) && !taken.contains i &&
      partUsed bs (i / 6) + foot * ((taken.filter (fun j => j / 6 == i / 6)).length + 1) ≤ 131072)

/-- Slots for n bands; which of those that fit is free (R22). -/
def pickSlots (bs : List Band) (foot ix : Nat) : Nat → List Nat → Option (List Nat)
  | 0, taken => some taken
  | n + 1, taken =>
    let open_ := openSlots bs foot taken
    match open_[Config.freeChoice (ix + n) % open_.length]? with
    | none => none
    | some i => pickSlots bs foot ix n (taken ++ [i])

/-- The free ranges of a slice: offset and bytes. -/
def gapsFrom : Nat → List (Nat × Nat) → List (Nat × Nat)
  | at_, [] => [(at_, 393216 - at_)]
  | at_, a :: as => (at_, a.1 - at_) :: gapsFrom (max at_ (a.1 + a.2)) as

def gaps (s : State) (p : Nat) : List (Nat × Nat) :=
  let held := (s.wgs.filter (fun e => e.2.ptile == p && e.2.saved.isNone && e.2.scrSize != 0)).map
    (fun e => (e.2.scrOff, e.2.scrSize))
  gapsFrom 0 (held.mergeSort (fun x y => decide (x.1 ≤ y.1)))

/-- An offset for an allocation, 16-byte aligned; which one is free (R304). -/
def pickScratch (s : State) (p size ix : Nat) : Option Nat :=
  if size = 0 then some 0
  else
    let fit := (gaps s p).filter (fun g => size ≤ g.2)
    match fit[Config.freeChoice ix % fit.length]? with
    | none => none
    | some g => some (g.1 + Config.freeChoice (ix + 1) % ((g.2 - size) / 16 + 1) * 16)

/-- Slots and a scratchpad offset for a workgroup of a descriptor on a physical tile. -/
def roomAt (s : State) (p d ix : Nat) : Option (List Nat × Nat) :=
  match pickSlots (residents s p) (footprint (dBudget d) (dLanes d)) ix (dBands d) [] with
  | none => none
  | some slots => (pickScratch s p (dScratch d) (ix + 64)).map (fun off => (slots, off))

/-! ### Tiles that may receive a workgroup (R23, R24, R38, spec/20 R338) -/

/-- The tiles of a die that an interface's resident workgroups use. -/
def shareUsed (s : State) (vif die : Nat) : List Nat :=
  ((s.wgs.filter (fun e => e.2.ctx / 16 == vif && e.2.saved.isNone && e.2.tile / 96 == die)).map
    (fun e => e.2.ptile)).eraseDups

def shareOf (s : State) (vif die : Nat) : Nat :=
  if die = 0 then (s.vif vif).share0 else (s.vif vif).share1

/-- Whether an interface may use some tiles of a die. -/
def shareOk (s : State) (vif die : Nat) (ps : List Nat) : Bool :=
  let used := shareUsed s vif die
  used.length + (ps.filter (fun p => !used.contains p)).length ≤ shareOf s vif die

/-- A tile can be placed on at all. -/
def placeable (s : State) (ctx t : Nat) : Bool :=
  !(s.tile (s.phys ctx t)).cordoned && !(s.ctx ctx).noQuads.contains (t / 4)

/-- Whether a tile is held for another launch's gang. -/
def reserved (s : State) (l p : Nat) : Bool :=
  s.dies.any (fun e => match e.2.reserve with
    | some r => r.launch != l && r.tiles.contains p
    | none => false)

/-- Whether a saved workgroup is the next of its launch to come back, to a tile that can take it (R35, R24, spec/09 R204). -/
def mayReturn (s : State) (x : Workgroup) (l : Launch) : Bool :=
  let q := quadOf x.ptile
  x.saved.isSome && !x.dying && l.status.isNone && l.dying.isNone && !(s.ctx x.ctx).dying && !(s.ctx x.ctx).stopped &&
    !(s.tile x.ptile).cordoned &&
    !s.wgs.any (fun e => e.2.launch == x.launch && e.2.saved.isSome && decide (e.2.index < x.index)) &&
    !reserved s x.launch x.ptile &&
    !(tilesOf x.acc).any (fun n => (accHolder s q n).isSome || (s.tile (q * 4 + n / 16)).cordoned)

/-- Slots and a scratchpad offset for a saved workgroup on its tile. -/
def roomBack (s : State) (w : Nat) (x : Workgroup) (l : Launch) : Option (List Nat × Nat) :=
  let d := l.desc.toNat
  match pickSlots (residents s x.ptile) (footprint (dBudget d) (dLanes d)) (s.freeIx 0) (bandsOf s w).length [],
      pickScratch s x.ptile x.scrSize (s.freeIx 64) with
  | some slots, some off => some (slots, off)
  | _, _ => none

/-- Whether a saved workgroup of a higher priority than a launch's fits into a tile, which work of that launch does not take then
(R37). -/
def savedAbove (s : State) (l p : Nat) : Bool :=
  let prio := match tget? s.launches l with
    | some L => L.prio
    | none => 7
  s.wgs.any (fun e => e.2.ptile == p && (match tget? s.launches e.2.launch with
    | some m => decide (prio < m.prio) && mayReturn s e.2 m && (roomBack s e.1 e.2 m).isSome
    | none => false))

/-- A tile may receive a workgroup of a launch now. -/
def mayReceive (s : State) (l ctx t : Nat) : Bool :=
  let p := s.phys ctx t
  placeable s ctx t && (s.tile p).tempcls != 3 && !reserved s l p && !savedAbove s l p

/-- The order of R38: temperature class, the die's remaining budget, tile number. -/
def tileBefore (s : State) (ctx t u : Nat) : Bool :=
  let ct := (s.tile (s.phys ctx t)).tempcls
  let cu := (s.tile (s.phys ctx u)).tempcls
  let bt := (s.die (t / 96)).budget
  let bu := (s.die (u / 96)).budget
  if ct ≠ cu then decide (ct < cu) else if bt ≠ bu then decide (bu < bt) else decide (t < u)

/-- The first of a list in an order. -/
def firstBy {α : Type} (before : α → α → Bool) : List α → Option α
  | [] => none
  | x :: xs => match firstBy before xs with
    | none => some x
    | some y => if before y x then some y else some x

/-- The room of member k on its tile. -/
def memberRoom (s : State) (ctx d k t : Nat) : Option (List Nat × Nat) :=
  roomAt s (s.phys ctx t) d (s.freeIx (k * 128))

/-- Where a workgroup goes. -/
def tileFor (s : State) (l ctx d : Nat) : Option Nat :=
  let ts := (List.range 192).filter (fun t =>
    mayReceive s l ctx t && shareOk s (ctx / 16) (t / 96) [s.phys ctx t] && (memberRoom s ctx d 0 t).isSome)
  firstBy (tileBefore s ctx) ts

/-! ### Gangs (R23) -/

/-- A rectangle: width, height, and its logical tiles in row-major order. -/
structure Rect where
  w : Nat
  h : Nat
  tiles : List Nat
  deriving DecidableEq, Repr

/-- The shapes of R23. -/
def shapes : List (Nat × Nat) :=
  ((List.range 4).flatMap (fun i => (List.range 4).map (fun j => (i + 1, j + 1)))).filter (fun p =>
    (p.1 ≤ 4 && p.2 ≤ 3) || (p.1 ≤ 3 && p.2 ≤ 4))

/-- The rectangles of a die of at least m tiles whose tiles a context has and none of which is cordoned. -/
def rectsOf (s : State) (ctx die m : Nat) : List Rect :=
  (shapes.filter (fun p => m ≤ p.1 * p.2)).flatMap (fun p =>
    (List.range (11 - p.2)).flatMap (fun y => (List.range (11 - p.1)).filterMap (fun x =>
      let ts := (List.range p.2).flatMap (fun j => (List.range p.1).filterMap (fun i => logicalAt s ctx die (x + i) (y + j)))
      if ts.length = p.1 * p.2 && ts.all (placeable s ctx) then some ⟨p.1, p.2, ts⟩ else none)))

/-- The smaller area, the lower corner, the squarer shape, the wider shape. -/
def rectBefore (a b : Rect) : Bool :=
  if a.w * a.h ≠ b.w * b.h then decide (a.w * a.h < b.w * b.h)
  else if a.tiles.headD 0 ≠ b.tiles.headD 0 then decide (a.tiles.headD 0 < b.tiles.headD 0)
  else if a.w + a.h ≠ b.w + b.h then decide (a.w + a.h < b.w + b.h)
  else decide (a.h < b.h)

/-- Whether every member tile of a rectangle has its member's resources free. -/
def rectFits (s : State) (l ctx d m : Nat) (r : Rect) : Bool :=
  let ms := r.tiles.take m
  ((List.range m).zip ms).all (fun e => mayReceive s l ctx e.2 && (memberRoom s ctx d e.1 e.2).isSome) &&
    shareOk s (ctx / 16) (ms.headD 0 / 96) (ms.map (s.phys ctx))

/-- Where a gang of m goes: the member tiles. -/
def rectFor (s : State) (l ctx d m : Nat) : Option (List Nat) :=
  (firstBy rectBefore (([0, 1].flatMap (fun die => rectsOf s ctx die m)).filter (rectFits s l ctx d m))).map
    (fun r => r.tiles.take m)

/-- Whether a gang of m fits on no die any more (R21, spec/14 R297). -/
def unplaceable (s : State) (ctx m : Nat) : Bool := [0, 1].all (fun die => (rectsOf s ctx die m).isEmpty)

/-! ### Placing -/

/-- A band as it starts (spec/15 R302 to R304, R28). -/
def newBand (L : Launch) (w index b tile ptile off slot : Nat) : Band :=
  let d := L.desc.toNat
  { Band.init with
    wg := w, no := b, launch := 0, ctx := L.ctx, tile := tile, ptile := ptile, slot := slot, resident := true,
    prio := L.prio, lanes := dLanes d, budget := dBudget d, pc := w64 (dImage d + L.img.soff), kparam := L.kparam,
    scrbase := w64 (0xFF00000000000000 + tile * 0x100000 + off)
    privbase := w64 (dArena d + (index % 256 * dBands d + b) * dPrivsz d)
    wgidx := w32 index, budleft := w32 (dCycbud d), clsS := L.prio, clsL := L.prio }

/-- The storage of a tile that a placement needs (spec/16 R311). -/
def neededStores (s : State) (p off size : Nat) : List Store :=
  ((List.range 24).filter (fun i => size != 0 && decide (i * 16384 < off + size) && decide (off < (i + 1) * 16384))).map Store.bank ++
    (List.range 16).flatMap (fun part =>
      (List.range ((partUsed (residents s p) part + 8191) / 8192)).map (fun i => Store.seg part i))

/-- One workgroup of a launch starts on a tile; its allocation reads 0 (spec/16 R312), and its first loads see what was
performed before (log entry 6). -/
def startWg (s : State) (l : Nat) (L : Launch) (index t : Nat) (slots : List Nat) (off : Nat) : State :=
  let d := L.desc.toNat
  let p := s.phys L.ctx t
  let w := s.nextWg
  let s := l1Clear (scrubSlice s p off (dScratch d)) p
  let s := { s with
    nextWg := w + 1
    wgs := tset s.wgs w ⟨l, index, L.ctx, t, p, off, dScratch d, dBands d, dGang d, 0, none, [], false, false⟩
    bands := ((List.range (dBands d)).zip slots).foldl (fun bs e =>
      tset bs (w * 16 + e.1) { newBand L w index e.1 t p off e.2 with launch := l }) s.bands }
  wakeStores { s with nonce := s.nonce + 1 } p (neededStores s p off (dScratch d))

/-- The workgroups of a launch that are placed next: those to be placed again first (spec/13 R285), a gang whole. -/
def nextIndices (L : Launch) : List Nat :=
  let d := L.desc.toNat
  let g := dGang d
  match L.again with
  | i :: is => if g = 0 then [i] else (i :: is).filter (fun j => j / g == i / g)
  | [] =>
    if dCount d ≤ L.next then []
    else if g = 0 then [L.next]
    else (List.range (min g (dCount d - L.next))).map (fun i => L.next + i)

/-- Whether a workgroup of a launch is saved: it comes back before any further dispatch (R35). -/
def hasSaved (s : State) (l : Nat) : Bool := s.wgs.any (fun e => e.2.launch == l && e.2.saved.isSome)

/-- A launch has work for the dispatcher now. One accepted after a STEPEND that waits belongs to the next step and starts after it
(spec/20 R341). -/
def pendingLaunch (s : State) (l : Nat) (L : Launch) : Bool :=
  L.status.isNone && L.dying.isNone && !(s.ctx L.ctx).dying && !(s.ctx L.ctx).stopped && !hasSaved s l &&
    !((s.ctx L.ctx).stepClosing && decide ((s.ctx L.ctx).stepMark ≤ l)) &&
    !(nextIndices L).isEmpty && (nextIndices L).all (fun i => i < L.reported + 256)

/-- The tiles for a launch's next workgroup or gang. -/
def tilesFor (s : State) (l : Nat) (L : Launch) : Option (List Nat) :=
  let d := L.desc.toNat
  if dGang d = 0 then (tileFor s l L.ctx d).map (fun t => [t])
  else rectFor s l L.ctx d (nextIndices L).length

/-- Whether work of a launch that waits fits into a physical tile. -/
def fitsOn (s : State) (l : Nat) (L : Launch) (p : Nat) : Bool :=
  let d := L.desc.toNat
  let m := (nextIndices L).length
  if dGang d = 0 then
    (List.range 192).any (fun t => s.phys L.ctx t == p && mayReceive s l L.ctx t &&
      shareOk s (L.ctx / 16) (t / 96) [p] && (memberRoom s L.ctx d 0 t).isSome)
  else
    [0, 1].any (fun die => (rectsOf s L.ctx die m).any (fun r =>
      rectFits s l L.ctx d m r && (r.tiles.take m).any (fun t => s.phys L.ctx t == p)))

/-- Whether work of a higher priority waits that fits into a tile: work of a lower one does not take it then (R37). -/
def wantedAbove (s : State) (prio p : Nat) : Bool :=
  s.launches.any (fun e => decide (prio < e.2.prio) && pendingLaunch s e.1 e.2 && fitsOn s e.1 e.2 p)

/-- Take a launch's next workgroups out of what it has still to place. -/
def Launch.placed (L : Launch) : Launch :=
  let ixs := nextIndices L
  match L.again with
  | _ :: _ => { L with again := L.again.filter (fun i => !ixs.contains i) }
  | [] =>
    let n := L.next + ixs.length
    { L with next := n, window := L.window ++ ixs.map (fun i => ⟨i, false, 0⟩), queued := decide (n < dCount L.desc.toNat) }

/-- A gang that waits on a die while work of no higher priority is placed there (R24). -/
def notePassed (s : State) (l prio die : Nat) : State :=
  { s with launches := s.launches.map (fun e =>
    if e.1 != l && dGang e.2.desc.toNat != 0 && pendingLaunch s e.1 e.2 && prio ≤ e.2.prio && !e.2.passed.contains die then
      (e.1, { e.2 with passed := die :: e.2.passed })
    else e) }

/-- Start the workgroups of some indices on tiles with their room. -/
def startAll (l : Nat) (L : Launch) : List (Nat × Nat × Option (List Nat × Nat)) → State → State
  | [], s => s
  | (i, t, some r) :: es, s => startAll l L es (startWg s l L i t r.1 r.2)
  | (_, _, none) :: es, s => startAll l L es s

/-- Place a launch's next workgroup or gang on tiles. -/
def placeOn (s : State) (l : Nat) (L : Launch) (ts : List Nat) : State :=
  let d := L.desc.toNat
  let rooms := ((List.range ts.length).zip ts).map (fun e => (e.2, memberRoom s L.ctx d e.1 e.2))
  let s := startAll l L ((nextIndices L).zip rooms) s
  let s := s.modLaunch l (fun L => { L.placed with waited := [], passed := [] })
  let s := { s with
    rr := tset s.rr L.prio (L.ctx / 16)
    dies := s.dies.map (fun e => match e.2.reserve with
      | some r => if r.launch = l then (e.1, { e.2 with reserve := none }) else e
      | none => e) }
  notePassed s l L.prio (ts.headD 0 / 96)

/-- Interfaces in round-robin order after the one served last (R37). -/
def vifOrder (last : Option Nat) : List Nat :=
  match last with
  | none => List.range 64
  | some v => (List.range 64).map (fun i => (v + 1 + i) % 64)

/-- The launch that is served next: the highest priority that has placeable work, interfaces in turn, acceptance order
(R37; log entry 45). -/
def nextLaunchOf (s : State) : Option (Nat × Launch × List Nat) :=
  [7, 6, 5, 4, 3, 2, 1, 0].findSome? (fun prio =>
    (vifOrder (tget? s.rr prio)).findSome? (fun v =>
      (s.launches.filter (fun e => e.2.prio == prio && e.2.ctx / 16 == v && pendingLaunch s e.1 e.2)).findSome? (fun e =>
        (tilesFor s e.1 e.2).map (fun ts => (e.1, e.2, ts)))))

/-- A launch whose next gang fits on no die any more. -/
def lostGang (s : State) : Option Nat :=
  (s.launches.find? (fun e => e.2.status.isNone && dGang e.2.desc.toNat != 0 && !(nextIndices e.2).isEmpty &&
    unplaceable s e.2.ctx (nextIndices e.2).length)).map (·.1)

/-- It completes UNPLACEABLE; what it has in place ends. -/
def giveUp (s : State) (l : Nat) : State :=
  let fam := family s l
  let s := finishLaunch (killWork s (fun _ x => fam.contains x)) l stUNPLACEABLE
  finishKilled (fam.tail.reverse.foldl restore s) fam.tail

/-- WORKGROUP_PLACEMENT: the dispatcher places one workgroup or one gang (R23, R37, R38). -/
def workgroupPlacement (s : State) : State :=
  match lostGang s with
  | some l => giveUp s l
  | none =>
    match nextLaunchOf s with
    | some (l, L, ts) => placeOn s l L ts
    | none => s

/-- The windows that a launch's gang has waited on a die. -/
def Launch.waits (L : Launch) (die : Nat) : Nat := tget 0 L.waited die

/-- GANG_RESERVATION: a die holds a candidate rectangle for the gang that has waited longest, 16 windows or more, while
other work was placed (R24). Its tiles take no other new work until then (log entry 45). -/
def gangReservation (s : State) (die : Nat) : State :=
  if (s.die die).reserve.isSome then s
  else
    let gs := s.launches.filter (fun e => dGang e.2.desc.toNat != 0 && pendingLaunch s e.1 e.2 && 16 ≤ e.2.waits die)
    match firstBy (fun (a b : Nat × Launch) => decide (b.2.waits die < a.2.waits die)) gs with
    | none => s
    | some (l, L) =>
      let m := (nextIndices L).length
      match firstBy rectBefore (rectsOf s L.ctx die m) with
      | none => s
      | some r => s.modDie die (fun x =>
          { x with reserve := some ⟨l, (r.tiles.take m).map (s.phys L.ctx)⟩ })

/-! ### Completion (R27) -/

/-- Whether engine operations of a workgroup are under way; requests in a batch-forming queue are none (log entry 46). -/
def engineBusy (s : State) (w : Nat) : Bool :=
  s.tiles.any (fun e => e.2.copies.any (fun c => c.wg == w)) ||
    s.quads.any (fun e => e.2.table.any (fun x => x.wg == w)) || s.arrivals.any (fun a => a.wg == w) ||
    s.decoders.any (fun e => e.2.queue.any (fun c => c.wg == w)) ||
    s.dies.any (fun e => e.2.cab.any (fun c => c.wg == w && c.op != 13))

/-- WORKGROUP_COMPLETE: a workgroup whose bands have ended and whose engine operations have completed gives back its
storage and is reported (R27, R34, spec/09 R185). -/
def workgroupComplete (s : State) (w : Nat) : State :=
  match tget? s.wgs w with
  | none => s
  | some x =>
    match tget? s.launches x.launch with
    | none => s
    | some l =>
      if x.saved.isSome || x.dying || l.status.isSome || l.dying.isSome || (s.ctx x.ctx).dying ||
          !(bandsOf s w).isEmpty || engineBusy s w || s.complWakes l then s
      else
        let s := { s with wgs := tdel s.wgs w }
        let s := s.modLaunch x.launch (fun l => { l with
          window := l.window.map (fun e => if e.id = x.index then { e with done := true } else e) })
        report 257 s x.launch

/-! ### Eviction and readmission (R35, R46, spec/13 R277, R278) -/

/-- Whether a band stands where it may be saved (spec/13 R277, spec/11 R248). -/
def bandQuiet (s : State) (k : Nat) : Bool :=
  let b := s.band k
  b.pend.isEmpty && b.ready.all (fun r => decide (r.due ≤ s.cycleOf b)) &&
    (match b.rx with
      | none => true
      | some x => !b.inBody ||
          (b.slot1.isNone && (match b.slot0, b.run with
            | some f, some r => f.pc == r.blk.addr && f.mask == r.first
            | _, _ => false) && (tget? s.regions x.leader).all (fun r => r.seqAt.isNone)) ||
          (tget? s.regions x.leader).any (·.held)) &&
    (s.awake k)

/-- The most wanted launch that has no room: its priority. -/
def starved (s : State) (l : Nat) (L : Launch) : Bool := pendingLaunch s l L && (tilesFor s l L).isNone

/-- The resident workgroups of lower priority that could leave a tile: those whose launch has every higher workgroup that is
resident on the same tile (R35). -/
def victims (s : State) (p prio : Nat) : List (Nat × Workgroup) :=
  s.wgs.filter (fun e =>
    e.2.ptile == p && e.2.saved.isNone && (tget? s.launches e.2.launch).any (fun l => decide (l.prio < prio)) &&
      s.wgs.all (fun f => f.2.launch != e.2.launch || f.2.saved.isSome || decide (f.2.index ≤ e.2.index) ||
        f.2.ptile == p))

/-- The state without some workgroups. -/
def State.without (s : State) (ws : List (Nat × Workgroup)) : State :=
  { s with
    wgs := s.wgs.filter (fun e => !ws.any (fun w => w.1 == e.1))
    bands := s.bands.filter (fun e => !ws.any (fun w => w.1 == e.2.wg)) }

/-- Of the workgroups that could leave a tile those that do, highest index first: one stays when there is room without its
leaving, unless one of its launch with a lower index leaves (R35, R46; log entry 47). -/
def leavers (s : State) (p d prio : Nat) : List (Nat × Workgroup) :=
  let vs := (victims s p prio).mergeSort (fun x y => decide (x.2.index ≤ y.2.index))
  (vs.foldl (fun keep x =>
    let less := keep.filter (fun y => y.1 != x.1)
    if less.any (fun y => y.2.launch == x.2.launch && decide (y.2.index < x.2.index)) then keep
    else if (roomAt (s.without less) p d (s.freeIx 0)).isSome then less else keep) vs).reverse

/-- The tiles on which evictions make room for a launch that waits: the one tile, or the members of the one rectangle, that its
next workgroup or gang would take then (R46). -/
def evictTiles (s : State) (l : Nat) (L : Launch) : List Nat :=
  let d := L.desc.toNat
  let room (s : State) (p : Nat) : Bool := (roomAt s p d (s.freeIx 0)).isSome
  let can (t : Nat) : Bool :=
    let p := s.phys L.ctx t
    mayReceive s l L.ctx t && (room s p || room (s.without (victims s p L.prio)) p)
  let m := (nextIndices L).length
  if dGang d = 0 then
    ((firstBy (tileBefore s L.ctx) ((List.range 192).filter (fun t =>
      shareOk s (L.ctx / 16) (t / 96) [s.phys L.ctx t] && can t))).map (s.phys L.ctx)).toList
  else
    match firstBy rectBefore (([0, 1].flatMap (fun die => rectsOf s L.ctx die m)).filter (fun r =>
        shareOk s (L.ctx / 16) ((r.tiles.headD 0) / 96) ((r.tiles.take m).map (s.phys L.ctx)) && (r.tiles.take m).all can)) with
    | some r => ((r.tiles.take m).map (s.phys L.ctx)).filter (fun p => !room s p)
    | none => []

/-- Whether a workgroup may be evicted: it is the highest of its launch that is resident, work of a higher priority waits for
which evictions make room on its tile, of the workgroups that leave the tile for that work it is the first, and every one of its
bands is quiet (R35, R46; log entry 47). -/
def mayEvict (s : State) (w : Nat) : Bool :=
  match tget? s.wgs w with
  | none => false
  | some x =>
    match tget? s.launches x.launch with
    | none => false
    | some l =>
      x.saved.isNone && !x.dying && l.status.isNone && l.dying.isNone && !(s.ctx x.ctx).dying && !(s.ctx x.ctx).stopped &&
        !s.wgs.any (fun e => e.2.launch == x.launch && e.2.saved.isNone && decide (x.index < e.2.index)) &&
        s.launches.any (fun e => decide (l.prio < e.2.prio) && starved s e.1 e.2 &&
          (evictTiles s e.1 e.2).contains x.ptile &&
          (leavers s x.ptile e.2.desc.toNat e.2.prio).head?.any (fun y => y.1 == w)) &&
        (bandsOf s w).all (bandQuiet s) &&
        !(s.quad (quadOf x.ptile)).table.any (fun e => e.wg == w)

/-- The elements of a tile of accumulators. -/
def tileElems (q : Quad) (n : Nat) : List (Nat × W32) := q.acc.filter (fun e => e.1 / 16384 == n)

/-- A band as it is saved: a wait is withdrawn and its instruction issues again, but for a `yieldc` whose copy is under
way (R42, spec/13 R277, R278). -/
def Band.save (b : Band) : Band :=
  { b with
    resident := false
    ready := []
    wait := match b.wait with
      | .yieldc true c d => .yieldc true c d
      | _ => .none }

/-- The running timers of a band go into the TIMER fields of their records, which keep what else they hold (spec/18 R324). -/
def flushTimers (s : State) (k : Nat) : State :=
  match readSplit s (s.band k) with
  | .ok _ =>
    let b := s.band k
    b.timers.foldl (fun st e =>
      let i := e.1 + 2
      let h := stackCell st b i
      let va := b.privbase.toNat + 16 * i
      storeBytes st b.agent false va (leBytes 16 (h - bitsN h 52 32 * 2 ^ 52 + e.2 % 2 ^ 32 * 2 ^ 52))) s
  | _ => s

/-- EVICTION: the workgroup's image takes its bands, its scratchpad bytes and its accumulator tiles, and its storage is
released. -/
def evict (s : State) (w : Nat) : State :=
  if !mayEvict s w then s
  else
    match tget? s.wgs w with
    | none => s
    | some x =>
      let q := quadOf x.ptile
      let k := sramKey x.ptile x.scrOff
      let s := (bandsOf s w).foldl flushTimers s
      let bytes := memBytes s.view k x.scrSize
      let bad := s.poison.any (fun g => decide (k ≤ 8 * g) && decide (8 * g < k + x.scrSize))
      let bad := bad || (tilesOf x.acc).any (fun n => (s.quad q).bad.any (fun e => e / 16384 == n)) ||
        (bandsOf s w).any (fun k => !(s.band k).errBand.isEmpty || (s.band k).queue.any (·.bad) || !(s.band k).errV.isEmpty || !(s.band k).errP.isEmpty)
      let acc := (tilesOf x.acc).map (fun n => (n, tileElems (s.quad q) n))
      let s := { s with bands := s.bands.map (fun (e : Nat × Band) => if e.2.wg = w then (e.1, e.2.save) else e) }
      s.modWg w (fun x => { x with saved := some bytes, savedAcc := acc, savedBad := bad })

/-- READMISSION: the saved workgroup of a launch with the lowest index comes back to its tile once its slots, registers,
scratchpad and accumulator tiles are free there, not held for a gang, and no work of a higher priority waits that fits there (R24,
R35, R37, spec/09 R204). An error in the image is contained at the outer boundary
(spec/13 R281). -/
def readmit (s : State) (w : Nat) : State :=
  match tget? s.wgs w with
  | none => s
  | some x =>
    match x.saved, tget? s.launches x.launch with
    | some bytes, some l =>
      let q := quadOf x.ptile
      let keys := bandsOf s w
      if !mayReturn s x l || wantedAbove s l.prio x.ptile then s
      else if x.savedBad then outerError s x.launch
      else
        match roomBack s w x l with
        | some (slots, off) =>
          let s := l1Clear (settle s) x.ptile
          let s := { s with mem := memPuts s.mem (sramKey x.ptile off) bytes }
          let here (g : Nat) : Bool :=
            decide (sramKey x.ptile off ≤ 8 * g) && decide (8 * g < sramKey x.ptile (off + x.scrSize))
          let s := { s with nonce := s.nonce + 1, poison := s.poison.filter (fun g => !here g) }
          let putTile (t : Tbl W32) (e : Nat × List (Nat × W32)) : Tbl W32 :=
            e.2.foldl (fun t v => tput 0 t v.1 v.2) (t.filter (fun v => v.1 / 16384 != e.1))
          let s := s.modQuad q (fun y => { (tilesOf x.acc).foldl Quad.clear y with acc := x.savedAcc.foldl putTile y.acc })
          let s := (keys.zip slots).foldl (fun s e => s.modBand e.1 (fun b => { b with
            resident := true
            slot := e.2
            scrbase := w64 (0xFF00000000000000 + x.tile * 0x100000 + off) })) s
          let s := s.modWg w (fun x => { x with saved := none, savedAcc := [], savedBad := false, scrOff := off })
          let s := (tilesOf x.acc).foldl (fun s n => wakeStores s (q * 4 + n / 16) [.acc (n % 16)]) s
          wakeStores s x.ptile (neededStores s x.ptile off x.scrSize)
        | none => s
    | _, _ => s

end Sys2Proof.Machine
end

