-- ==== Sys2Proof/Machine/Attend.lean ====
section
/-!
DEFINITION. Attendants: neighbours and majorities, messages, heartbeats and evidence, the vote, the cordon and what becomes
of the work it strands, self-test, appeal and readmission, retirement (spec/14 R290 to R301, spec/17 R319, spec/19 R331,
R332, R334). Tiles are physical tiles throughout; messages carry the numbers of R290.
-/
namespace Sys2Proof.Machine

/-! ### Neighbours (R290, R291) -/

/-- The neighbour of a tile in a direction: 0 north, 1 east, 2 south, 3 west. -/
def nbr (p d : Nat) : Option Nat :=
  let die := p / 100
  let x := tileX p
  let y := tileY p
  match d with
  | 0 => if y = 0 then none else some (tileAt die x (y - 1))
  | 1 => if x < 9 then some (tileAt die (x + 1) y) else if die = 0 then some (tileAt 1 0 y) else none
  | 2 => if y = 9 then none else some (tileAt die x (y + 1))
  | _ => if x ≠ 0 then some (tileAt die (x - 1) y) else if die = 1 then some (tileAt 0 9 y) else none

/-- The directions that have a neighbour. -/
def nbrDirs (p : Nat) : List Nat := [0, 1, 2, 3].filter (fun d => (nbr p d).isSome)
def nbrs (p : Nat) : List Nat := [0, 1, 2, 3].filterMap (nbr p)

/-- The direction in which a tile sees another. -/
def dirTo (p q : Nat) : Option Nat := [0, 1, 2, 3].find? (fun d => nbr p d == some q)

def liveNbrs (s : State) (p : Nat) : List Nat := (nbrs p).filter (fun q => !(s.tile q).cordoned)

/-- The majority that n live neighbours need; none when there are fewer than two. -/
def majority : Nat → Option Nat
  | 4 => some 3
  | 3 => some 2
  | 2 => some 2
  | _ => none

/-- Whether a count reaches the majority over a tile. -/
def reaches (s : State) (p n : Nat) : Bool :=
  match majority (liveNbrs s p).length with
  | some m => decide (m ≤ n)
  | none => false

/-! ### Attendants and their settings (R301) -/

def State.att (s : State) (p : Nat) : Attendant := tget Attendant.init s.atts p
def State.modAtt (s : State) (p : Nat) (f : Attendant → Attendant) : State :=
  { s with atts := tupd Attendant.init s.atts p f }
def State.watch (s : State) (p d : Nat) : Watch := tget Watch.init (s.att p).watch d
def State.modWatch (s : State) (p d : Nat) (f : Watch → Watch) : State :=
  s.modAtt p (fun a => { a with watch := tupd Watch.init a.watch d f })

def cHbp (c : W64) : Nat := bitsN c.toNat 0 16
def cHbmiss (c : W64) : Nat := bitsN c.toNat 16 4
def cHbslack (c : W64) : Nat := bitsN c.toNat 20 12
def cVotewin (c : W64) : Nat := bitsN c.toNat 32 16 * 256
def cMsglim (c : W64) : Nat := bitsN c.toNat 48 4
def cBablim (c : W64) : Nat := bitsN c.toNat 52 4
def cRemaplim (c : W64) : Nat := bitsN c.toNat 56 4

/-- A value that ATTCFG takes. -/
def attcfgOk (c : W64) : Bool :=
  bitsN c.toNat 60 4 == 0 && cRemaplim c != 0 && cBablim c != 0 && 4 ≤ cMsglim c && cVotewin c != 0 &&
    64 ≤ cHbslack c && 2 * cHbslack c < cHbp c && 2 ≤ cHbmiss c && 1024 ≤ cHbp c &&
    2 * (cHbp c + cHbslack c) ≤ cVotewin c

/-! ### Messages (R292) -/

def mHEARTBEAT : Nat := 1
def mACCUSE : Nat := 2
def mVOTE : Nat := 3
def mWITHDRAW : Nat := 4
def mCORDON : Nat := 5
def mAPPEAL : Nat := 6
def mVERDICT : Nat := 7
def mREADMIT : Nat := 8

/-- A message of a sender: TYPE, SENDER and the body. -/
def message (ty from_ body : Nat) : W64 := w64 (ty * 2 ^ 60 + attNo from_ * 2 ^ 52 + body)

def msgType (w : W64) : Nat := bitsN w.toNat 60 4
def msgSender (w : W64) : Nat := ofAttNo (bitsN w.toNat 52 8)
/-- SUSPECT or SUBJECT. -/
def msgSubject (w : W64) : Nat := ofAttNo (bitsN w.toNat 44 8)
def msgReason (w : W64) : Nat := bitsN w.toNat 42 2

/-- The number of tiles that VOTERS or ACCEPTERS name. -/
def msgCount (w : W64) : Nat := popN 4 (bitsN w.toNat 38 4)

/-- The body about a suspect. -/
def aboutBody (x reason : Nat) : Nat := attNo x * 2 ^ 44 + reason * 2 ^ 42

/-- The mask of some of a tile's neighbours, by their direction from it. -/
def maskBody (x : Nat) (ps : List Nat) : Nat :=
  (ps.filterMap (dirTo x)).eraseDups.foldl (fun m d => m + 2 ^ (38 + d)) 0

/-- Whether the reserved bits of a message are 0 and its REASON is assigned (R294). -/
def msgOk (w : W64) : Bool :=
  let b := w.toNat % 2 ^ 52
  match msgType w with
  | 1 => bitsN b 48 4 == 0
  | 2 | 3 | 4 => bitsN b 0 42 == 0 && (msgReason w == 1 || msgReason w == 2)
  | 5 => bitsN b 0 38 == 0 && (msgReason w == 1 || msgReason w == 2)
  | 6 => bitsN b 32 16 == 0
  | 7 => bitsN b 0 43 == 0
  | 8 => bitsN b 0 38 == 0 && bitsN b 42 2 == 0
  | _ => true

/-- The link by which a message of a sender reaches a tile: its direction, or 4 for one that is routed. -/
def linkOf (p from_ : Nat) : Nat := (dirTo p from_).getD 4

/-- One more anomaly against a neighbour (R294). -/
def Watch.anomaly (w : Watch) : Watch := { w with anoms := (0 :: w.anoms).take 15, quiet := 0 }

/-- Whether neither end of the link between two neighbours has disabled it. -/
def linkOpen (s : State) (p q : Nat) : Bool :=
  (match dirTo p q with | some d => (s.watch p d).link | none => false) &&
    (match dirTo q p with | some d => (s.watch q d).link | none => false)

/-- Whether a message finds its way: over the link of two neighbours, or around, from a tile and to a tile that have an open link
each. A cordoned link carries appeals, verdicts and readmissions alone (R296). -/
def mayPass (s : State) (from_ to_ : Nat) (w : W64) : Bool :=
  msgType w == mAPPEAL || msgType w == mVERDICT || msgType w == mREADMIT ||
    (if linkOf to_ from_ ≠ 4 then linkOpen s from_ to_
     else (nbrs from_).any (linkOpen s from_) && (nbrs to_).any (linkOpen s to_))

/-- Send a message; a full buffer drops it, as an anomaly against its sender (R319), whose evidence settleVotes judges. -/
def send (s : State) (from_ to_ : Nat) (w : W64) : State :=
  let l := linkOf to_ from_
  if !mayPass s from_ to_ w then s
  else if 16 ≤ (tget [] (s.att to_).bufs l).length then
    (if l = 4 then s else s.modWatch to_ l Watch.anomaly)
  else s.modAtt to_ (fun a => { a with bufs := tset a.bufs l (tget [] a.bufs l ++ [w]) })

def sendAll (s : State) (from_ : Nat) (to_ : List Nat) (w : W64) : State :=
  to_.foldl (fun s q => send s from_ q w) s

/-- The neighbours of X other than A. -/
def othersOf (a x : Nat) : List Nat := (nbrs x).filter (fun q => q != a)

/-! ### Retirement and the logical map (R300) -/

/-- A tile retires. Its die's spare quad takes its quad's identity if it is unused, for contexts created later; a spare
quad that loses a tile itself is used up, and stands as 24. -/
def retireTile (s : State) (x : Nat) : State :=
  let die := x / 100
  let q := x % 100 / 4
  let s := s.modAtt x (fun a => { a with state := 3, testing := false })
  let lose (n : Nat) (s : State) : State :=
    if s.noQuads.contains (die * 24 + n) then s else { s with noQuads := s.noQuads ++ [die * 24 + n] }
  match s.spareQuad die with
  | none => { s with spares := tset s.spares die (some q) }
  | some n => if q = n then s else if q = 24 then lose n s else lose q s

/-! ### The cordon (R296, spec/09 R204, spec/02 R44) -/

/-- Whether an address names a byte of X's slice, for an agent on a tile. -/
def inSlice (s : State) (ctx ptile x va : Nat) : Bool :=
  if 0xFF00000000000000 ≤ va then s.phys ctx ((va - 0xFF00000000000000) / 0x100000) == x
  else 0xFE00000000000000 ≤ va && ptile == x

/-- Whether a started copy, number i of its tile, has granules of X's slice in flight at the cordon, which is open (log entry 14). -/
def copyFenced (s : State) (x : Nat) (i : Nat) (c : CopyCmd) : Bool :=
  c.status == some 0 && (inSlice s c.ctx c.ptile x c.dst.toNat || inSlice s c.ctx c.ptile x c.src.toNat) &&
    Config.freeChoice (s.freeIx (c.ptile * 1024 + i)) % 2 == 1

/-- Such a copy ends TILE_FENCED. -/
def fenceCopies (s : State) (x : Nat) : State :=
  { s with tiles := s.tiles.map (fun (e : Nat × Tile) =>
      (e.1, { e.2 with copies := ((List.range e.2.copies.length).zip e.2.copies).map (fun (c : Nat × CopyCmd) =>
        if copyFenced s x c.1 c.2 then { c.2 with status := some 0x8198 } else c.2) })) }

/-- Whether a band has a request outstanding at a tile, or waits on an object in its slice. -/
def bandFenced (s : State) (x k : Nat) : Bool :=
  let b := s.band k
  s.wq.any (fun e => s.entryPort e == x && e.senders.contains k) || b.pend.any (fun p => p.ports.contains x) ||
    (match b.wait with
      | .bwait _ key _ _ _ _ => typeOf key == .sram && sliceOf key == x
      | .cwait _ va _ _ _ _ => inSlice s b.ctx b.ptile x va.toNat
      | _ => false)

/-- A request that a band has outstanding at a tile is answered TILE_FENCED, one whose change still waits in the tile's write queue among
them: no destination is written. -/
def fenceBand (s : State) (x k : Nat) : State :=
  let b := s.band k
  let lost := b.pend.any (fun p => p.ports.contains x) || s.wq.any (fun e => s.entryPort e == x && e.senders.contains k)
  let s := if lost then
      deferCause (s.modBand k (fun b => { b with pend := b.pend.filter (fun p => !p.ports.contains x) })) k cTILE_FENCED none
    else s
  let at_ (key : Nat) : Bool := typeOf key == .sram && sliceOf key == x
  match b.wait with
  | .bwait _ key _ _ _ _ =>
    if at_ key then deferCause (endWait s k id) k cTILE_FENCED none else s
  | .cwait _ va _ _ _ _ =>
    if inSlice s b.ctx b.ptile x va.toNat then deferCause (endWait s k id) k cTILE_FENCED none else s
  | _ => s

/-- Gangs that fit on no die any more give up (R297); at most n of them. -/
def giveUpAll : Nat → State → State
  | 0, s => s
  | n + 1, s => match lostGang s with
    | some l => giveUpAll n (giveUp s l)
    | none => s

/-- The matrix entries that need a tile's array or its accumulator tiles. -/
def needsArray (x : Nat) (e : MxEntry) : Bool := e.arrays.contains (x % 4) || e.tiles.any (fun n => n / 16 == x % 4)

/-- The workgroups that hold accumulator tiles of a tile's array. -/
def arrayHolders (s : State) (x : Nat) : List Nat :=
  ((List.range 16).filterMap (fun i => accHolder s (quadOf x) (16 * (x % 4) + i))).eraseDups

/-- The contexts that a cordon of X touches: those with a workgroup or an image there, with accumulators or entries of its array,
or with a request, a wait or a copy that ends there (R296, spec/20 R340). -/
def touchedBy (s : State) (x : Nat) : List Nat :=
  ((s.wgs.filter (fun (e : Nat × Workgroup) => e.2.ptile == x || (arrayHolders s x).contains e.1)).map (fun e => e.2.ctx) ++
    ((s.quad (quadOf x)).table.filter (needsArray x)).map (fun e => e.ctx) ++
    (s.bands.filter (fun (e : Nat × Band) => e.2.ptile != x && bandFenced s x e.1)).map (fun e => e.2.ctx) ++
    s.tiles.flatMap (fun (e : Nat × Tile) => (((List.range e.2.copies.length).zip e.2.copies).filter (fun (c : Nat × CopyCmd) =>
      copyFenced s x c.1 c.2)).map (fun c => c.2.ctx))).eraseDups

/-- The number of a physical tile in a context, 0 when it serves no logical one. -/
def tileNo (s : State) (ctx x : Nat) : Nat :=
  ((List.range 96).map (fun i => x / 100 * 96 + i)).find? (fun t => s.phys ctx t == x) |>.getD 0

/-- A tile is cordoned: its bands and images are lost, and all that touched it ends as R296 states. -/
def cordonTile (s : State) (x reason : Nat) : State :=
  if (s.tile x).cordoned then s
  else
    let q := quadOf x
    let pos := x % 4
    let s := (touchedBy s x).foldl (fun (s : State) (c : Nat) =>
      faultWrite s c (faultEntry 0 0 0xFFFFFFFF (tileNo s c x) 0 c 5 0)) s
    let s := s.modTile x (fun t => { t with cordoned := true })
    let s := s.modAtt x (fun a => { a with
      state := 1, cordons := min 15 (a.cordons + 1), reason := reason, testing := true })
    -- a cordoned voter leaves every tally
    let s := { s with atts := s.atts.map (fun (e : Nat × Attendant) => (e.1, { e.2 with
      watch := e.2.watch.map (fun (w : Nat × Watch) => (w.1, { w.2 with
        tally := w.2.tally.filter (fun v => v != x), accepts := w.2.accepts.filter (fun v => v != x) })) })) }
    let lost := (s.wgs.filter (fun (e : Nat × Workgroup) => e.2.ptile == x)).map (fun (e : Nat × Workgroup) => (e.1, e.2))
    -- requests and waits of other tiles' bands
    let s := (s.bands.filter (fun (e : Nat × Band) => e.2.ptile != x)).foldl (fun (s : State) (e : Nat × Band) => fenceBand s x e.1) s
    let s := fenceCopies s x
    let s := { s with wq := s.wq.filter (fun (e : WqEntry) => s.entryPort e != x) }
    -- matrix entries that need its array, and its accumulator tiles
    let s := killEntries s q (needsArray x)
    let holders := arrayHolders s x
    let s := (List.range 16).foldl (fun s i => s.modQuad q (fun y => y.clear (16 * pos + i))) s
    let s := lost.foldl (fun (s : State) (e : Nat × Workgroup) => killWg s true e.1) s
    let s := holders.foldl (fun s w => killWg s true w) s
    -- sequences that it owned (spec/02 R44)
    let s := { s with
      dctxs := s.dctxs.map (fun (e : Nat × DieCtx) => (e.1, { e.2 with seqs := e.2.seqs.map (fun (y : Nat × Seq) =>
        match y.2.owner with
        | some t => if s.phys (e.1 % 1024) t = x then (y.1, { y.2 with owner := none }) else y
        | none => y) }))
      dies := s.dies.map (fun (e : Nat × Die) => match e.2.reserve with
        | some r => if r.tiles.contains x then (e.1, { e.2 with reserve := none }) else e
        | none => e) }
    let s := giveUpAll 1024 s
    if cRemaplim (s.att x).cfg ≤ (s.att x).cordons then retireTile s x else s

/-- After a link to X is disabled: X is cordoned once all its live neighbours have disabled theirs (R296). -/
def cordonIfAll (s : State) (x reason : Nat) : State :=
  let ls := liveNbrs s x
  if !ls.isEmpty && ls.all (fun q => match dirTo q x with
    | some d => !(s.watch q d).link
    | none => true) then cordonTile s x reason
  else s

/-- An attendant disables its link to a neighbour. -/
def disable (s : State) (a d x reason : Nat) : State :=
  cordonIfAll (s.modWatch a d (fun w => { w with
    vote := .cordoned, link := false, reason := reason, tally := [], window := 0, accepts := [], verdicts := none })) x reason

/-! ### The vote (R295) -/

/-- A tally that reaches the majority: the attendant sends CORDON and disables its link. -/
def tallyCheck (s : State) (a d x : Nat) : State :=
  let w := s.watch a d
  if w.vote == .voting && reaches s x w.tally.length then
    let s := sendAll s a (x :: othersOf a x) (message mCORDON a (aboutBody x w.reason + maskBody x w.tally))
    disable s a d x w.reason
  else s

/-- The attendant gains evidence against a neighbour; against a cordoned one it is ignored. -/
def gain (s : State) (a d reason : Nat) : State :=
  match nbr a d with
  | none => s
  | some x =>
    if (s.watch a d).vote = .cordoned then s else
    let s := s.modWatch a d (fun w => { w with evid := reason })
    let w := s.watch a d
    match w.vote with
    | .clear =>
      let s := sendAll s a (othersOf a x) (message mACCUSE a (aboutBody x reason))
      tallyCheck (s.modWatch a d (fun w => { w with
        vote := .voting, reason := reason, tally := [a], window := cVotewin (s.att a).cfg })) a d x
    | .pending =>
      let s := sendAll s a (othersOf a x) (message mVOTE a (aboutBody x reason))
      tallyCheck (s.modWatch a d (fun w => { w with
        vote := .voting, reason := reason, tally := w.tally ++ (if w.tally.contains a then [] else [a]) })) a d x
    | _ => s

/-- Anomalies against a neighbour, and the evidence of babbling (R294). -/
def anomalies (s : State) (a d n : Nat) : State :=
  if n = 0 then s
  else
    let s := (List.range n).foldl (fun s _ => s.modWatch a d Watch.anomaly) s
    let c := (s.att a).cfg
    if cBablim c ≤ ((s.watch a d).anoms.filter (fun t => t ≤ cVotewin c)).length then gain s a d 2 else s

/-- An anomaly against the sender of a message, when that is a neighbour. -/
def blame (s : State) (a : Nat) (w : W64) : State :=
  match dirTo a (msgSender w) with
  | some d => anomalies s a d 1
  | none => s

/-- Take the oldest message of a link, when it has a TYPE that p takes; it counts toward MSGLIM (R294). The answer is the
message and the state after. -/
def receive (s : State) (a link : Nat) (p : Nat → Bool) : Option (W64 × State) :=
  match tget [] (s.att a).bufs link with
  | [] => none
  | w :: rest =>
    if p (msgType w) then
      let s := s.modAtt a (fun x => { x with bufs := if rest.isEmpty then tdel x.bufs link else tset x.bufs link rest })
      match dirTo a (msgSender w) with
      | none => some (w, s)
      | some d =>
        let s := s.modWatch a d (fun y => { y with msgs := y.msgs + 1 })
        some (w, if cMsglim (s.att a).cfg < (s.watch a d).msgs then anomalies s a d 1 else s)
    else none

/-- Receive a message of a type; one that breaks the rules of its body is an anomaly and does nothing else (R294). -/
def withMessage (s : State) (a link ty : Nat) (f : W64 → State → State) : State :=
  match receive s a link (fun t => t == ty) with
  | none => s
  | some (w, s) => if msgOk w then f w s else blame s a w

/-- ACCUSE or VOTE from B; a cordoned tile's vote counts no more. -/
def accusation (s : State) (a : Nat) (w : W64) : State :=
  let x := msgSubject w
  let b := msgSender w
  match dirTo a x with
  | none => s
  | some d =>
    let y := s.watch a d
    if (s.tile b).cordoned then s else
    let add (y : Watch) : Watch := { y with tally := y.tally ++ (if y.tally.contains b then [] else [b]) }
    match y.vote with
    | .clear => s.modWatch a d (fun y => { y with vote := .pending, tally := [b], window := cVotewin (s.att a).cfg })
    | .pending => s.modWatch a d add
    | .voting => tallyCheck (s.modWatch a d add) a d x
    | .cordoned => s

/-- ACCUSE. -/
def accuse (s : State) (a link : Nat) : State := withMessage s a link mACCUSE (fun w s => accusation s a w)
/-- VOTE. -/
def voteMsg (s : State) (a link : Nat) : State := withMessage s a link mVOTE (fun w s => accusation s a w)

/-- A tally without a voter: CLEAR when a pending one is empty. -/
def Watch.without (y : Watch) (b : Nat) : Watch :=
  let t := y.tally.filter (fun v => v != b)
  match y.vote with
  | .pending => { y with tally := t, vote := if t.isEmpty then .clear else .pending, window := if t.isEmpty then 0 else y.window }
  | .voting => { y with tally := t }
  | _ => y

/-- WITHDRAW: what is left of the tally is judged again. -/
def withdraw (s : State) (a link : Nat) : State :=
  withMessage s a link mWITHDRAW (fun w s =>
    match dirTo a (msgSubject w) with
    | some d => tallyCheck (s.modWatch a d (fun y => y.without (msgSender w))) a d (msgSubject w)
    | none => s)

/-- VOTE_WINDOW_END: a tally that reaches the majority of now still cordons. -/
def voteWindowEnd (s : State) (a d : Nat) : State :=
  let y := s.watch a d
  if y.window ≠ 0 then s
  else
    match y.vote with
    | .pending => s.modWatch a d (fun y => { y with vote := .clear, tally := [] })
    | .voting =>
      if (nbr a d).any (fun x => reaches s x y.tally.length) then tallyCheck s a d ((nbr a d).getD 0)
      else
      (s.modWatch a d (fun y => { y with
        vote := .clear, tally := [], misses := 0, anoms := [], evid := 0, since := 0 })).modAtt a
        (fun x => { x with falseacc := min 0xFFFF (x.falseacc + 1) })
    | _ => s

/-! ### Heartbeats (R293, R294) -/

/-- The DIGEST of a heartbeat (R292, spec/19 R332). -/
def digest (s : State) (p : Nat) : Nat :=
  let t := s.tile p
  ((s.att p).sig != s.golden).toNat * 2 ^ 15 + t.tempcls % 4 * 2 ^ 13 +
    (t.errThr != 0 && t.errThr ≤ t.corrBeat).toNat * 2 ^ 12 + min 0xFFF t.corrBeat

/-- HEARTBEAT_SEND: every HBP cycles; a new ATTCFG is taken up (R301). -/
def heartbeatSend (s : State) (p : Nat) : State :=
  if !s.up || (s.att p).toBeat ≠ 0 then s
  else
    let w := message mHEARTBEAT p ((s.att p).seq.toNat * 65536 + digest s p)
    let s := sendAll s p (nbrs p) w
    let c := s.attcfg
    (s.modAtt p (fun a => { a with seq := a.seq + 1, toBeat := cHbp c, cfg := c })).modTile p (fun t => { t with corrBeat := 0 })

/-- The anomalies of a heartbeat: too early, and a SEQ that does not follow. -/
def beatFaults (c : W64) (y : Watch) (seq : W32) : Nat :=
  match y.beat with
  | none => 0
  | some (t, q) => (decide (t < cHbp c - cHbslack c)).toNat + (seq != q + 1).toNat

/-- A valid heartbeat: misses go, and a vote for silence is withdrawn (R295). -/
def validBeat (s : State) (a d x : Nat) : State :=
  let y := s.watch a d
  let s := s.modWatch a d (fun y => { y with since := 0, misses := 0, evid := if y.evid = 1 then 0 else y.evid })
  if y.vote == .voting && y.reason == 1 then
    let s := sendAll s a (othersOf a x) (message mWITHDRAW a (aboutBody x 1))
    s.modWatch a d (fun y =>
      let t := y.tally.filter (fun v => v != a)
      { y with tally := t, vote := if t.isEmpty then .clear else .pending, window := if t.isEmpty then 0 else y.window })
  else s

/-- HEARTBEAT: a neighbour judges the sender. -/
def heartbeat (s : State) (a link : Nat) : State :=
  let before := ((s.watch a link).anoms.length, (s.watch a link).msgs)
  match receive s a link (fun t => t == mHEARTBEAT) with
  | none => s
  | some (w, s) =>
    match nbr a link with
    | none => s
    | some x =>
      let seq := w32 (bitsN w.toNat 16 32)
      let n := beatFaults (s.att a).cfg (s.watch a link) seq + (!msgOk w).toNat
      let flooded := decide (cMsglim (s.att a).cfg < before.2 + 1)
      let s := s.modWatch a link (fun y => { y with beat := some (0, seq) })
      if n = 0 && !flooded then validBeat s a link x else anomalies s a link n

/-- HEARTBEAT_MISS: a miss period has passed (R293); a heartbeat that has arrived comes first (spec/19 R334). -/
def heartbeatMiss (s : State) (a d : Nat) : State :=
  let c := (s.att a).cfg
  let y := s.watch a d
  if !s.up || (nbr a d).isNone || y.since < cHbp c + cHbslack c ||
      (tget [] (s.att a).bufs d).any (fun w => msgType w == mHEARTBEAT) then s
  else
    let s := s.modWatch a d (fun y => { y with misses := min 15 (y.misses + 1), since := 0, quiet := 0 })
    if cHbmiss c ≤ (s.watch a d).misses then gain s a d 1 else s

/-- EVIDENCE_LAPSE: VOTEWIN has passed without a miss or an anomaly; anomalies go after VOTEWIN without one (spec/19
R331). -/
def evidenceLapse (s : State) (a d : Nat) : State :=
  let n := cVotewin (s.att a).cfg
  s.modWatch a d (fun y => { y with
    anoms := if y.anoms.all (fun t => n ≤ t) then [] else y.anoms
    evid := if n ≤ y.quiet then 0 else y.evid })

/-! ### Cordon messages, self-test, appeal, readmission (R296 to R299) -/

/-- CORDON. -/
def cordonMsg (s : State) (a link : Nat) : State :=
  withMessage s a link mCORDON (fun w s =>
    let x := msgSubject w
    if !reaches s x (msgCount w) then blame s a w
    else
      match dirTo a x with
      | none => s
      | some d => if (s.watch a d).vote == .cordoned then s else disable s a d x (msgReason w))

/-- Whether no appeal of a tile is still under way: no window of its neighbours runs, and none of its appeals waits to
be received. -/
def appealOver (s : State) (x : Nat) : Bool :=
  (nbrs x).all (fun q => match dirTo q x with
    | some d => (s.watch q d).verdicts.isNone && !(tget [] (s.att q).bufs d).any (fun w => msgType w == mAPPEAL)
    | none => true)

/-- A tile's storage is scrubbed (R298, spec/13 R282). -/
def scrubTile (s : State) (x : Nat) : State :=
  let s := scrubSlice s x 0 393216
  let s := (List.range 16).foldl (fun s i => s.modQuad (quadOf x) (fun y => y.clear (16 * (x % 4) + i))) s
  s.modTile x (fun t => { t with l1 := [], scode := [], lcode := [], tlb := [], gated := [], gatedNow := [], waking := [] })

/-- SELF_TEST_COMPLETE: the signature stands, the tile is scrubbed, and it appeals. -/
def selfTestComplete (s : State) (x : Nat) : State :=
  let a := s.att x
  if !(s.tile x).cordoned || !a.testing || a.state = 3 || 3 ≤ a.appeals || !appealOver s x then s
  else
    let sig := Config.selfTest x (a.cordons * 4 + a.appeals + 1)
    let s := scrubTile s x
    let s := s.modAtt x (fun a => { a with sig := sig, testing := false, appeals := a.appeals + 1, state := 2 })
    sendAll s x (nbrs x) (message mAPPEAL x ((a.appeals + 1) * 2 ^ 48 + sig.toNat))

/-- A neighbour re-enables its link, and the tile returns empty (R299). -/
def enable (s : State) (a d x : Nat) : State :=
  let c := s.watch a d
  let s := s.modWatch a d (fun _ => { Watch.init with msgs := c.msgs, anoms := c.anoms })
  (s.modTile x (fun t => { t with cordoned := false })).modAtt x (fun y =>
    if y.state = 3 then y else { y with state := 0, testing := false })

/-- Accepting verdicts that reach the majority within the window. -/
def verdictCheck (s : State) (a d x : Nat) : State :=
  let y := s.watch a d
  if y.vote == .cordoned && y.verdicts.isSome && reaches s x y.accepts.length then
    let w := message mREADMIT a (attNo x * 2 ^ 44 + maskBody x y.accepts)
    sendAll (enable s a d x) a (x :: othersOf a x) w
  else s

/-- Add an accepting neighbour. -/
def Watch.accept (y : Watch) (b : Nat) : Watch :=
  { y with accepts := y.accepts ++ (if y.accepts.contains b then [] else [b]) }

/-- APPEAL. -/
def appeal (s : State) (a link : Nat) : State :=
  withMessage s a link mAPPEAL (fun w s =>
    let x := msgSender w
    match dirTo a x with
    | none => s
    | some d =>
      if (s.watch a d).vote != .cordoned then s
      else
        let ok := w32 w.toNat == s.golden && 1 ≤ bitsN w.toNat 48 4 && bitsN w.toNat 48 4 ≤ 3
        let others := (liveNbrs s x).filter (fun q => q != a)
        let s := sendAll s a others (message mVERDICT a (attNo x * 2 ^ 44 + ok.toNat * 2 ^ 43))
        let s := s.modWatch a d (fun y => { y with
          accepts := if ok then [a] else [], verdicts := some (cVotewin (s.att a).cfg) })
        verdictCheck s a d x)

/-- VERDICT, which counts while the window runs. -/
def verdict (s : State) (a link : Nat) : State :=
  withMessage s a link mVERDICT (fun w s =>
    let x := msgSubject w
    match dirTo a x with
    | none => s
    | some d =>
      if (s.watch a d).vote != .cordoned || (s.watch a d).verdicts.isNone || (s.tile (msgSender w)).cordoned then s
      else if w.getLsbD 43 then verdictCheck (s.modWatch a d (fun y => y.accept (msgSender w))) a d x
      else s)

/-- READMIT. -/
def readmitMsg (s : State) (a link : Nat) : State :=
  withMessage s a link mREADMIT (fun w s =>
    let x := msgSubject w
    if !reaches s x (msgCount w) then blame s a w
    else
      match dirTo a x with
      | none => s
      | some d => if (s.watch a d).vote == .cordoned then enable s a d x else s)

/-- APPEAL_WINDOW_END: below the majority of now the tile stays cordoned; once no window runs it tests itself again, and it retires when its third
appeal has failed (R299, R300). -/
def appealWindowEnd (s : State) (a d : Nat) : State :=
  match nbr a d, (s.watch a d).verdicts with
  | some x, some 0 =>
    if reaches s x (s.watch a d).accepts.length then verdictCheck s a d x else
    let s := s.modWatch a d (fun y => { y with verdicts := none, accepts := [] })
    if !(s.tile x).cordoned || !appealOver s x || (s.att x).state = 3 then s
    else if 3 ≤ (s.att x).appeals then retireTile s x
    else s.modAtt x (fun y => { y with state := 1, testing := true })
  | _, _ => s

/-- UNASSIGNED_MESSAGE: an anomaly against its sender (R294). -/
def unassignedMessage (s : State) (a link : Nat) : State :=
  match receive s a link (fun t => t == 0 || decide (9 ≤ t)) with
  | none => s
  | some (w, s) => blame s a w

/-! ### Judging again (R290, R294 to R296, R299) -/

/-- What an attendant must do about a neighbour because of what another event changed: a tally or the verdicts reach the majority
of now, an anomaly at a full buffer has made the evidence of babbling, or all live neighbours of the tile have disabled their
links. -/
inductive Due where
  | vote (a d x : Nat)
  | verdict (a d x : Nat)
  | babble (a d : Nat)
  | cordon (x reason : Nat)
  deriving DecidableEq, Repr

def dueOf (s : State) (a d x : Nat) (w : Watch) : Option Due :=
  let c := (s.att a).cfg
  if w.vote == .voting && reaches s x w.tally.length then some (.vote a d x)
  else if w.vote == .cordoned && w.verdicts.isSome && reaches s x w.accepts.length then some (.verdict a d x)
  else if w.vote != .cordoned && w.evid != 2 && w.anoms.head? == some 0 &&
      cBablim c ≤ (w.anoms.filter (fun t => t ≤ cVotewin c)).length then some (.babble a d)
  else if !w.link && !(s.tile x).cordoned && !(liveNbrs s x).isEmpty &&
      (liveNbrs s x).all (fun q => (dirTo q x).all (fun e => !(s.watch q e).link)) then some (.cordon x w.reason)
  else none

def nextDue (s : State) : Option Due :=
  s.atts.findSome? (fun (e : Nat × Attendant) => e.2.watch.findSome? (fun (w : Nat × Watch) =>
    (nbr e.1 w.1).bind (fun x => dueOf s e.1 w.1 x w.2)))

/-- After a step of an attendant: what has fallen due is done, at most n times. -/
def settleVotes : Nat → State → State
  | 0, s => s
  | n + 1, s =>
    match nextDue s with
    | none => s
    | some (.vote a d x) => settleVotes n (tallyCheck s a d x)
    | some (.verdict a d x) => settleVotes n (verdictCheck s a d x)
    | some (.babble a d) => settleVotes n (gain s a d 2)
    | some (.cordon x r) => settleVotes n (cordonTile s x r)

/-- ATTSTAT (R301). -/
def attstat (s : State) (p : Nat) : Nat :=
  let a := s.att p
  let lonely := [0, 1, 2, 3].foldl (fun m d =>
    match nbr p d with
    | some x => if (s.watch p d).evid != 0 && (liveNbrs s x).length < 2 then m + 2 ^ d else m
    | none => m) 0
  a.reason % 4 + a.state * 2 ^ 8 + a.appeals * 2 ^ 10 + a.cordons * 2 ^ 12 + lonely * 2 ^ 16 + a.falseacc * 2 ^ 32

/-- One cycle of a tile passes for its attendant. -/
def Watch.tick (w : Watch) (newPeriod : Bool) : Watch :=
  { w with
    since := w.since + 1
    beat := w.beat.map (fun b => (b.1 + 1, b.2))
    anoms := w.anoms.map (· + 1)
    quiet := w.quiet + 1
    msgs := if newPeriod then 0 else w.msgs
    window := w.window - 1
    verdicts := w.verdicts.map (fun n => n - 1) }

def Attendant.tick (p : Nat) (a : Attendant) : Attendant :=
  let next := decide (cHbp a.cfg ≤ a.period + 1)
  { a with
    toBeat := a.toBeat - 1
    period := if next then 0 else a.period + 1
    watch := (nbrDirs p).foldl (fun t d => tset t d ((tget Watch.init t d).tick next)) a.watch }

end Sys2Proof.Machine
end

