-- ==== Sys2Proof/Machine/Sha.lean ====
section
/-!
DEFINITION. SHA-512, and the making and the check of an RSASSA-PSS signature with RSA-4096, MGF1 with SHA-512 and a salt of 64 bytes (spec/20 R344,
R345). The spec takes both by name: the functions are those of FIPS 180-4 and RFC 8017 (log entry 13).
-/
namespace Sys2Proof.Machine

/-! ### SHA-512 -/

/-- The round constants. -/
def shaK0 : List W64 := [
  0x428A2F98D728AE22, 0x7137449123EF65CD, 0xB5C0FBCFEC4D3B2F, 0xE9B5DBA58189DBBC, 0x3956C25BF348B538,
  0x59F111F1B605D019, 0x923F82A4AF194F9B, 0xAB1C5ED5DA6D8118, 0xD807AA98A3030242, 0x12835B0145706FBE,
  0x243185BE4EE4B28C, 0x550C7DC3D5FFB4E2, 0x72BE5D74F27B896F, 0x80DEB1FE3B1696B1, 0x9BDC06A725C71235,
  0xC19BF174CF692694, 0xE49B69C19EF14AD2, 0xEFBE4786384F25E3, 0x0FC19DC68B8CD5B5, 0x240CA1CC77AC9C65]
def shaK1 : List W64 := [
  0x2DE92C6F592B0275, 0x4A7484AA6EA6E483, 0x5CB0A9DCBD41FBD4, 0x76F988DA831153B5, 0x983E5152EE66DFAB,
  0xA831C66D2DB43210, 0xB00327C898FB213F, 0xBF597FC7BEEF0EE4, 0xC6E00BF33DA88FC2, 0xD5A79147930AA725,
  0x06CA6351E003826F, 0x142929670A0E6E70, 0x27B70A8546D22FFC, 0x2E1B21385C26C926, 0x4D2C6DFC5AC42AED,
  0x53380D139D95B3DF, 0x650A73548BAF63DE, 0x766A0ABB3C77B2A8, 0x81C2C92E47EDAEE6, 0x92722C851482353B]
def shaK2 : List W64 := [
  0xA2BFE8A14CF10364, 0xA81A664BBC423001, 0xC24B8B70D0F89791, 0xC76C51A30654BE30, 0xD192E819D6EF5218,
  0xD69906245565A910, 0xF40E35855771202A, 0x106AA07032BBD1B8, 0x19A4C116B8D2D0C8, 0x1E376C085141AB53,
  0x2748774CDF8EEB99, 0x34B0BCB5E19B48A8, 0x391C0CB3C5C95A63, 0x4ED8AA4AE3418ACB, 0x5B9CCA4F7763E373,
  0x682E6FF3D6B2B8A3, 0x748F82EE5DEFB2FC, 0x78A5636F43172F60, 0x84C87814A1F0AB72, 0x8CC702081A6439EC]
def shaK3 : List W64 := [
  0x90BEFFFA23631E28, 0xA4506CEBDE82BDE9, 0xBEF9A3F7B2C67915, 0xC67178F2E372532B, 0xCA273ECEEA26619C,
  0xD186B8C721C0C207, 0xEADA7DD6CDE0EB1E, 0xF57D4F7FEE6ED178, 0x06F067AA72176FBA, 0x0A637DC5A2C898A6,
  0x113F9804BEF90DAE, 0x1B710B35131C471B, 0x28DB77F523047D84, 0x32CAAB7B40C72493, 0x3C9EBE0A15C9BEBC,
  0x431D67C49C100D4C, 0x4CC5D4BECB3E42B6, 0x597F299CFC657E2A, 0x5FCB6FAB3AD6FAEC, 0x6C44198C4A475817]

/-- The eight words that are hashed on. -/
structure Sha where
  a : W64
  b : W64
  c : W64
  d : W64
  e : W64
  f : W64
  g : W64
  h : W64
  deriving DecidableEq, Repr

def Sha.init : Sha := ⟨0x6A09E667F3BCC908, 0xBB67AE8584CAA73B, 0x3C6EF372FE94F82B, 0xA54FF53A5F1D36F1, 0x510E527FADE682D1, 0x9B05688C2B3E6C1F, 0x1F83D9ABFB41BD6B, 0x5BE0CD19137E2179⟩

def ror (x : W64) (n : Nat) : W64 := x >>> n ||| x <<< (64 - n)

/-- One round, with its constant and its word of the schedule. -/
def Sha.round (s : Sha) (k w : W64) : Sha :=
  let t := s.h + (ror s.e 14 ^^^ ror s.e 18 ^^^ ror s.e 41) + ((s.e &&& s.f) ^^^ (~~~s.e &&& s.g)) + k + w
  let u := (ror s.a 28 ^^^ ror s.a 34 ^^^ ror s.a 39) + ((s.a &&& s.b) ^^^ (s.a &&& s.c) ^^^ (s.b &&& s.c))
  ⟨t + u, s.a, s.b, s.c, s.d + t, s.e, s.f, s.g⟩

/-- Word i of the sixteen that a round looks at. -/
def wordAt (ws : List W64) (i : Nat) : W64 := (ws[i]?).getD 0

/-- The rounds of some constants; the schedule moves on by a word in each. -/
def shaRounds : List W64 → List W64 → Sha → Sha
  | [], _, s => s
  | k :: ks, ws, s =>
    let x := wordAt ws 1
    let y := wordAt ws 14
    let next := (ror y 19 ^^^ ror y 61 ^^^ y >>> 6) + wordAt ws 9 + (ror x 1 ^^^ ror x 8 ^^^ x >>> 7) + wordAt ws 0
    shaRounds ks (ws.tail ++ [next]) (s.round k (wordAt ws 0))

/-- The number of bytes, the first the most significant. -/
def beNat (bs : List Byte) : Nat := bs.foldl (fun n b => n * 256 + b.toNat) 0
def beBytes (n x : Nat) : List Byte := (leBytes n x).reverse

/-- A block of 128 bytes. -/
def Sha.block (s : Sha) (bs : List Byte) : Sha :=
  let ws := (List.range 16).map (fun i => w64 (beNat ((bs.drop (8 * i)).take 8)))
  let t := shaRounds (shaK0 ++ shaK1 ++ shaK2 ++ shaK3) ws s
  ⟨s.a + t.a, s.b + t.b, s.c + t.c, s.d + t.d, s.e + t.e, s.f + t.f, s.g + t.g, s.h + t.h⟩

/-- At most n blocks. -/
def Sha.blocks : Nat → List Byte → Sha → Sha
  | 0, _, s => s
  | n + 1, bs, s => if bs.isEmpty then s else Sha.blocks n (bs.drop 128) (s.block (bs.take 128))

/-- The 64 bytes of a digest, in order. -/
def shaBytes (bs : List Byte) : List Byte :=
  let n := bs.length
  let s := Sha.blocks (n / 128 + 2) (bs ++ [0x80#8] ++ List.replicate ((239 - n % 128) % 128) 0#8 ++ beBytes 16 (8 * n)) Sha.init
  [s.a, s.b, s.c, s.d, s.e, s.f, s.g, s.h].flatMap (fun w => beBytes 8 w.toNat)

/-- The digest as a value whose bytes, the least significant first, are those of the digest in order. -/
def sha512 (bs : List Byte) : BitVec 512 := BitVec.ofNat 512 (leNat 64 (shaBytes bs))

/-! ### RSASSA-PSS -/

/-- b to the power e modulo m; e has at most n bits. -/
def powMod (m : Nat) : Nat → Nat → Nat → Nat
  | 0, _, _ => 1 % m
  | n + 1, b, e => let r := powMod m n (b * b % m) (e / 2); if e % 2 = 1 then b * r % m else r

/-- MGF1 with SHA-512: n bytes. -/
def mgf1 (seed : List Byte) (n : Nat) : List Byte :=
  ((List.range ((n + 63) / 64)).flatMap (fun i => shaBytes (seed ++ beBytes 4 i))).take n

/-- Whether 512 bytes encode the digest of a message. -/
def pssOk (em digest : List Byte) : Bool :=
  let h := (em.drop 447).take 64
  let masked := em.take 447
  let db := (masked.zip (mgf1 h 447)).map (fun e => e.1 ^^^ e.2)
  let salt := db.drop 383
  (byteAt em 0).toNat < 128 && byteAt em 511 == 0xBC#8 &&
    ((byteAt db 0).toNat % 128 == 0) && ((db.take 382).drop 1).all (fun b => b == 0#8) && byteAt db 382 == 1#8 &&
    h == shaBytes (List.replicate 8 0#8 ++ digest ++ salt)

/-- The 512 bytes that encode a digest with a salt of 64 bytes. -/
def pssEncode (digest salt : List Byte) : List Byte :=
  let h := shaBytes (List.replicate 8 0#8 ++ digest ++ salt)
  let db := List.replicate 382 0#8 ++ 1#8 :: salt
  let masked := (db.zip (mgf1 h 447)).map (fun e => e.1 ^^^ e.2)
  (byteAt masked 0 &&& 127#8) :: masked.tail ++ h ++ [0xBC#8]

/-- The device's signature of a message, of 512 bytes, under its identity key (spec/20 R345). -/
def signed (message : List Byte) : List Byte :=
  let digest := shaBytes message
  let em := pssEncode digest (leBytes 64 (Config.signatureSalt digest).toNat)
  beBytes 512 (powMod Config.identityModulus.toNat 4096 (beNat em) Config.identityExponent.toNat)

/-- Whether a signature of 512 bytes over a message is good under a public key: the modulus of 512 bytes, then the exponent of 8, the
most significant byte of each first (log entry 13). -/
def signatureGood (signature key message : List Byte) : Bool :=
  let m := beNat (key.take 512)
  let s := beNat signature
  signature.length == 512 && key.length == 520 && 2 ^ 4095 ≤ m && s < m &&
    pssOk (beBytes 512 (powMod m 64 s (beNat (key.drop 512)))) (shaBytes message)

end Sys2Proof.Machine
end

