-- ==== Sys2Proof/Machine/HostCmd.lean ====
section
/-!
DEFINITION. The host: its transactions, the settings of the virtual interfaces, measurement and attestation, the commands of
the rings, and the loss scale (spec/20 R336 to R341, R345, R367; spec/17 R315, R316, R320; spec/15 R305 to R307; spec/18 R327,
R329). Log entry 49.
-/
namespace Sys2Proof.Machine

/-- A context of an interface. -/
def ctxOf (vif c : Nat) : Nat := vif * 16 + c

/-- A reply to the host. -/
def reply (s : State) (r : Sent) : State := { s with sent := s.sent ++ [r] }

/-! ### Transactions (R336) -/

/-- Whether a context of an enabled interface is there to be reached. -/
def reachable (s : State) (ctx : Nat) : Bool :=
  s.up && (s.vif (ctx / 16)).enabled && (s.ctx ctx).root != 0 && ctx < 1024

/-- MRD: 1 to 256 bytes of device memory through the translation of a context of the interface. A transaction that meets a bank
which still wakes is not answered yet: it stalls, and comes with a later turn (spec/13 R282). -/
def hostRead (s : State) (ctx va n : Nat) : State :=
  let ag := cpAgent ctx
  if !reachable s ctx || n = 0 || 256 < n then reply s (.ok false)
  else if rangeWakes s ag va n then s
  else
    match engCheck s ag false va n with
    | .ok _ => if engBad s ag va n then reply s (.ok false) else reply s (.data (engBytes s ag va n))
    | .bad _ => reply s (.ok false)
    | .poisoned => reply (pageError s ctx) (.ok false)

/-- MWR. -/
def hostWrite (s : State) (ctx va : Nat) (bs : List Byte) : State :=
  let ag := cpAgent ctx
  if !reachable s ctx || bs.isEmpty || 256 < bs.length then reply s (.ok false)
  else if rangeWakes s ag va bs.length then s
  else
    match engCheck s ag true va bs.length with
    | .ok _ => reply (storeBytes s ag false va bs) (.ok true)
    | .bad _ => reply s (.ok false)
    | .poisoned => reply (pageError s ctx) (.ok false)

/-- The operations and types of an atomic (spec/08 R162). -/
def atomOk (fn : AtomFn) (ty : Ty) : Bool :=
  match ty, fn with
  | .i32, _ | .n32, _ | .i64, _ | .n64, _ => true
  | .f32, .add | .f32, .min | .f32, .max | .f32, .xchg | .f32, .cas => true
  | _, _ => false

/-- MATOM: a 4- or 8-byte atomic at the port; the reply is the old value. -/
def hostAtom (s : State) (ctx va : Nat) (fn : AtomFn) (ty : Ty) (b c : W64) : State :=
  let ag := cpAgent ctx
  let n := tySize ty
  if !reachable s ctx || !atomOk fn ty then reply s (.ok false)
  else if rangeWakes s ag va n then s
  else
    match xlAccess s ag true true va n with
    | .ok k =>
      let (old, _, s') := atomAt s ag fn ty va b.toNat c.toNat true
      reply s' (if s.poison.contains (codeOf k) then .ok false else .data (leBytes n old))
    | .bad _ => reply s (.ok false)
    | .poisoned => reply (pageError s ctx) (.ok false)

/-- DBELL: the tail index of an interface's ring. -/
def doorbell (s : State) (vif : Nat) (tail : W32) : State :=
  if s.up && (s.vif vif).enabled then s.modVif vif (fun v => { v with tail := tail.toNat % 2 ^ v.ringK }) else s

/-! ### Interface settings (R338, R367) -/

/-- The stride-pattern entries that an interface may reach: as many as its setting and its register GPATCNT allow. -/
def Vif.patterns (v : Vif) : Nat := max v.gpatCnt v.gpatUse

/-- A window of stride-pattern entries lies in the table and apart from every other interface's. -/
def windowOk (s : State) (vif count first : Nat) : Bool :=
  count ≤ 16 && first ≤ 16 && first + count ≤ 16 &&
    !s.vifs.any (fun e => e.1 != vif && e.2.patterns != 0 && count != 0 &&
      decide (first < e.2.gpatFirst + e.2.patterns) && decide (e.2.gpatFirst < first + count))

/-- Whether a die's spare quad serves another quad. -/
def spareServes (s : State) (die : Nat) : Bool := (s.spareQuad die).any (fun n => n != 24)

/-- A context is created: what its quads are is fixed from then on, and never changes while work of the context is there (spec/00 R3,
spec/14 R300, spec/15 R308). -/
def createCtx (s : State) (ctx : Nat) (root : W64) : State :=
  let works := s.wgs.any (fun e => e.2.ctx == ctx) || s.launches.any (fun e => e.2.ctx == ctx)
  s.modCtx ctx (fun c => if c.root = 0 && root != 0 && !works then
      { c with root := root, spare0 := spareServes s 0, spare1 := spareServes s 1, noQuads := s.noQuads }
    else { c with root := root })

/-- A setting with a value in its range; none where it is refused. A ring, a pool or a root table that does not lie in the
device's HBM is out of range (log entry 64). -/
def setSetting (s : State) (vif : Nat) (x : VifSetting) (n : Nat) : Option State :=
  let v := s.vif vif
  let put (ok : Bool) (f : Vif → Vif) : Option State := if ok then some (s.modVif vif f) else none
  match x with
  | .ringBase => put (n % 64 == 0 && n + 64 * 2 ^ v.ringK ≤ hbmSize) (fun v => { v with ringBase := w64 n })
  | .ringSize => put (6 ≤ n && n ≤ 16 && v.ringBase.toNat + 64 * 2 ^ n ≤ hbmSize) (fun v => { v with ringK := n })
  | .faultBase => put (n % 32 == 0 && n + 32 * 2 ^ v.faultK ≤ hbmSize) (fun v => { v with faultBase := w64 n })
  | .faultSize => put (4 ≤ n && n ≤ 16 && v.faultBase.toNat + 32 * 2 ^ n ≤ hbmSize) (fun v => { v with faultK := n })
  | .gpatCnt => put (windowOk s vif n v.gpatFirst) (fun v => { v with gpatCnt := n, gpatUse := n })
  | .gpatFirst => put (windowOk s vif v.patterns n) (fun v => { v with gpatFirst := n })
  | .poolBase => put (n + 65536 * v.poolSlots ≤ hbmSize) (fun v => { v with poolBase := w64 n })
  | .poolSlots => put (n ≤ 65536 && v.poolBase.toNat + 65536 * n ≤ hbmSize) (fun v => { v with poolSlots := n })
  | .saveBase => put (n < 2 ^ 64) (fun v => { v with saveBase := w64 n })
  | .saveSize => put (n < 2 ^ 64) (fun v => { v with saveSize := n })
  | .share0 => put (1 ≤ n && n ≤ 96) (fun v => { v with share0 := n })
  | .share1 => put (1 ≤ n && n ≤ 96) (fun v => { v with share1 := n })
  | .root c => if c < 16 && n % 65536 == 0 && n + 65536 ≤ hbmSize then some (createCtx s (ctxOf vif c) (w64 n)) else none

/-- What an enabled interface always has. -/
def enableOk (v : Vif) : Bool :=
  v.ringBase != 0 && 6 ≤ v.ringK && v.ringK ≤ 16 && v.faultBase != 0 && 4 ≤ v.faultK && v.faultK ≤ 16 &&
    v.saveBase != 0 && v.saveSize != 0 && 1 ≤ v.share0 && v.share0 ≤ 96 && 1 ≤ v.share1 && v.share1 ≤ 96

/-! ### Measurement and attestation (R345) -/

def State.measured (s : State) (i : Nat) : BitVec 512 := tget 0 s.meas i

/-- MEAS ← SHA-512(MEAS ‖ digest). -/
def extend (s : State) (i : Nat) (d : BitVec 512) : State :=
  { s with meas := tset s.meas i (sha512 (leBytes 64 (s.measured i).toNat ++ leBytes 64 d.toNat)) }

/-- The settings of an interface as they are measured, in a layout of the model's (log entry 13). -/
def settingBytes (s : State) (vif : Nat) : List Byte :=
  let v := s.vif vif
  leBytes 8 v.ringBase.toNat ++ leBytes 8 v.ringK ++ leBytes 8 v.faultBase.toNat ++ leBytes 8 v.faultK ++
    leBytes 8 v.gpatCnt ++ leBytes 8 v.gpatFirst ++ leBytes 8 v.poolBase.toNat ++ leBytes 8 v.poolSlots ++
    leBytes 8 v.saveBase.toNat ++ leBytes 8 v.saveSize ++ leBytes 8 v.share0 ++ leBytes 8 v.share1 ++
    (List.range 16).flatMap (fun c => leBytes 8 (s.ctx (ctxOf vif c)).root.toNat)

/-- An attestation report and its signature; their layout is the model's (log entry 13). -/
def attestation (s : State) (nonce : BitVec 512) (ctx : Nat) : List Byte :=
  let r := leBytes 64 nonce.toNat ++ (List.range 8).flatMap (fun i => leBytes 64 (s.measured i).toNat) ++
    leBytes 8 s.version ++ leBytes 8 (capDev s ctx)
  r ++ signed r

/-- MGMT (R336, R338, R344, R345, R346, R367): in recovery, and before bring-up is done, only the status is answered. -/
def manage (s : State) (c : MgmtCmd) (ctx : Nat) : State :=
  let no := reply s (.ok false)
  match c with
  | .status => reply s (.data (leBytes 8 (Config.freeWord (s.freeIx 0)).toNat))
  | c =>
    if !s.up || s.inRecovery then no
    else
      match c with
      | .status => no
      | .set v x n =>
        if 64 ≤ v || (s.vif v).enabled then no
        else
          match setSetting s v x n with
          | some s' => reply s' (.ok true)
          | none => no
      | .enable v =>
        if 64 ≤ v || (s.vif v).enabled || !enableOk (s.vif v) then no
        else
          let s := extend s 3 (sha512 (settingBytes s v))
          reply (s.modVif v (fun v => { v with
            enabled := true, head := 0, tail := 0, waiting := none, faultHead := 0, drops := 0 })) (.ok true)
      | .disable v =>
        if (s.vif v).enabled then reply (s.modVif v (fun v => { v with enabled := false })) (.ok true) else no
      | .extend i d => if 4 ≤ i && i ≤ 7 then reply (extend s i d) (.ok true) else no
      | .attest nonce => reply s (.data (attestation s nonce ctx))

/-! ### The command ring (R315, R339) -/

def cmdOp (w : Nat) : Nat := bitsN w 0 8
def cmdCtx (w : Nat) : Nat := bitsN w 8 4
def cmdA0 (w : Nat) : Nat := bitsN w 64 64
def cmdA1 (w : Nat) : Nat := bitsN w 128 64
def cmdA2 (w : Nat) : Nat := bitsN w 192 64
def cmdSignal (w : Nat) : W64 := w64 (bitsN w 448 64)

/-- The place of the slot at an interface's head, in physical HBM. -/
def slotPlace (v : Vif) : Nat := v.ringBase.toNat + 64 * (v.head % 2 ^ v.ringK)

/-- The next command of an interface's ring, when the command processor reads it. -/
def nextSlot (s : State) (vif : Nat) : Option Nat :=
  let v := s.vif vif
  if s.up && v.enabled && v.waiting.isNone && v.head != v.tail then some (memNat s.view (slotPlace v) 64) else none

/-- Go past the command at the head. -/
def popSlot (s : State) (vif : Nat) : State := s.modVif vif (fun v => { v with head := (v.head + 1) % 2 ^ v.ringK })

def stCMD_BAD : Nat := 4
def stCTX_STOPPED : Nat := 5

/-- What a command comes to: it is done with a status; it waits, and the ring with it; or it has been taken and its
signal follows later. -/
inductive CmdEnd where
  | done (s : State) (st : Nat)
  | stays (s : State)
  | later (s : State)
  deriving Repr

/-- Why a slot is refused whatever its command: an unassigned OP, a reserved bit, a context that does not exist. -/
def slotBad (s : State) (vif w : Nat) : Bool :=
  cmdOp w = 0 || 10 < cmdOp w || bitsN w 12 52 != 0 || bitsN w 256 192 != 0 || (s.ctx (ctxOf vif (cmdCtx w))).root = 0 ||
    !targetOk (cmdSignal w)

/-- The next command of a ring, when its OP is `op` or a slot is refused whatever its command (R339). The slot that
holds an uncorrectable error is refused too. -/
def ringStep (s : State) (vif op : Nat) (f : Nat → Nat → CmdEnd) : State :=
  match nextSlot s vif with
  | none => s
  | some w =>
    let ctx := ctxOf vif (cmdCtx w)
    let k := slotPlace (s.vif vif)
    if anyPoison s ((List.range 8).map (fun i => k + 8 * i)) then popSlot s vif
    else if targetWakes s (cpAgent ctx) (cmdSignal w) then s
    else if slotBad s vif w then cmdSignalled (popSlot s vif) ctx (cmdSignal w) stCMD_BAD
    else if cmdOp w ≠ op then s
    else if (s.ctx ctx).stopped && op != 10 then cmdSignalled (popSlot s vif) ctx (cmdSignal w) stCTX_STOPPED
    else
      match f ctx w with
      | .done s' st => cmdSignalled (popSlot s' vif) ctx (cmdSignal w) st
      | .stays s' => s'
      | .later s' => popSlot s' vif

/-- A refused command (R339). -/
def refuse (s : State) : CmdEnd := .done s stCMD_BAD

/-! ### LAUNCH, SIGNAL, WAIT -/

/-- LAUNCH: a descriptor that cannot be read is refused as well (R19, R316). -/
def cmdLaunch (s : State) (ctx w : Nat) : CmdEnd :=
  let addr := cmdA0 w
  if addr % 64 ≠ 0 then .done s stDESC_BAD
  else if rangeWakes s (cpAgent ctx) addr 64 then .stays s
  else
    match cpRead s ctx addr 64 with
    | none => .done s stDESC_BAD
    | some bs =>
      match acceptLaunch s ctx addr (leNat 64 bs) none with
      | .taken s' => .done s' 0
      | .refused s' => .done s' stDESC_BAD
      | .full => .stays s

/-- SIGNAL: a signal of system scope. -/
def cmdSend (s : State) (ctx w : Nat) : CmdEnd :=
  let t := w64 (cmdA0 w)
  if !targetOk t then refuse s
  else if targetWakes s (cpAgent ctx) t then .stays s
  else .done (signal s (cpSource ctx) t (cmdA1 w % 2 ^ 48) (cmdA1 w / 2 ^ 48)) 0

/-- A completion object as the command processor reads it. -/
def objRead (s : State) (ctx va : Nat) : Option Nat :=
  match xlAccess s (cpAgent ctx) false true va 8 with
  | .ok k => if anyPoison s [k] then none else some (memNat s.view k 8)
  | _ => none

/-- WAIT: the ring is not read further until the object's condition holds. -/
def cmdWait (s : State) (vif ctx w : Nat) : CmdEnd :=
  let va := cmdA0 w
  let n := cmdA1 w
  if 2 ^ 48 ≤ n then refuse s
  else if rangeWakes s (cpAgent ctx) va 8 then .stays s
  else
    match objRead s ctx va with
    | none => refuse s
    | some x =>
      if cwaitMet x n then .done s 0
      else .later (s.modVif vif (fun v => { v with waiting := some ⟨w64 va, ctx, n, cmdSignal w⟩ }))

/-- WAIT_RESUME. -/
def waitResume (s : State) (vif : Nat) : State :=
  match (s.vif vif).waiting with
  | none => s
  | some r =>
    match objRead s r.ctx r.obj.toNat with
    | some x =>
      if s.up && (s.vif vif).enabled && cwaitMet x r.count && !rangeWakes s (cpAgent r.ctx) r.obj.toNat 8 &&
          !targetWakes s (cpAgent r.ctx) r.sig then
        cmdSignalled (s.modVif vif (fun v => { v with waiting := none })) r.ctx r.sig 0
      else s
    | none => s

/-! ### WRREG, DEPTH (R303, R305 to R307, R329) -/

/-- The dies that a mask names. -/
def diesOf (m : Nat) : List Nat := [0, 1].filter (fun d => m.testBit d)

/-- An f32 power of two from 2^-126 to 2^127. -/
def scaleWord (v : Nat) : Bool := v / 2 ^ 31 == 0 && v % 2 ^ 23 == 0 && 1 ≤ v / 2 ^ 23 && v / 2 ^ 23 ≤ 254

/-- A context register; none where the value or the number is refused. GPATCNT takes 0 to 16 (R306) as long as the
entries stay apart from other interfaces' (spec/20 R338); the interface's setting stays, since MGMT alone changes it (spec/20 R367; log
entry 69). -/
def writeCtxReg (s : State) (ctx num v : Nat) : Option State :=
  let put (ok : Bool) (f : Context → Context) : Option State := if ok then some (s.modCtx ctx f) else none
  match num with
  | 0x060 => put (v / 2 ^ 8 == 0) (fun c => { c with contain := w64 v })
  | 0x061 => put (v / 2 ^ 48 == 0) (fun c => { c with wdlim := w64 v })
  | 0x062 => put (v / 2 ^ 48 == 0) (fun c => { c with extlim := w64 v })
  | 0x063 => put (scaleWord v) (fun c =>
      if c.stepOpen then { c with lscaleHeld := some (w32 v) }
      else { c with lscale := w32 v, lscnt := if c.lscale = w32 v then c.lscnt else 0 })
  | 0x064 => put (v / 2 ^ 32 == 0 && v != 0) (fun c => { c with lsn := w32 v })
  | 0x067 =>
    if windowOk s (ctx / 16) v (s.vif (ctx / 16)).gpatFirst then some (s.modVif (ctx / 16) (fun x => { x with gpatUse := v })) else none
  | _ => none

/-- SPECDEPTH, BFQTHR or BFQMAX of a context on a die. -/
def writeDieReg (s : State) (k num v : Nat) : Option State :=
  let x := s.dctx k
  match num with
  | 0x044 => if 1 ≤ v && v ≤ 128 then some (s.modDctx k (fun x => { x with specdepth := v })) else none
  | 0x045 => if 1 ≤ v && v ≤ 4096 && v ≤ x.bfqmax then some (formDue (s.modDctx k (fun x => { x with bfqthr := v })) k) else none
  | 0x046 => if v ≤ 4096 && x.bfqthr ≤ v then some (formDue (s.modDctx k (fun x => { x with bfqmax := v })) k) else none
  | _ => none

/-- A Cabinet register of a context on a die (spec/12 R251). -/
def writeDdReg (s : State) (k : Nat) (ag : Agent) (num : Nat) (v : W64) : DdWrite :=
  let checked (bad : Option Cause) (w : DdWrite) : DdWrite :=
    match bad with
    | some c => .cause c
    | none => w
  match num with
  | 0x040 => checked (ddbaseBad v) (writeDdbase s k v)
  | 0x041 => checked (ddcapBad v) (writeDdcap s k ag v)
  | 0x042 => checked (vobaseBad v) (writeVobase s k ag v)
  | _ => checked (vocountBad v) (writeVocount s k ag v)

/-- The Cabinet registers of some dies in turn, as an `srw` writes each: the state, the status of the first memory fault,
and whether a value was refused. -/
def writeDdAll (ctx num : Nat) (v : W64) : List Nat → State → Nat → State × Nat × Bool
  | [], s, st => (s, st, false)
  | d :: ds, s, st =>
    match writeDdReg s (dctxKey d ctx) (cpAgent ctx) num v with
    | .done s' => writeDdAll ctx num v ds s' st
    | .lost s' => writeDdAll ctx num v ds s' (if st = 0 then 0x20 else st)
    | .cause c =>
      if c = cRESERVED_NONZERO || c = cDD_OPERAND then (s, st, true)
      else writeDdAll ctx num v ds s (if st = 0 then 0x8000 + c.toNat else st)

/-- The marker of a context's WRREG of a Cabinet register, which waits its turn as an exclusive operation (spec/12 R251, R255). -/
def ringMark (ctx : Nat) (c : DdCmd) : Bool := c.op = 14 && c.ctx = ctx

/-- It stands in the queues of some dies from now on. -/
def markRing (s : State) (ctx : Nat) (ds : List Nat) : State :=
  ds.foldl (fun s d =>
    if (s.die d).cab.any (ringMark ctx) then s
    else s.modDie d (fun x => { x with cab := x.cab ++ [⟨14, 0, 0, 0, 0, 2 ^ 40, 2 ^ 40, ctx, 2 ^ 40, 0, none, none⟩] })) s

def unmarkRing (s : State) (ctx : Nat) (ds : List Nat) : State :=
  ds.foldl (fun s d => s.modDie d (fun x => { x with cab := x.cab.filter (fun c => !ringMark ctx c) })) s

/-- WRREG. -/
def cmdWrreg (s : State) (ctx w : Nat) : CmdEnd :=
  let num := cmdA0 w
  let v := cmdA1 w
  let ds := diesOf (cmdA2 w % 4)
  if 0x040 ≤ num && num ≤ 0x043 then
    if ds.isEmpty || 4 ≤ cmdA2 w then refuse s
    else if !ds.all (fun d => ddFree s d ctx (ringMark ctx)) then .stays (markRing s ctx ds)
    else
      match writeDdAll ctx num (w64 v) ds (unmarkRing s ctx ds) 0 with
      | (_, _, true) => refuse (unmarkRing s ctx ds)
      | (s', st, false) => .done s' st
  else if 0x044 ≤ num && num ≤ 0x046 then
    if ds.isEmpty || 4 ≤ cmdA2 w then refuse s
    else
      match ds.foldl (fun (o : Option State) d => o.bind (fun s => writeDieReg s (dctxKey d ctx) num v)) (some s) with
      | some s' => .done s' 0
      | none => refuse s
  else
    match writeCtxReg s ctx num v with
    | some s' => .done s' 0
    | none => refuse s

/-- DEPTH: the 16 entries on each die that the mask names. -/
def cmdDepth (s : State) (ctx w : Nat) : CmdEnd :=
  let ds := diesOf (cmdA2 w % 4)
  let es := (List.range 16).map (fun i => bitsN (cmdA0 w + cmdA1 w * 2 ^ 64) (8 * i) 8)
  if ds.isEmpty || 4 ≤ cmdA2 w || es.any (fun e => decide (128 < e)) then refuse s
  else .done (ds.foldl (fun s d => s.modDctx (dctxKey d ctx) (fun x => { x with depth := es })) s) 0

/-! ### INVAL, PAGEWR, CTXRESET -/

/-- The translations that `hit` names, by their key and entry, leave the caches of every tile and die (spec/18 R327). -/
def dropWalks (s : State) (hit : Nat × W64 → Bool) : State :=
  { s with
    tiles := s.tiles.map (fun (e : Nat × Tile) => (e.1, { e.2 with tlb := e.2.tlb.filter (fun x => !hit x) }))
    dies := s.dies.map (fun (e : Nat × Die) => (e.1, { e.2 with walks := e.2.walks.filter (fun x => !hit x) })) }

/-- INVAL: no cache holds a translation of the range any more. -/
def cmdInval (s : State) (ctx w : Nat) : CmdEnd :=
  let a := cmdA0 w
  let n := cmdA1 w
  if spaceStep < a + n then refuse s
  else
    .done (dropWalks s (fun x => x.1 / 2 ^ 36 == ctx && decide (x.1 % 2 ^ 36 * 65536 < a + n) &&
      decide (a < (x.1 % 2 ^ 36 + 1) * 65536))) 0

/-- Move n bytes of a context's memory into a page at a place: every source byte as it stands. -/
def fillPage (s : State) (ctx src dst n : Nat) : State :=
  let s := settle s
  let out := s.mem.filter (fun c => !(decide (dst ≤ c.1) && decide (c.1 < dst + n)))
  let moved := (piecesOf src n).flatMap (fun p =>
    match xlByte s (cpAgent ctx) false p.1 with
    | .ok k => (s.mem.filter (fun c => decide (k ≤ c.1) && decide (c.1 < k + p.2))).map (fun c => (c.1 - k + (p.1 - src) + dst, c.2))
    | _ => [])
  { s with
    mem := moved.foldl (fun m c => memPut m c.1 c.2) out
    poison := s.poison.filter (fun g => !(decide (dst ≤ 8 * g) && decide (8 * g < dst + n))) }

/-- PAGEWR: the whole page is rewritten, and its QUAR cleared (spec/13 R287). A page past the device's HBM is refused (log entry
64). -/
def cmdPagewr (s : State) (ctx w : Nat) : CmdEnd :=
  match (ctxPages s ctx).find? (fun p => p.va == cmdA0 w) with
  | none => refuse s
  | some p =>
    let src := cmdA1 w
    if rangeWakes s (cpAgent ctx) src p.size then .stays s
    else if (rangeFault s (cpAgent ctx) false src p.size).isSome || spaceStep < src + p.size ||
        (typeOf (pteKey p.pte p.va) == .hbm && decide (hbmSize < pteKey p.pte p.va + p.size)) ||
        (piecesOf src p.size).any (fun u => match xlByte s (cpAgent ctx) false u.1 with
          | .ok k => s.poison.any (fun g => decide (k < 8 * g + codeSize (8 * g)) && decide (8 * g < k + u.2))
          | _ => true) then refuse s
    else
      .done (dropWalks (setQuar (fillPage s ctx src (pteKey p.pte p.va) p.size) p false)
        (fun x => p.units.contains (pteKey x.2.toNat 0 / 65536))) 0

/-- CTXRESET: all work of the context ends, and its queues start again. -/
def cmdCtxreset (s : State) (ctx : Nat) : CmdEnd :=
  .done ((killContext s ctx).modCtx ctx (fun c => { c with stopped := false, dying := false })) 0

/-! ### Loss scale (R341) -/

def cmdStepbegin (s : State) (ctx : Nat) : CmdEnd :=
  if (s.ctx ctx).stepOpen then refuse s
  else .done (s.modCtx ctx (fun c => { c with stepOpen := true, lsovf := false })) 0

/-- STEPEND: the step closes once every launch of the context that was accepted before has completed. -/
def cmdStepend (s : State) (ctx w : Nat) : CmdEnd :=
  let c := s.ctx ctx
  if !c.stepOpen || c.stepClosing then refuse s
  else .later (s.modCtx ctx (fun c => { c with stepClosing := true, stepMark := s.nextLaunch, stepSig := cmdSignal w }))

/-- The update at the end of a step. -/
def Context.stepUpdate (c : Context) : Context :=
  let halved := if c.lscale.toNat / 2 ^ 23 ≤ 1 then c.lscale else c.lscale - 0x800000
  let doubled := if 254 ≤ c.lscale.toNat / 2 ^ 23 then c.lscale else c.lscale + 0x800000
  let cnt := min (2 ^ 32 - 1) (c.lscnt.toNat + 1)
  let c :=
    if c.lsovf then { c with lscale := halved, lscnt := 0 }
    else if c.lsn.toNat ≤ cnt then { c with lscale := doubled, lscnt := 0 }
    else { c with lscnt := w32 cnt }
  let c := match c.lscaleHeld with
    | some v => { c with lscale := v, lscnt := 0, lscaleHeld := none }
    | none => c
  { c with lsovf := false, stepOpen := false, stepClosing := false }

/-- LOSS_SCALE_UPDATE. -/
def lossScaleUpdate (s : State) (ctx : Nat) : State :=
  let c := s.ctx ctx
  if !c.stepClosing || targetWakes s (cpAgent ctx) c.stepSig || s.launches.any (fun e => e.2.ctx == ctx && e.2.status.isNone && decide (e.1 < c.stepMark)) then s
  else cmdSignalled (s.modCtx ctx Context.stepUpdate) ctx c.stepSig 0

end Sys2Proof.Machine
end

