-- ==== Sys2Proof/Machine/Uses.lean ====
section
/-!
DEFINITION. The registers and predicates that an instruction names: what REG_RANGE, the interlocks, the
checking scoreboard and the body checks look at (spec/02 R39, spec/05 R92, R107, spec/06 R110, spec/11 R234).
-/
namespace Sys2Proof.Machine

/-- Vector registers read and written, lane predicates read and written, scalar registers and scalar
predicates read, and those written; the pairs of 64-bit types stand as two registers. -/
structure Use where
  vr : List Nat
  vw : List Nat
  pr : List Nat
  pw : List Nat
  sr : List Nat
  q : List Nat
  sw : List Nat
  qw : List Nat
  deriving DecidableEq, Repr

def Use.none : Use := ⟨[], [], [], [], [], [], [], []⟩

def Use.join (a b : Use) : Use :=
  ⟨a.vr ++ b.vr, a.vw ++ b.vw, a.pr ++ b.pr, a.pw ++ b.pw, a.sr ++ b.sr, a.q ++ b.q, a.sw ++ b.sw, a.qw ++ b.qw⟩

def Use.all : List Use → Use
  | [] => Use.none
  | u :: us => u.join (Use.all us)

/-- The registers of a vector operand. -/
def vnums (wide : Bool) (n : VReg) : List Nat := if wide then [n.toNat, n.toNat + 1] else [n.toNat]

def useRead (wide : Bool) (n : VReg) : Use := { Use.none with vr := vnums wide n }
def useWrite (wide : Bool) (n : VReg) : Use := { Use.none with vw := vnums wide n }
def useS (n : SReg) : Use := { Use.none with sr := [n.toNat] }
def useSs (ns : List SReg) : Use := { Use.none with sr := ns.map (·.toNat) }
def useW (n : SReg) : Use := { Use.none with sw := [n.toNat] }
/-- A scalar result and the scalar registers read for it. -/
def useD (d : SReg) (ns : List SReg) : Use := { Use.none with sr := ns.map (·.toNat), sw := [d.toNat] }
def useQw (n : QReg) : Use := { Use.none with qw := [n.toNat] }
def useQ (n : QReg) : Use := { Use.none with q := [n.toNat] }
def useP (n : PReg) : Use := { Use.none with pr := [n.toNat] }
def usePw (n : PReg) : Use := { Use.none with pw := [n.toNat] }

def Src.use (wide : Bool) : Src → Use
  | .v n => useRead wide n
  | .s n => useS n

def MemAddr.use (m : MemAddr) : Use :=
  Use.all [(m.base.map useS).getD Use.none, (m.ofs.map (useRead false)).getD Use.none]

def Bin.use (amount : Bool) (o : Bin) : Use :=
  Use.all [useWrite o.ty.wide o.d, Src.use o.ty.wide o.a, Src.use (o.ty.wide && !amount) o.b]
def BinI.use (o : BinI) : Use := Use.all [useWrite o.ty.wide o.d, Src.use o.ty.wide o.a]
def BinR.use (o : BinR) : Use := Use.all [useWrite o.ty.wide o.d, Src.use o.ty.wide o.a, Src.use o.ty.wide o.b]
def BinRI.use (o : BinRI) : Use := Use.all [useWrite o.ty.wide o.d, Src.use o.ty.wide o.a]
def Tri.use (o : Tri) : Use :=
  Use.all [useWrite o.ty.wide o.d, Src.use o.ty.wide o.a, Src.use o.ty.wide o.b, Src.use o.ty.wide o.c]
def TriR.use (o : TriR) : Use :=
  Use.all [useWrite o.ty.wide o.d, Src.use o.ty.wide o.a, Src.use o.ty.wide o.b, Src.use o.ty.wide o.c]
def Un.use (o : Un) : Use := Use.all [useWrite o.ty.wide o.d, Src.use o.ty.wide o.a]
def UnR.use (o : UnR) : Use := Use.all [useWrite o.ty.wide o.d, Src.use o.ty.wide o.a]
def StOp.use (o : StOp) : Use := (MemAddr.use o.m).join (Src.use o.ty.wide o.data)
def AtomOp.use (o : AtomOp) : Use :=
  Use.all [useWrite o.ty.wide o.d, useRead o.ty.wide o.c, MemAddr.use o.m]
def MmaOp.use (o : MmaOp) : Use := Use.all [useRead true o.f, useSs [o.op, o.ra, o.rb]]

/-- What an instruction names. Guards, and the source of the `srw` rows and of `hkill`, stand in Extra. -/
def Instr.use : Instr → Use
  | .add d a b | .sub d a b | .mul d a b | .mulhI64 d a b | .mulhN64 d a b | .and d a b | .or d a b
  | .xor d a b | .shl d a b | .shr d a b | .sar d a b | .minI64 d a b | .maxI64 d a b | .minN64 d a b
  | .maxN64 d a b | .hins d a b | .ext d a b | .exts d a b | .ins d a b => useD d [a, b]
  | .cmp _ _ d a b => (useQw d).join (useSs [a, b])
  | .addi d a _ | .andi d a _ | .ori d a _ | .xori d a _ | .shli d a _ | .shri d a _ | .sari d a _
  | .muli d a _ => useD d [a]
  | .movi d _ | .la d _ => useW d
  | .adds d a b _ | .addsw d a b _ => useD d [a, b]
  | .sext _ d a | .zext _ d a => useD d [a]
  | .clz d a | .popc d a => useD d [a]
  | .csel d a b q _ => (useQ q).join (useD d [a, b])
  | .ldN8 d a _ | .ldN16 d a _ | .ldN32 d a _ | .ldN64 d a _ => useD d [a]
  | .stN8 d a _ | .stN16 d a _ | .stN32 d a _ | .stN64 d a _ => useSs [d, a]
  | .br q _ _ => useQ q
  | .call q _ _ => (useQ q).join (useW 63)
  | .jr a | .ret a => useS a
  | .tretRetry | .tretSkip => Use.all ([56, 57, 58, 59, 60, 61, 62, 63].map useW)
  | .jt a _ => useS a
  | .callt a _ => useD 63 [a]
  | .srr d _ => useW d
  | .srw _ a => useS a
  | .ldScoped _ _ d a => useD d [a]
  | .stScoped _ _ a b => useSs [a, b]
  | .scalarLdy _ d a => useD d [a]
  | .copy d a b t | .copyPack d a b t | .copyUnpack d a b t => useSs [d, a, b, t]
  | .yieldc d a b _ => useSs [d, a, b]
  | .binit _ a b | .barrMx _ a b | .csig _ a b => useSs [a, b]
  | .barr _ d a b | .barrT _ d a b | .barrP _ d a b | .bwait _ d a b | .cwait _ d a b => useD d [a, b]
  | .bclr _ a | .vdec a _ | .gpatClr a | .bfqUnreg a | .accFree a | .mwait _ a => useS a
  | .gpatSet a b | .bfqSlack a b | .bfqDone a b => useSs [a, b]
  | .gpatGet d a | .bfqReg d a | .bfqPost d a | .bfqTake d a | .accAlloc d a => useD d [a]
  | .bfqNext d | .accHeld d | .mstat d | .rlxWait d => useW d
  | .rfenceQdAddr a | .rfenceDvAddr a => useS a
  | .rlxBegin t c x _ => useSs [t, c, x]
  | .ddMk a t | .ddIte a t | .ddRestrict a t | .ddExists a t | .ddWcount a t | .ddSatcount a t
  | .ddRef a t | .ddDeref a t | .ddSwap a t | .ddOrder a t | .ddStat a t => useSs [a, t]
  | .ddApply a t _ => useSs [a, t]
  | .ddGc t => useS t
  | .hgetN32 d a b | .hgetN64 d a b | .hgetp d a b => useD d [a, b]
  | .hputN32 d a b | .hputN64 d a b | .hputp d a b => useSs [d, a, b]
  | .hstat d a => useD d [a]
  | .laneAdd o | .laneSub o | .laneMul o | .mulhi o | .addsat o | .subsat o | .laneAnd o | .laneOr o
  | .laneXor o | .andn o | .laneMin o | .laneMax o | .div o | .laneRem o | .fmax o | .fmin o =>
      Bin.use false o
  | .laneShl o | .laneShr o | .bfe o => Bin.use true o
  | .bfi o => (Bin.use true o).join (useRead false o.d)
  | .laneAddImm o | .laneSubImm o | .laneMulImm o | .mulhiImm o | .addsatImm o | .subsatImm o
  | .laneAndImm o | .laneOrImm o | .laneXorImm o | .andnImm o | .laneShlImm o | .laneShrImm o
  | .laneMinImm o | .laneMaxImm o | .divImm o | .laneRemImm o | .bfeImm o | .fmaxImm o | .fminImm o =>
      BinI.use o
  | .bfiImm o => (BinI.use o).join (useRead false o.d)
  | .mad o => Tri.use o
  | .abs o | .neg o | .lanePopc o | .laneClz o | .ctz o | .brev o | .mov o | .fabs o | .fneg o
  | .fexp o | .fexp2 o | .flog o | .flog2 o | .ftanh o | .fsig o | .frsqrt o | .fsin o | .fcos o => Un.use o
  | .sel o => Use.all [useWrite o.ty.wide o.d, Src.use o.ty.wide o.a, Src.use o.ty.wide o.b, useP o.p]
  | .movImm o => useWrite o.ty.wide o.d
  | .icmp o | .fcmp o => Use.all [usePw o.p, Src.use o.ty.wide o.a, Src.use o.ty.wide o.b]
  | .icmpImm o | .fcmpImm o => (usePw o.p).join (Src.use o.ty.wide o.a)
  | .lidx d | .lcause d | .rlxStep d | .rlxRes d => useWrite false d
  | .fadd o | .fsub o | .fmul o | .fdiv o => BinR.use o
  | .faddImm o | .fsubImm o | .fmulImm o | .fdivImm o => BinRI.use o
  | .fsqrt o | .frnd o => UnR.use o
  | .ffma o => TriR.use o
  | .cvt o => Use.all [useWrite o.dst.wide o.d, Src.use o.src.wide o.a,
      (o.fmt.map (Src.use false)).getD Use.none]
  | .rng o => Use.all [useWrite false o.d, Src.use false o.a, useSs [o.b, o.c]]
  | .laneLd o => (useWrite o.ty.wide o.d).join (MemAddr.use o.m)
  | .laneLdy o => (useWrite true o.d).join (MemAddr.use o.m)
  | .laneSt o | .redAdd o | .redMin o | .redMax o | .redAnd o | .redOr o | .redXor o | .redAddsat o =>
      StOp.use o
  | .atomAdd o | .atomMin o | .atomMax o | .atomAnd o | .atomOr o | .atomXor o | .atomAddsat o
  | .atomXchg o => AtomOp.use o
  | .atomCas o => (AtomOp.use o).join (useRead o.ty.wide o.d)
  | .ballot (.v d) p => (useWrite false d).join (useP p)
  | .ballot (.s d _) p => (useW d).join (useP p)
  | .voteCnt d p => (useW d).join (useP p)
  | .voteAny q p | .voteAll q p => (useQw q).join (useP p)
  | .voteUni o => (useQw o.q).join (useRead o.ty.wide o.a)
  | .shfl o => Use.all [useWrite o.wide o.d, useRead o.wide o.a, Src.use o.wide o.b, usePw o.f]
  | .perm o => Use.all [useWrite o.wide o.d, useRead o.wide o.a, Src.use false o.b, usePw o.f]
  | .lred o =>
    (useRead o.ty.wide o.a).join (match o.d with | .v d => useWrite o.ty.wide d | .s d => useW d)
  | .plog o => Use.all [usePw o.d, useP o.a, useP o.b]
  | .ptest ty p a => (usePw p).join (useRead ty.wide a)
  | .pget d p => (useWrite false d).join (useP p)
  | .bri a _ | .lcalli a _ => Src.use false a
  | .dlaunch d a => (useWrite false d).join (Src.use true a)
  | .mma o | .mmah o | .mmav o => MmaOp.use o
  | .accLd o => (useWrite false o.d).join (useS o.sel)
  | .accSt sel data => (useS sel).join (Src.use false data)
  | .accOut o => Use.all [useRead false o.f, useSs [o.op, o.rc]]
  | .fvote d a => (useW d).join (Src.use false a)
  | .rlxIn d _ | .rlxGet d _ => useWrite false d
  | .rlxOut a _ => useRead false a
  | _ => Use.none

/-- Every vector register an instruction names (spec/05 R92). -/
def Use.vregs (u : Use) : List Nat := u.vr ++ u.vw

end Sys2Proof.Machine
end

