-- ==== Sys2Proof/Machine/Ready.lean ====
section
/-!
DEFINITION. What stands at the front of a stream and whether it may issue: fetching and decoding, the checks of a word (spec/05
R91, R92, R106, R107; spec/11 R234), the scoreboard (spec/02 R39), storage that wakes (spec/16 R311), the memory an instruction
touches, and consumed errors (spec/13 R280, R281).
-/
namespace Sys2Proof.Machine

/-! ### The front of a stream -/

/-- What the next word of a stream gives. -/
inductive Front where
  /-- there is nothing to issue -/
  | none
  /-- the word, of so many bytes, cannot be fetched, or lies outside its section -/
  | cause (c : Cause) (size : Nat)
  /-- the word, or an entry of the page table on the way to it, holds an uncorrectable error -/
  | poisoned
  | pagePoisoned
  /-- an encoding check of the word fails -/
  | bad (e : DecErr) (w : W96)
  | ins (i : Instr) (x : Extra) (w : W96)
  deriving DecidableEq, Repr

/-- What fetching gives, when it gives no word. -/
def Fetched.front (size : Nat) : Fetched → (Nat → Front) → Front
  | .word w, k => k w
  | .bad c, _ => .cause c size
  | .poisoned, _ => .poisoned
  | .pagePoisoned, _ => .pagePoisoned

/-- The bytes that the scalar PC advances by past a word: 8 for `sig.chk`, else 4 (spec/05 R90). -/
def scalarSize (w : Nat) : Nat := if w / 2 ^ 26 % 64 = 0x25 then 8 else 4

/-- What decoding gives. -/
def decFront (d : Decoded) (w : W96) : Front :=
  match d with
  | .ok i x => .ins i x w
  | .bad e => .bad e w

/-- The front of a band's scalar stream. The second word of `sig.chk` must lie in the section (spec/05 R90). -/
def scalarFront (s : State) (b : Band) : Front :=
  let pc := b.pc.toNat
  if !s.scalarOk b pc then .cause cTARGET_RANGE 4
  else
    (fetchS s b pc).front 4 (fun w =>
      match decodeScalar (w32 w) 0 with
      | .ok .sigChk _ =>
        if !s.scalarOk b (pc + 4) then .cause cTARGET_RANGE 8
        else (fetchS s b (pc + 4)).front 8 (fun n => decFront (decodeScalar (w32 w) (w32 n)) (BitVec.ofNat 96 w))
      | d => decFront d (BitVec.ofNat 96 w))

/-- The front of a fragment. A lane address past the end of the section raises TARGET_RANGE (log entry 20). -/
def laneFront (s : State) (b : Band) (f : Frag) : Front :=
  if !s.laneOk b f.pc.toNat then .cause cTARGET_RANGE 12
  else (fetchL s b f.pc.toNat).front 12 (fun w => decFront (decodeLane (BitVec.ofNat 96 w)) (BitVec.ofNat 96 w))

/-! ### Registers (spec/02 R39, spec/06 R110) -/

/-- Everything that issue takes from a word: the instruction's registers, its guard, and the source of an `srw` row or of
`hkill`. -/
def issueUse (i : Instr) (x : Extra) (lane : Bool) : Use :=
  let u := Instr.use i
  if lane then { u with pr := x.guard.pg.toNat :: u.pr } else { u with sr := x.src.toNat :: u.sr }

/-- Whether a result under way holds an instruction back. -/
def Pend.blocks (u : Use) (p : Pend) : Bool :=
  p.sw.any (fun e => u.sr.contains e.1 || u.sw.contains e.1) || p.qw.any (fun e => u.q.contains e.1 || u.qw.contains e.1) ||
    p.vw.any (fun e => u.vregs.contains (e.1 / 128))

/-- Whether the scoreboard of a band holds an instruction back: results of variable latency, and registers that an
`acc.ld` will write. -/
def scoreboard (s : State) (k : Nat) (u : Use) : Bool :=
  (s.band k).pend.any (Pend.blocks u) || (s.accRegs k).any (fun n => u.vregs.contains n)

/-! ### Memory that an instruction touches -/

/-- The lanes' accesses of n bytes. -/
def laneTouches (s : State) (m : MemAddr) (n : Nat) : List (Nat × Nat) := (lanesOf s.act).map (fun l => (laneAddr s m l, n))

/-- The records that a posting instruction reads from memory (spec/09 R188). -/
def recTouches (s : State) (addrs : List Nat) : List (Nat × Nat) :=
  if s.act = 0 then []
  else (addrs.filter (fun a => !(s.quad s.cq).records.any (fun x => x.ctx == s.cb.ctx && x.addr == a))).map (fun a => (a, 192))

/-- The bytes of the split stack that a lane instruction may reach: the entries that stand there, and those that it may push. -/
def Instr.stackBytes (b : Band) : Instr → Nat
  | .bra _ => 16 * (stackSize b.kinds + 5)
  | .lcall _ => 16 * (stackSize b.kinds + 3)
  | .bri _ _ | .lcalli _ _ => 16 * (stackSize b.kinds + 3 + 2 * b.lanes)
  | .lret | .join _ | .lend | .lexit => 16 * stackSize b.kinds
  | _ => 0

/-- A signal's access to its target. -/
def targetTouches (t : Nat) : List (Nat × Nat) := if t = 0 then [] else if t % 2 = 0 then [(t, 8)] else [(t - 1, 16)]

/-- The accesses that the present instruction makes at issue: address and bytes. -/
def Instr.touches (s : State) : Instr → List (Nat × Nat)
  | .ldN8 _ a i | .stN8 _ a i => [(scalarAddr s a i, 1)]
  | .ldN16 _ a i | .stN16 _ a i => [(scalarAddr s a i, 2)]
  | .ldN32 _ a i | .stN32 _ a i => [(scalarAddr s a i, 4)]
  | .ldN64 _ a i | .stN64 _ a i => [(scalarAddr s a i, 8)]
  | .ldScoped w _ _ a | .stScoped w _ a _ => [((s.cb.s a).toNat, widthBytes w)]
  | .scalarLdy _ _ a => [((s.cb.s a).toNat, 8)]
  | .binit _ a _ | .barr _ _ a _ | .barrT _ _ a _ | .barrP _ _ a _ | .bwait _ _ a _ | .bclr _ a => [((s.cb.s a).toNat, 16)]
  | .cwait _ _ a _ => [((s.cb.s a).toNat, 8)]
  | .csig _ a _ => targetTouches (s.cb.s a).toNat
  | .bfqPost _ a => [((s.cb.s a).toNat, 64)]
  | .laneLd o => laneTouches s o.m (tySize o.ty)
  | .laneLdy o => laneTouches s o.m 8
  | .laneSt o | .redAdd o | .redMin o | .redMax o | .redAnd o | .redOr o | .redXor o | .redAddsat o =>
    laneTouches s o.m (tySize o.ty)
  | .atomAdd o | .atomMin o | .atomMax o | .atomAnd o | .atomOr o | .atomXor o | .atomAddsat o | .atomXchg o | .atomCas o =>
    laneTouches s o.m (tySize o.ty)
  | .dlaunch _ a => (lanesOf s.act).map (fun l => (s.rd .n64 a l, 64))
  | .tgtBind off =>
    let va := (s.cb.pc + 4 * off.signExtend 64).toNat
    (List.range 257).map (fun i => (va + 8 * i, if i ≤ bitsN (leNat 8 (loadBytes s s.cb.agent false va 8).1) 0 9 then 8 else 0))
  | .mma o | .mmah o | .mmav o => recTouches s ((if opAsrc (s.cb.s o.op) then [] else [(s.cb.s o.ra).toNat]) ++ [(s.cb.s o.rb).toNat])
  | .accOut o => recTouches s [(s.cb.s o.rc).toNat]
  | .bfqTake _ a => match (s.dctx s.cdk).formed with
    | x :: _ => [((s.cb.s a).toNat, 8 + 8 * x.reqs.length)]
    | [] => []
  | .bfqDone a _ => match s.cb.batch[(s.cb.s a).toNat]? with
    | some r => targetTouches r.req.target.toNat
    | none => []
  | .bfqUnreg a => ((s.dctx s.cdk).waiting.filter (fun r => r.handle == (s.cb.s a).toNat)).flatMap (fun r =>
    targetTouches r.target.toNat)
  | .rlxBegin _ c x _ => [((s.cb.s x).toNat, 4 * bitsN (s.cb.s c).toNat 0 4)]
  | _ => []

/-- The places of those accesses that translate. -/
def touchedKeys (s : State) (i : Instr) : List Nat :=
  (Instr.touches s i).flatMap (fun t =>
    (List.range t.2).filterMap (fun j => match xlByte s s.cb.agent false ((t.1 + j) % 2 ^ 64) with
      | .ok k => some k
      | _ => match xlByte s s.cb.agent true ((t.1 + j) % 2 ^ 64) with
        | .ok k => some k
        | _ => none))

/-- Who answers an access to a place: its port, or for a PEER page its peer, as 222 + PEERID (spec/20 R343). -/
def State.answerer (s : State) (k : Nat) : Nat :=
  match typeOf k with
  | .peer => 222 + (k / spaceStep - 2)
  | _ => s.portAt k

/-- Who answers the accesses of the present instruction. -/
def touchedPorts (s : State) (i : Instr) : List Nat := ((touchedKeys s i).map s.answerer).eraseDups

/-- The scalar instructions that reach the registers of the lanes. -/
def Instr.reachesLanes : Instr → Bool
  | .hgetN32 _ _ _ | .hgetN64 _ _ _ | .hgetp _ _ _ | .hputN32 _ _ _ | .hputN64 _ _ _ | .hputp _ _ _ => true
  | _ => false

/-- Whether storage that the present instruction needs still wakes: a bank of a slice, or a register segment of the
band's partition (spec/16 R311). -/
def wakeStall (s : State) (i : Instr) (lane : Bool) : Bool :=
  (touchedKeys s i).any s.bankWakes || rangeWakes s s.cb.agent s.cb.privbase.toNat (Instr.stackBytes s.cb i) ||
    ((lane || Instr.reachesLanes i) && (s.tile s.cb.ptile).waking.any (fun w => match w.store with
      | .seg p _ => p == s.cb.slot / 6
      | _ => false))

/-! ### Consumed errors in band state (spec/13 R280, R281, R284) -/

/-- The vector registers that an instruction moves onward and does not use. -/
def Instr.carries : Instr → List Nat
  | .laneSt o => match o.data with
    | .v n => vnums o.ty.wide n
    | .s _ => []
  | _ => []

/-- The scalar registers that an instruction uses as operands: a store moves its data onward. -/
def Instr.scalarUses (i : Instr) (u : Use) : List Nat :=
  match i with
  | .stN8 _ a _ | .stN16 _ a _ | .stN32 _ a _ | .stN64 _ a _ | .stScoped _ _ a _ => [a.toNat]
  | .laneSt o => (o.m.base.map (·.toNat)).toList
  | _ => u.sr

/-- Whether an instruction, or the device as it issues it, reads a special register of the band (spec/13 R280): BUDLEFT counts down at
every issue, SIG takes the words of the scalar stream, and the lanes' instructions look at LANECNT, VREGBUDGET, JTO, STALLCHK and
the dead mask. -/
def Instr.readsSpecial (i : Instr) (lane : Bool) (n : Nat) : Bool :=
  n == 0x013 || (if lane then [0x005, 0x006, 0x010, 0x011, 0x01D, 0x01E].contains n else n == 0x012) ||
    (match i with
      | .srr _ m => m.toNat == n
      | .tretRetry | .tretSkip => n == 0x01A
      | .rlxBegin _ _ _ _ => n == 0x024
      | .mstat _ | .mwait _ _ => n == 0x015
      | .lpost _ => n == 0x010 || n == 0x011
      | _ => false)

/-- Whether the issue of an instruction consumes an error in the band's state (spec/13 R280, R281). The split table is read for every
lane instruction, the newest address of the shadow stack by `ret`; an entry of the lane block queue is read when its block starts, and
TVEC when a trap is taken. -/
def Band.spoiled (b : Band) (i : Instr) (x : Extra) (lane : Bool) : Bool :=
  let u := issueUse i x lane
  b.errBand.any (fun p => match p with
    | .sreg n => (Instr.scalarUses i u).contains n
    | .spred n => u.q.contains n
    | .special n => Instr.readsSpecial i lane n
    | .splits => lane
    | .shadow n => n == 0 && (match i with | .ret _ => true | _ => false)
    | .bank _ | .queue _ => false)

/-- The lanes of A whose operands, or guards, hold an uncorrectable error. -/
def badLanes (s : State) (i : Instr) (x : Extra) : Mask :=
  let b := s.cb
  let u := issueUse i x true
  let moved := Instr.carries i
  let uses := match i with
    | .laneSt o => (u.vr.filter (fun n => !moved.contains n)) ++ (o.m.ofs.map (fun (n : VReg) => n.toNat)).toList
    | _ => u.vr
  let inAct := maskWhere s.act (fun l => uses.any (fun n => b.errV.contains (vkey n l)) || u.pr.any (fun n => b.errP.contains (vkey n l)))
  let guard := maskWhere s.cf.mask (fun l => b.errP.contains (vkey x.guard.pg.toNat l))
  inAct ||| guard

/-! ### Readiness (spec/02 R39, R40) -/

/-- A wait in which the band's instruction issues again, as opposed to one that a step of the device ends. -/
def Wait.retries : Wait → Bool
  | .none => true
  | .sync | .space | .turn | .region => true
  | .yieldc false _ _ => true
  | _ => false

/-- The state as a stream's instruction sees it. -/
def State.issuing (s : State) (k : Nat) (lane : Bool) (slot : Nat) (w : W96) (x : Extra) : State :=
  { s with cur := ⟨k, lane, slot, w, x, 0, 0, .none, none⟩ }

/-- Whether the next instruction of a band's scalar stream has its operands (spec/02 R40). -/
def scalarReady (s : State) (k : Nat) : Bool :=
  let b := s.band k
  s.awake k && b.wait.retries && b.hold = 0 &&
    (match scalarFront s b with
      | .ins i x _ => !scoreboard s k (issueUse i x false)
      | .none => false
      | _ => true)

/-- A fragment of a band, when its stall count has elapsed. -/
def dueFrag (s : State) (b : Band) (slot : Nat) : Option Frag :=
  match b.frag slot with
  | some f => if f.next ≤ s.cycleOf b then some f else none
  | none => none

/-- Whether every fixed-latency result of a fragment's lanes is ready: `join` and `lend` wait for it, and so does `lret`, whose
fragments fuse at a call entry (spec/05 R106, spec/08 R175). -/
def settled (s : State) (b : Band) (f : Frag) : Bool :=
  b.ready.all (fun r => decide (r.due ≤ s.cycleOf b) || r.mask &&& f.mask == 0)

def Instr.joins : Instr → Bool
  | .join _ => true
  | .lend => true
  | .lret => true
  | _ => false

/-- Whether the next instruction of a fragment has its operands. While a `dlaunch` of the other fragment waits for room, it does not (spec/17
R314). -/
def fragReady (s : State) (k slot : Nat) : Bool :=
  let b := s.band k
  match dueFrag s b slot with
  | none => false
  | some f =>
    !b.stalledElse slot &&
    match laneFront s b f with
    | .ins i x _ => !scoreboard s k (issueUse i x true) && (!Instr.joins i || settled s b f)
    | .none => false
    | _ => true

def laneReady (s : State) (k : Nat) : Bool :=
  s.lanesRun k && (s.band k).hold = 0 && (fragReady s k 0 || fragReady s k 1)

/-! ### The vector ALU (spec/07 R138, R139; spec/08 R164, R170) -/

/-- The ALU's cycles for each 32 lanes of an instruction of one type, for 32-bit types and narrower ones and for 64-bit ones. -/
def perLanes (ty : Ty) (narrow wide : Nat) : Nat := if ty.wide then wide else narrow

/-- The cycles for which an instruction holds its partition's vector ALU for each 32 lanes; 0: it does not use it. That a `cvt` counts as
64-bit when either of its types is, is the model's choice (spec/07 R139; log entry 67). -/
def Instr.aluCycles : Instr → Nat
  | .laneAdd _ | .laneSub _ | .addsat _ | .subsat _ | .laneAnd _ | .laneOr _ | .laneXor _ | .andn _ | .laneShl _
  | .laneShr _ | .laneMin _ | .laneMax _ | .bfe _ | .bfi _ => 1
  | .laneAddImm _ | .laneSubImm _ | .addsatImm _ | .subsatImm _ | .laneAndImm _ | .laneOrImm _ | .laneXorImm _
  | .andnImm _ | .laneShlImm _ | .laneShrImm _ | .laneMinImm _ | .laneMaxImm _ | .bfeImm _ | .bfiImm _ => 1
  | .abs _ | .neg _ | .lanePopc _ | .laneClz _ | .ctz _ | .brev _ | .sel _ | .mov _ | .movImm _ | .icmp _ | .icmpImm _
  | .lidx _ | .rng _ => 1
  | .laneMul o | .mulhi o => perLanes o.ty 1 4
  | .laneMulImm o | .mulhiImm o => perLanes o.ty 1 4
  | .mad o => perLanes o.ty 1 4
  | .div _ | .laneRem _ | .divImm _ | .laneRemImm _ => 4
  | .fadd o | .fsub o | .fmul o => perLanes o.ty 1 4
  | .faddImm o | .fsubImm o | .fmulImm o => perLanes o.ty 1 4
  | .fdiv o => perLanes o.ty 4 16
  | .fdivImm o => perLanes o.ty 4 16
  | .fsqrt o => perLanes o.ty 4 16
  | .fmax o | .fmin o => perLanes o.ty 1 4
  | .fmaxImm o | .fminImm o => perLanes o.ty 1 4
  | .ffma o => perLanes o.ty 1 4
  | .fabs o | .fneg o => perLanes o.ty 1 4
  | .fcmp o => perLanes o.ty 1 4
  | .fcmpImm o => perLanes o.ty 1 4
  | .frnd o => perLanes o.ty 1 4
  | .cvt o => if o.dst.wide || o.src.wide then 4 else 1
  | .fexp _ | .fexp2 _ | .flog _ | .flog2 _ | .ftanh _ | .fsig _ | .frsqrt _ | .fsin _ | .fcos _ => 2
  | .ballot _ _ | .voteCnt _ _ | .voteAny _ _ | .voteAll _ _ | .voteUni _ | .shfl _ | .perm _ | .lred _ => 1
  | .plog _ | .ptest _ _ _ | .pget _ _ => 1
  | _ => 0

/-- The cycles for which an instruction of a band holds the vector ALU. -/
def aluHold (b : Band) (i : Instr) : Nat := (b.lanes + 31) / 32 * Instr.aluCycles i

/-- Whether the units that an instruction of a band needs are free: its partition has not issued in that stream in this cycle,
and no ALU instruction holds the vector ALU (spec/02 R39). -/
def unitFree (s : State) (b : Band) (lane : Bool) (i : Instr) : Bool :=
  let t := s.tile b.ptile
  let p := b.slot / 6
  if lane then !t.usedL.contains p && (Instr.aluCycles i == 0 || tget 0 t.alu p == 0) else !t.usedS.contains p

/-- A band has issued: its partition issues no more in that stream in this cycle, and the vector ALU is held for so many
cycles. -/
def takeUnit (s : State) (b : Band) (lane : Bool) (hold : Nat) : State :=
  let p := b.slot / 6
  s.modTile b.ptile (fun t =>
    if lane then { t with usedL := t.usedL ++ [p], alu := if hold = 0 then t.alu else tset t.alu p hold }
    else { t with usedS := t.usedS ++ [p] })

end Sys2Proof.Machine
end

