-- ==== Sys2Proof/Machine/System.lean ====
section
/-!
DEFINITION. The system's registers and the governor, waking storage, the loss of a peer, and bring-up (spec/14 R300, R301;
spec/15 R309; spec/16 R310, R311; spec/19 R332, R333; spec/20 R342 to R346; spec/02 R24). Log entries 50 to 52.
-/
namespace Sys2Proof.Machine

/-! ### System registers (spec/15 R309, spec/14 R301, spec/19 R332) -/

/-- ATTCFG takes a value within its limits; each attendant takes it up at its next heartbeat. -/
def writeAttcfg (s : State) (v : W64) : State :=
  if attcfgOk v then reply { s with attcfg := v } (.ok true) else reply s (.ok false)

/-- ERRCNT of a tile. -/
def writeErrcnt (s : State) (p : Nat) (v : W64) : State :=
  if bitsN v.toNat 56 8 != 0 || 200 ≤ p then reply s (.ok false)
  else
    reply (s.modTile p (fun t => { t with
      errThr := bitsN v.toNat 48 8, errUnc := bitsN v.toNat 32 16, errCorr := bitsN v.toNat 0 32 })) (.ok true)

def State.errcnt (s : State) (p : Nat) : Nat :=
  (s.tile p).errCorr + (s.tile p).errUnc * 2 ^ 32 + (s.tile p).errThr * 2 ^ 48

/-- What system software reads from a system register. -/
def State.readSys (s : State) : SysReg → Nat
  | .pwrceil => s.pwrceil
  | .diebudget d => (s.die d).budget
  | .qrate q => (s.quad q).qrate
  | .tempcls p => (s.tile p).tempcls
  | .attstat p => attstat s p
  | .dieenergy d => (s.die d).energy.toNat
  | .attcfg => s.attcfg.toNat
  | .errcnt p => s.errcnt p
  | .peerLinks d => (tget 0xFFF#12 s.peerLinks d).toNat

/-- System software reads a system register. -/
def sendSys (s : State) (r : SysReg) : State := reply s (.data (leBytes 8 (s.readSys r)))

/-- A write of a system register: PWRCEIL takes one from 1,200 to 3,000, and the set of links of a PEERID any of the twelve
(spec/20 R343; log entry 65); ATTCFG and ERRCNT have steps of their own. -/
def writeSys (s : State) (r : SysReg) (v : W64) : State :=
  match r with
  | .pwrceil => if 1200 ≤ v.toNat && v.toNat ≤ 3000 then reply { s with pwrceil := v.toNat } (.ok true) else reply s (.ok false)
  | .peerLinks d =>
    if d < 64 && v.toNat < 4096 then reply { s with peerLinks := tput 0xFFF#12 s.peerLinks d (v.setWidth 12) } (.ok true)
    else reply s (.ok false)
  | _ => reply s (.ok false)

/-! ### The power governor (spec/20 R342) -/

/-- The quads and tiles of a die. -/
def quadsOf (die : Nat) : List Nat := (List.range 25).map (fun i => die * 25 + i)
def tilesOfDie (die : Nat) : List Nat := (List.range 100).map (fun i => die * 100 + i)

/-- Storage of a tile that holds no state of any context (spec/16 R311). -/
def unused (s : State) (p : Nat) : List Store :=
  let held := s.wgs.filter (fun e => e.2.ptile == p && e.2.saved.isNone && e.2.scrSize != 0)
  let segs := (List.range 16).flatMap (fun part =>
    let used := (partUsed (residents s p) part + 8191) / 8192
    ((List.range 16).filter (fun i => used ≤ i)).map (Store.seg part))
  let banks := ((List.range 24).filter (fun i => !held.any (fun e =>
    decide (i * 16384 < e.2.scrOff + e.2.scrSize) && decide (e.2.scrOff < (i + 1) * 16384)))).map Store.bank
  let accs := ((List.range 16).filter (fun i => (accHolder s (quadOf p) (16 * (p % 4) + i)).isNone)).map Store.acc
  segs ++ banks ++ accs ++ (List.range 8).map Store.way

/-- The lines of an L1 that stay when its ways are n: of each set at most n, which ones free. -/
def linesLeft (s : State) (ix n : Nat) (l1 : Tbl (List Byte)) : Tbl (List Byte) :=
  (List.range 128).flatMap (fun set =>
    (((l1.filter (fun e => e.1 % 128 == set)).filter (fun e =>
      Config.freeChoice (s.freeIx (ix + e.1 % 1024)) % 2 == 0)).take n)) |>.foldl (fun (t : Tbl (List Byte)) e => tset t e.1 e.2) []

/-- The ways of a tile's L1 that the governor has gated and enables again; which of them is free. -/
def wayWakes (s : State) (p : Nat) : List Store :=
  ((List.range 8).filter (fun i => Config.freeChoice (s.freeIx (500000 + p % 100 * 8 + i)) % 2 = 1)).map Store.way

/-- Storage in no use that the governor gates now, and ways that it enables; which of them is free. A gated way's lines are
invalidated. What is needed in this same cycle is not gated (wakeStores). -/
def gateTile (s : State) (p : Nat) : State :=
  let s := wakeStores s p (wayWakes s p)
  let t := s.tile p
  let idle := (unused s p).filter (fun x => !t.gated.contains x && !s.isWaking p x)
  let ix := p % 100 * 2048
  let chosen := ((List.range idle.length).zip idle).filterMap (fun e =>
    if Config.freeChoice (s.freeIx (ix + e.1)) % 2 = 1 then some e.2 else none)
  let t' := { t with gated := t.gated ++ chosen, gatedNow := t.gatedNow ++ chosen }
  let way (x : Store) : Bool := match x with | .way _ => true | _ => false
  s.modTile p (fun _ => if chosen.any way then { t' with l1 := linesLeft s (ix + 1024) t'.ways t'.l1 } else t')

/-- A gang's windows of waiting on a die (spec/02 R24). -/
def countWindow (s : State) (die : Nat) : State :=
  { s with launches := s.launches.map (fun (e : Nat × Launch) =>
    if e.2.passed.contains die then
      (e.1, { e.2 with passed := e.2.passed.filter (fun d => d != die), waited := tset e.2.waited die (e.2.waits die + 1) })
    else e) }

/-- The temperature class of a junction temperature in °C. -/
def tempClass (t : Nat) : Nat := if t < 85 then 0 else if t < 95 then 1 else if t < 105 then 2 else 3

/-- What a die may still draw in its window: the package's average over 64 windows in a row stays at or below PWRCEIL. Of the other
die those windows hold this window's draw too, once its governor has closed it (log entry 70). -/
def powerLeft (s : State) (die : Nat) : Nat :=
  let d := s.die die
  let o := s.die (1 - die)
  64 * s.pwrceil - ((d.spent.take 63).sum + (o.spent.take (if d.windows < o.windows then 64 else 63)).sum)

/-- GOVERNOR_UPDATE: once in each dispatch window of 256 cycles, with what was measured, of which a die draws no more than the
package's average leaves it, its half of the HBM stacks' and links' draw first. The two dies' windows are the package's: neither
closes one before the other has closed the one before it. How far it lowers the pass rate and, once that is at its floor, the clock, and what it gates, are free
(log entry 50). -/
def governorUpdate (s : State) (die : Nat) (m : Measured) : State :=
  let d := s.die die
  if d.window < 256 || decide ((s.die (1 - die)).windows < d.windows) then s
  else
    let left := powerLeft s die
    let stackDraw := min m.stackPower (2 * left)
    let budget := (s.pwrceil - stackDraw) / 2 + (s.die (1 - die)).unused
    let share := (stackDraw + 1) / 2
    let own := min m.own (left - share)
    let cap := 32 + Config.freeChoice (s.freeIx 400000) % 224
    let clock := if cap = 32 then Config.freeChoice (s.freeIx 400001) % 16 else 0
    let s := s.modDie die (fun d => { d with
      window := 0, budget := min 4095 (budget - own), unused := budget - own, clock := clock
      windows := d.windows + 1, spent := (own + share) :: d.spent.take 63, energy := d.energy + w64 m.energy })
    let s := (tilesOfDie die).foldl (fun s p => s.modTile p (fun t => { t with tempcls := tempClass ((m.temps[p % 100]?).getD 0) })) s
    let s := (quadsOf die).foldl (fun s q =>
      let hot := (List.range 4).any (fun i => (s.tile (4 * q + i)).tempcls == 3)
      s.modQuad q (fun x => { x with
        qrate := if hot then 1 + Config.freeChoice (s.freeIx (400002 + q % 25)) % (cap / 2) else cap })) s
    countWindow ((tilesOfDie die).foldl gateTile s) die

/-- WAKE_UP_END: storage that has woken serves from now on, reading zero. -/
def wakeUpEnd (s : State) (p i : Nat) : State :=
  match (s.tile p).waking[i]? with
  | some w =>
    if w.left = 0 then walk (s.modTile p (fun t => { t with waking := t.waking.eraseIdx i })) (quadOf p) else s
  | none => s

/-! ### A lost peer (spec/20 R343) -/

/-- The PEERID of a place of a PEER page. -/
def peerOf (k : Nat) : Option Nat := if typeOf k = .peer then some (k / spaceStep - 2) else none

/-- Whether n bytes from an address have one in a PEER page of the peers. -/
def touchesPeers (s : State) (ds : List Nat) (ag : Agent) (va n : Nat) : Bool :=
  n != 0 && ((List.range (n / 65536 + 1)).map (fun i => va + 65536 * i) ++ [va + n - 1]).any (fun a =>
    [false, true].any (fun w => match xlByte s ag w (a % 2 ^ 64) with
      | .ok k => (peerOf k).any ds.contains
      | _ => false))

/-- Whether a started copy, number i of its tile, has granules of the peers in flight when they are lost, which is open (log
entry 14). -/
def copyLost (s : State) (ds : List Nat) (i : Nat) (c : CopyCmd) : Bool :=
  c.status == some 0 &&
    (touchesPeers s ds c.agent c.src.toNat c.sourceBytes || touchesPeers s ds c.agent c.dst.toNat c.destBytes) &&
    Config.freeChoice (s.freeIx (c.ptile * 1024 + i)) % 2 == 1

/-- The peers that lose their last link with link n. -/
def peersOf (s : State) (n : Nat) : List Nat :=
  (List.range 64).filter (fun d => !s.peerGone d && (liveLinks s.peerLinks (n :: s.linksLost) d).isEmpty)

/-- PEER_LINK_LOSS of one of the twelve links. For a peer whose whole set has failed, later accesses give TRANSLATION; loads under
way return poisoned data, which their band consumes; stores and atomics under way are performed or not; a copy whose granules
were in flight ends 0x8083. -/
def peerLinkLoss (s : State) (n : Nat) : State :=
  if 12 ≤ n || s.linksLost.contains n then s
  else
    let ds := peersOf s n
    let hit := (s.bands.filter (fun e => e.2.pend.any (fun p => p.ports.any (fun a => 222 ≤ a && ds.contains (a - 222))))).map
      (fun (e : Nat × Band) => e.2.launch)
    let wq := ((List.range s.wq.length).zip s.wq).filterMap (fun e =>
      if (peerOf e.2.gran).any ds.contains && Config.freeChoice (s.freeIx (600000 + e.1)) % 2 == 1 then none else some e.2)
    let tiles := s.tiles.map (fun (e : Nat × Tile) => (e.1, { e.2 with
      copies := ((List.range e.2.copies.length).zip e.2.copies).map (fun (c : Nat × CopyCmd) =>
        if copyLost s ds c.1 c.2 then { c.2 with status := some 0x8083 } else c.2) }))
    hit.foldl outerError { s with linksLost := s.linksLost ++ [n], wq := wq, tiles := tiles }

/-! ### Bring-up (spec/20 R344, R346) -/

/-- Whether the boot ROM takes a firmware image. -/
def firmwareGood (fw : Firmware) : Bool :=
  Config.fusedKey (sha512 fw.key) && signatureGood fw.signature fw.key fw.image &&
    decide (Config.fusedVersion ≤ Config.fwVersion fw.image)

/-- A tile that fails its self-test at bring-up serves no context. -/
def failTile (s : State) (p : Nat) : State :=
  (retireTile s p).modTile p (fun t => { t with cordoned := true })

/-- BRING_UP: firmware check, measurement, self-test, mapping; a refused image leaves the device in recovery. -/
def bringUp (s : State) (fw : Firmware) : State :=
  if s.up || s.inRecovery then s
  else if !firmwareGood fw then { s with inRecovery := true }
  else
    let golden := Config.fwGolden fw.image
    let governor := Config.fwGovernor fw.image
    let s := extend s 0 (sha512 fw.image)
    let s := extend s 1 (sha512 (leBytes 4 golden.toNat))
    let s := extend s 2 (sha512 governor)
    let s := { s with version := Config.fwVersion fw.image, golden := golden, governor := governor }
    let s := (List.range 200).foldl (fun s p =>
      let sig := Config.selfTest p 0
      let s := s.modAtt p (fun a => { a with sig := sig })
      if sig = golden then s else failTile s p) s
    { s with up := true }

end Sys2Proof.Machine
end

