-- ==== Sys2Proof/Machine/Device.lean ====
section
/-!
DEFINITION. Time and the device's own steps: what a cycle of a tile or of a die changes (spec/02 R40, R41, R43, R44, R47, R48;
spec/19 R330 to R335), and one meaning for each step that the device takes on its own. The agent of a step stands in `cur.a`
and `cur.b`, its input in `cur.inp`. A step that is not enabled changes nothing (log entry 21).
-/
namespace Sys2Proof.Machine

/-! ### The watchdog (spec/02 R47, R48) -/

/-- Whether the lane stream of a band is parked: every fragment waits at a join or call entry. -/
def Band.laneParked (b : Band) : Bool := b.run.isSome && !b.inBody && b.slot0.isNone && b.slot1.isNone

/-- Whether a band waits on an object inside the device: in `bwait`, for `acc.alloc`, at a `yieldc` whose copy has not been
issued; or at a join, while its scalar stream waits too, in `lsync`, for the other bands of its `rlx.begin`, or for the hold of a
back-off. In handler mode it is parked in `bwait` alone (spec/13 R275). -/
def Band.parkedIn (b : Band) : Bool :=
  match b.wait with
  | .bwait _ _ _ _ _ _ => true
  | .acc _ _ _ => b.held.isNone
  | .yieldc false _ _ => b.held.isNone
  | .sync | .rxBegin _ _ _ _ _ => b.held.isNone && b.laneParked
  | .none => b.held.isNone && b.laneParked && b.backoff != 0
  | _ => false

/-- A band in `cwait`, in `bfq.take` or in `rlx.wait` is not parked at all (spec/10 R208, R226, spec/11 R246). -/
def Wait.unparked : Wait → Bool
  | .cwait _ _ _ _ _ _ | .bfqTake _ _ | .region => true
  | _ => false

/-- Whether a band is parked: it waits, or it is in back-off. -/
def Band.parked (b : Band) : Bool := b.parkedIn || (b.held.isNone && b.backoff != 0 && !b.wait.unparked)

/-- Whether a parked band waits on an external object alone. -/
def Band.external (b : Band) : Bool := !b.parkedIn && b.backExt

/-- The resident bands of a context on a tile. -/
def tileBands (s : State) (p ctx : Nat) : List (Nat × Band) :=
  s.bands.filter (fun e => e.2.ptile == p && e.2.resident && e.2.ctx == ctx)

/-- One more cycle of a count that saturates at 2^48 - 1. -/
def wdUp (t : Tbl Nat) (c : Nat) : Tbl Nat := tset t c (min (2 ^ 48 - 1) (tget 0 t c + 1))

/-- A cycle's count for a context on a tile. -/
def wdTick (s : State) (p ctx : Nat) : State :=
  let bs := tileBands s p ctx
  if bs.isEmpty then s.modTile p (fun t => { t with wd := tdel t.wd ctx, wdExt := tdel t.wdExt ctx })
  else if bs.all (fun e => e.2.parked) then
    if bs.all (fun e => e.2.external) then s.modTile p (fun t => { t with wdExt := wdUp t.wdExt ctx })
    else s.modTile p (fun t => { t with wd := wdUp t.wd ctx })
  else s

/-- Whether a limit that is not 0 has been reached. -/
def atLimit (lim : W64) (t : Tbl Nat) (ctx : Nat) : Bool := lim != 0 && lim.toNat ≤ tget 0 t ctx

/-- Whether a count exceeds a limit that is not 0: the limit has been lowered (spec/15 R306). -/
def pastLimit (lim : W64) (t : Tbl Nat) (ctx : Nat) : Bool := lim != 0 && decide (lim.toNat < tget 0 t ctx)

/-- Whether a count of a context stands at its limit while the bands still wait as it counts: an issue of a band that does not
wait any more comes first (spec/19 R334). A count that exceeds a lowered limit raises WATCHDOG at once (spec/15 R306). -/
def wdReached (s : State) (p ctx : Nat) : Bool :=
  let bs := tileBands s p ctx
  bs.all (fun e => e.2.parked) &&
      (if bs.all (fun e => e.2.external) then atLimit (s.ctx ctx).extlim (s.tile p).wdExt ctx
       else atLimit (s.ctx ctx).wdlim (s.tile p).wd ctx) ||
    pastLimit (s.ctx ctx).wdlim (s.tile p).wd ctx || pastLimit (s.ctx ctx).extlim (s.tile p).wdExt ctx

/-- WATCHDOG: in the parked band with the lowest workgroup index and number; that the first in the table of bands takes it when
two launches tie in both is the model's choice (log entry 67). The count stands (log entry 53). -/
def watchdog (s : State) (p ctx : Nat) : State :=
  if !wdReached s p ctx then s
  else
    let before (x y : Nat × Band) : Bool :=
      decide (x.2.wgidx.toNat < y.2.wgidx.toNat) || (x.2.wgidx == y.2.wgidx && decide (x.2.no < y.2.no))
    match firstBy before ((tileBands s p ctx).filter (fun e => e.2.parked)) with
    | none => s
    | some e => if e.2.deferred.any (fun d => d.cause == cWATCHDOG) then s else deferCause s e.1 cWATCHDOG none

/-! ### A cycle of a tile -/

/-- The bound of a wait. -/
def Wait.tick : Wait → Wait
  | .bwait d k p sc left bounded => .bwait d k p sc (left - 1) bounded
  | .cwait d a t sc left bounded => .cwait d a t sc (left - 1) bounded
  | w => w

/-- How the streams of a band stand in a cycle: whether each waits in the sense of R40, and whether each is ready in that of R39;
whether both have stopped before a trap (spec/13 R274). -/
structure Standing where
  waitsS : Bool
  waitsL : Bool
  readyS : Bool
  readyL : Bool
  stopped : Bool
  deriving DecidableEq, Repr

/-- A cycle of a resident band: budget, back-off, bound, join timers, aging. -/
def Band.tick (b : Band) (x : Standing) : Band :=
  { b with
    budleft := if b.budleft = 0 then 0 else b.budleft - 1
    overrun := b.overrun || b.budleft == 1
    hold := if 1 < b.hold then b.hold - 1 else b.hold
    wait := b.wait.tick
    timers := if b.held.isNone && !x.stopped then b.timers.map (fun e => (e.1, e.2 + 1)) else b.timers
    waitS := if x.waitsS && b.backoff = 0 then b.waitS + 1 else 0
    waitL := if x.waitsL && b.backoff = 0 then b.waitL + 1 else 0
    agedS := if x.readyS then b.agedS + 1 else b.agedS
    agedL := if x.readyL then b.agedL + 1 else b.agedL }

/-- A cycle of a sequence's slack, down to -2^31. -/
def Seq.tick (q : Seq) : Seq := { q with slack := max (-2147483648) (q.slack - 1) }

/-- Sequences that p owns in the cycle's count. -/
def slackTick (s : State) (p : Nat → Option Nat → Bool) : State :=
  { s with dctxs := s.dctxs.map (fun (e : Nat × DieCtx) => (e.1, { e.2 with
      seqs := e.2.seqs.map (fun (y : Nat × Seq) => if p e.1 y.2.owner then (y.1, y.2.tick) else y) })) }

/-- One cycle of a tile, at whose start its bands stand in some way. -/
def tileCycle (s : State) (p : Nat) (standing : State → Nat → Standing) : State :=
  let s := s.modTile p (fun t => { t with
    cycle := t.cycle + 1
    usedS := []
    usedL := []
    gatedNow := []
    alu := t.alu.filterMap (fun e => if 1 < e.2 then some (e.1, e.2 - 1) else none)
    waking := t.waking.map (fun w => { w with left := w.left - 1 }) })
  let s := { s with bands := s.bands.map (fun (e : Nat × Band) =>
    if e.2.ptile = p && e.2.resident then (e.1, e.2.tick (standing s e.1)) else e) }
  let s := ((s.bands.filter (fun e => e.2.ptile == p && e.2.resident)).map (fun e => e.2.ctx)).eraseDups.foldl
    (fun s c => wdTick s p c) s
  let s := slackTick s (fun k o => match o with
    | some t => s.phys (k % 1024) t == p
    | none => false)
  let s := s.modQuad (quadOf p) (fun q => { q with table := q.table.map (fun x =>
    if x.ptile = p && !x.running then { x with waited := x.waited + 1 } else x) })
  if s.up then s.modAtt p (Attendant.tick p) else s

/-- One cycle of a die: its batch-forming queue and its dispatcher. -/
def dieTick (s : State) (d : Nat) : State :=
  let s := s.modDie d (fun x => { x with window := x.window + 1 })
  let s := { s with dctxs := s.dctxs.map (fun (e : Nat × DieCtx) =>
    if e.1 / 1024 = d then (e.1, { e.2 with waiting := e.2.waiting.map (fun r => { r with waited := r.waited + 1 }) }) else e) }
  slackTick s (fun k o => k / 1024 == d && o.isNone)

/-! ### Steps of a band -/

/-- A step of the device once it is up. -/
def dev (s : State) (f : State → State) : Out := .next (if s.up then f s else s)

/-- A step of an attendant, after which the votes that it has changed are judged (spec/14 R290, R295, R299). -/
def devAtt (s : State) (f : State → State) : Out := dev s (fun s => settleVotes 256 (f s))

/-- A step of band a, in handler mode or not. -/
def devBand (s : State) (f : State → Nat → State) : Out := .next (if s.awake s.cur.a then f s s.cur.a else s)

/-- A step of band a outside handler mode. -/
def devOut (s : State) (f : State → Nat → State) : Out := .next (if s.awakeOut s.cur.a then f s s.cur.a else s)

def execBlockStart (s : State) : Out := .next (if s.lanesRun s.cur.a then startBlock s s.cur.a else s)

/-- Whether a deferred cause of a band waits to be taken (spec/13 R273). -/
def Band.deferWaits (b : Band) : Bool := b.held.isNone && !b.deferred.isEmpty

/-- Whether both streams of a band have stopped before a trap that waits for their `acc.ld` and `acc.st` (spec/13 R274). -/
def hasStopped (s : State) (k : Nat) : Bool := (s.band k).deferWaits && s.accBusy k

/-- JOIN_TIMEOUT: the timers stand still once both streams have stopped before a trap (spec/02 R30). -/
def execJoinTimeout (s : State) : Out :=
  devOut s (fun s k =>
    if hasStopped s k || rangeWakes s (s.band k).agent (s.band k).privbase.toNat (16 * stackSize (s.band k).kinds) then s else changeSplit s k (fun sp => timeoutJoin sp s.cur.b))
/-- The last cycle of a hold has passed (spec/02 R41). -/
def execBackoffEnd (s : State) : Out :=
  devBand s (fun s k => s.modBand k (fun b => if b.hold = 1 then { b with hold := 0 } else b))
def execBudgetOverrun (s : State) : Out := devBand s budgetOverrun

/-- HANDLER_ENTRY: a deferred cause is taken before the band's next issue, here in the stream that `cur.b` names: 0 scalar,
1 or 2 a fragment (spec/13 R273). -/
def handlerEntry (s : State) (k n : Nat) : State :=
  if (s.band k).deferred.isEmpty || s.accBusy k then s
  else
    let c := s.cur
    let s := takeDeferred { s with cur := { c with band := k, lane := n != 0, slot := n - 1 } } k
    { s with cur := c }
def execHandlerEntry (s : State) : Out := devOut s (fun s k => handlerEntry s k s.cur.b)

def execYieldcResume (s : State) : Out := devBand s yieldcResume
def execBwaitChanged (s : State) : Out := devBand s bwaitChanged
def execBwaitTimeout (s : State) : Out := devBand s bwaitTimeout
def execCwaitReturn (s : State) : Out := devBand s cwaitReturn
def execCwaitBound (s : State) : Out := devBand s cwaitBound
def execMwaitReturn (s : State) : Out := devBand s mwaitReturn
def execAccFreeRelease (s : State) : Out := devBand s accFreeRelease
def execBfqTakeReturn (s : State) : Out := devBand s bfqTakeReturn

/-- EFFECTIVE_CLASS_RISE: 64 cycles of waiting in the scalar stream, or with `cur.b` = 1 in the lane stream (spec/02 R40). -/
def classRise (s : State) (k n : Nat) : State :=
  s.modBand k (fun b =>
    if n = 0 then (if 64 ≤ b.waitS then { b with clsS := min 7 (b.clsS + 1), waitS := b.waitS - 64 } else b)
    else (if 64 ≤ b.waitL then { b with clsL := min 7 (b.clsL + 1), waitL := b.waitL - 64 } else b))
def execEffectiveClassRise (s : State) : Out := devBand s (fun s k => classRise s k s.cur.b)

/-- The class that a band competes at: 0 in back-off (spec/02 R41). -/
def Band.effClass (b : Band) (lane : Bool) : Nat := if b.backoff ≠ 0 then 0 else if lane then b.clsL else b.clsS

/-- VARIABLE_LATENCY_RESULT: a result that the scoreboard holds back is written (spec/02 R39). -/
def landResult (s : State) (k i : Nat) : State :=
  match (s.band k).pend[i]? with
  | some p => (landFlag s k [p]).modBand k (fun b => { b.land p with pend := b.pend.eraseIdx i })
  | none => s
def execVariableLatencyResult (s : State) : Out := devBand s (fun s k => landResult s k s.cur.b)

/-- ILLEGAL_ENCODING: a word that no row of the table assigns raises it at issue (spec/05 R91, R92). -/
def execIllegalEncoding (s : State) : Out := trapHere s cILLEGAL_ENCODING

/-! ### Steps of the engines -/

def execCopyStart (s : State) : Out := dev s (fun s => copyStart s s.cur.a)
def execCopyComplete (s : State) : Out := dev s (fun s => copyComplete s s.cur.a s.cur.b)
def execBarrMxArrival (s : State) : Out := dev s (fun s => barrMxArrival s s.cur.a)
def execAccAllocGrant (s : State) : Out := dev s (fun s => accAllocGrant s s.cur.a)
def execAccDeadlock (s : State) : Out := dev s (fun s => accDeadlock s s.cur.a)
def execPassComplete (s : State) : Out := dev s (fun s => passComplete s s.cur.a s.cur.b)
def execClassAging (s : State) : Out := dev s (fun s => classAging s s.cur.a s.cur.b)
def execDecodeStart (s : State) : Out := dev s (fun s => decodeStart s s.cur.a)
def execFrameOutput (s : State) : Out := dev s (fun s => frameOutput s s.cur.a)
def execDecodeComplete (s : State) : Out := dev s (fun s => decodeComplete s s.cur.a)
def execBatchWaitLimit (s : State) : Out := dev s (fun s => batchWaitLimit s s.cur.a)
def execRegionOpen (s : State) : Out :=
  dev s (fun s => if (bandsOf s s.cur.a).all s.awakeOut then regionOpen s s.cur.a else s)
def execPassEnd (s : State) : Out := devBand s passEnd
def execCabinetStart (s : State) : Out := dev s (fun s => cabinetStart s s.cur.a s.cur.b)
def execCabinetComplete (s : State) : Out := dev s (fun s => cabinetComplete s s.cur.a s.cur.b)
def execWriteQueueApply (s : State) : Out := dev s (fun s => applyOldest s s.cur.a)

/-! ### Dispatch and containment -/

def execWorkgroupPlacement (s : State) : Out := dev s workgroupPlacement
def execGangReservation (s : State) : Out := dev s (fun s => gangReservation s s.cur.a)
def execEviction (s : State) : Out := dev s (fun s => evict s s.cur.a)
def execReadmission (s : State) : Out := dev s (fun s => readmit s s.cur.a)
def execWorkgroupComplete (s : State) : Out := dev s (fun s => workgroupComplete s s.cur.a)
/-- WORKGROUP_KILL: a workgroup that an error marked (spec/13 R285). -/
def execWorkgroupKill (s : State) : Out :=
  dev s (fun s => if (tget? s.wgs s.cur.a).any (fun w => w.dying) then killWg s false s.cur.a else s)
def execLaunchReplay (s : State) : Out := dev s (fun s => launchReplay s s.cur.a)
def execAddressSpaceKill (s : State) : Out := dev s (fun s => addressSpaceKill s s.cur.a)
def execWatchdog (s : State) : Out := dev s (fun s => watchdog s s.cur.a s.cur.b)
def execWakeUpEnd (s : State) : Out := dev s (fun s => wakeUpEnd s s.cur.a s.cur.b)

/-! ### Attendants -/

def execHeartbeatSend (s : State) : Out := devAtt s (fun s => heartbeatSend s s.cur.a)
def execHeartbeat (s : State) : Out := devAtt s (fun s => heartbeat s s.cur.a s.cur.b)
def execHeartbeatMiss (s : State) : Out := devAtt s (fun s => heartbeatMiss s s.cur.a s.cur.b)
def execEvidenceLapse (s : State) : Out := devAtt s (fun s => evidenceLapse s s.cur.a s.cur.b)
def execAccuse (s : State) : Out := devAtt s (fun s => accuse s s.cur.a s.cur.b)
def execVote (s : State) : Out := devAtt s (fun s => voteMsg s s.cur.a s.cur.b)
def execWithdraw (s : State) : Out := devAtt s (fun s => withdraw s s.cur.a s.cur.b)
def execVoteWindowEnd (s : State) : Out := devAtt s (fun s => voteWindowEnd s s.cur.a s.cur.b)
def execCordon (s : State) : Out := devAtt s (fun s => cordonMsg s s.cur.a s.cur.b)
def execSelfTestComplete (s : State) : Out := devAtt s (fun s => selfTestComplete s s.cur.a)
def execAppeal (s : State) : Out := devAtt s (fun s => appeal s s.cur.a s.cur.b)
def execVerdict (s : State) : Out := devAtt s (fun s => verdict s s.cur.a s.cur.b)
def execAppealWindowEnd (s : State) : Out := devAtt s (fun s => appealWindowEnd s s.cur.a s.cur.b)
def execReadmit (s : State) : Out := devAtt s (fun s => readmitMsg s s.cur.a s.cur.b)
def execUnassignedMessage (s : State) : Out := devAtt s (fun s => unassignedMessage s s.cur.a s.cur.b)

/-! ### Host and system -/

/-- The input of a host transaction of context `cur.b` of interface `cur.a`. -/
def execMrd (s : State) : Out :=
  match s.cur.inp with
  | .mrd va n => .next (hostRead s (ctxOf s.cur.a s.cur.b) va.toNat n)
  | _ => .next s
def execMwr (s : State) : Out :=
  match s.cur.inp with
  | .mwr va bs => .next (hostWrite s (ctxOf s.cur.a s.cur.b) va.toNat bs)
  | _ => .next s
def execMatom (s : State) : Out :=
  match s.cur.inp with
  | .matom va fn ty b c => .next (hostAtom s (ctxOf s.cur.a s.cur.b) va.toNat fn ty b c)
  | _ => .next s
def execDbell (s : State) : Out :=
  match s.cur.inp with
  | .dbell tail => .next (doorbell s s.cur.a tail)
  | _ => .next s
def execMgmt (s : State) : Out :=
  match s.cur.inp with
  | .mgmt c => .next (manage s c s.cur.b)
  | _ => .next s

def execLaunch (s : State) : Out := dev s (fun s => ringStep s s.cur.a 1 (cmdLaunch s))
def execSignal (s : State) : Out := dev s (fun s => ringStep s s.cur.a 2 (cmdSend s))
def execWait (s : State) : Out := dev s (fun s => ringStep s s.cur.a 3 (cmdWait s s.cur.a))
def execWaitResume (s : State) : Out := dev s (fun s => waitResume s s.cur.a)
def execWrreg (s : State) : Out := dev s (fun s => ringStep s s.cur.a 4 (cmdWrreg s))
def execDepth (s : State) : Out := dev s (fun s => ringStep s s.cur.a 5 (cmdDepth s))
def execInval (s : State) : Out := dev s (fun s => ringStep s s.cur.a 6 (cmdInval s))
def execStepbegin (s : State) : Out := dev s (fun s => ringStep s s.cur.a 7 (fun c _ => cmdStepbegin s c))
def execStepend (s : State) : Out := dev s (fun s => ringStep s s.cur.a 8 (cmdStepend s))
def execLossScaleUpdate (s : State) : Out := dev s (fun s => lossScaleUpdate s s.cur.a)
def execPagewr (s : State) : Out := dev s (fun s => ringStep s s.cur.a 9 (cmdPagewr s))
def execCtxreset (s : State) : Out := dev s (fun s => ringStep s s.cur.a 10 (fun c _ => cmdCtxreset s c))

/-- A value that system software writes, or a register that it reads. -/
def withValue (s : State) (f : State → W64 → State) : Out :=
  match s.cur.inp with
  | .value v => dev s (fun s => f s v)
  | _ => .next s
def execAttcfgWrite (s : State) : Out := withValue s writeAttcfg
def execErrcntWrite (s : State) : Out := withValue s (fun s v => writeErrcnt s s.cur.a v)
def execSystemRegisterWrite (s : State) : Out :=
  match s.cur.inp with
  | .sysReg r v => dev s (fun s => writeSys s r v)
  | .sysRead r => dev s (fun s => sendSys s r)
  | _ => .next s
def execGovernorUpdate (s : State) : Out :=
  match s.cur.inp with
  | .measured m => dev s (fun s => governorUpdate s s.cur.a m)
  | _ => .next s
def execPeerLinkLoss (s : State) : Out := dev s (fun s => peerLinkLoss s s.cur.a)
def execBringUp (s : State) : Out :=
  match s.cur.inp with
  | .firmware fw => .next (bringUp s fw)
  | _ => .next s

end Sys2Proof.Machine
end

