-- ==== Sys2Proof/Machine/LaneCross.lean ====
section
/-!
DEFINITION. Cross-lane and predicate instructions (spec/08 R164 to R170, spec/03 R68).
-/
namespace Sys2Proof.Machine

/-- The lanes of A in which a lane predicate reads 1. -/
def State.picked (s : State) (p : PReg) : Mask := s.act &&& s.pread s.cb p.toNat

/-- ballot (R165). -/
def execBallot (dst : BallotDst) (p : PReg) (s : State) : Out :=
  let m := (s.picked p).toNat
  match dst with
  | .v d => laneWrite s .n32 d (.fixed 4) (fun l => bitsN m (l / 32 * 32) 32)
  | .s d h => laneWriteS s d (w64 (bitsN m (h.toNat * 64) 64))

/-- vote (R166). -/
def execVoteCnt (d : SReg) (p : PReg) (s : State) : Out := laneWriteS s d (w64 (lanesOf (s.picked p)).length)
def execVoteAny (q : QReg) (p : PReg) (s : State) : Out := laneWriteQ s q (s.picked p != 0)
def execVoteAll (q : QReg) (p : PReg) (s : State) : Out := laneWriteQ s q (s.picked p == s.act)
def execVoteUni (o : VoteUniOp) (s : State) : Out :=
  let ls := lanesOf s.act
  laneWriteQ s o.q (ls.all (fun l => s.rd o.ty (.v o.a) l == s.rd o.ty (.v o.a) (lowest s.act)))

/-- The type of a shuffled element. -/
def elemTy (wide : Bool) : Ty := if wide then .n64 else .n32

/-- A vector result in the lanes of m and a flag in the lanes of A, both of latency 4. -/
def writeElems (s : State) (wide : Bool) (d : VReg) (f : PReg) (m : Mask) (x : Nat → Nat) (flag : Nat → Bool) : Out :=
  let b := s.cb
  let a := s.act
  let at_ := s.cycleOf b + 4
  let ws := (lanesOf m).flatMap (fun l => resultWrites (elemTy wide) d.toNat l (x l))
  .next (finishL s (fun b =>
    let b := ws.foldl s.putV b
    let b := s.putP b f.toNat a (maskWhere a flag)
    let b := (b.due false d.toNat a at_ (s.olds d.toNat)).due true f.toNat a at_ []
    if wide then b.due false (d.toNat + 1) a at_ (s.olds (d.toNat + 1)) else b))

/-- The source lane of a shuffle; none outside the band (R167). -/
def shflSource (mode : ShflMode) (lanes l n : Nat) : Option Nat :=
  let x := match mode with
    | .idx => some n
    | .up => if n ≤ l then some (l - n) else none
    | .down => some (l + n)
    | .xor => some (l ^^^ n)
  x.bind (fun i => if i < lanes then some i else none)

/-- The element of a lane that a shuffle reads: a lane of another fragment gives a whole element (R167). -/
def shflElem (s : State) (wide : Bool) (a : VReg) (i : Nat) : Nat :=
  if s.cf.mask.getLsbD i then s.rd (elemTy wide) (.v a) i else s.vreadOther s.cb wide a.toNat i

/-- shfl (R167). -/
def execShfl (o : ShflOp) (s : State) : Out :=
  let b := s.cb
  let ty := elemTy o.wide
  let src (l : Nat) : Option Nat := shflSource o.mode b.lanes l (s.rdN32 o.b l)
  writeElems s o.wide o.d o.f s.act
    (fun l => match src l with
      | none => s.rd ty (.v o.a) l
      | some i => if b.dead.getLsbD i then 0 else shflElem s o.wide o.a i)
    (fun l => match src l with
      | none => false
      | some i => !b.dead.getLsbD i)

/-- The highest lane of A that names a target (R168). -/
def permWinner (s : State) (o : PermOp) (t : Nat) : Option Nat :=
  ((lanesOf s.act).filter (fun l => s.rdN32 o.b l == t)).getLast?

/-- perm (R168). -/
def execPerm (o : PermOp) (s : State) : Out :=
  let a := s.act
  writeElems s o.wide o.d o.f (maskWhere a (fun t => (permWinner s o t).isSome))
    (fun t => s.rd (elemTy o.wide) (.v o.a) ((permWinner s o t).getD 0))
    (fun l => decide (s.rdN32 o.b l < 128) && a.getLsbD (s.rdN32 o.b l) && permWinner s o (s.rdN32 o.b l) == some l)

/-- One round of a floating reduction (spec/03 R68). -/
def sumRound (f : Fmt) (rm : Rm) : List Nat → List Nat
  | a :: b :: rest => faddB f rm a b :: sumRound f rm rest
  | xs => xs

/-- The rounds until one value remains; `n` rounds are enough for 2^n values. -/
def sumTree (f : Fmt) (rm : Rm) : Nat → List Nat → Nat
  | 0, xs => xs.headD 0
  | n + 1, xs => sumTree f rm n (sumRound f rm xs)

/-- The value of a reduction of no values (R169). -/
def lredEmpty (fn : LredFn) (ty : Ty) : Nat :=
  match fn with
  | .add => 0
  | .min => if ty.isFp then (fmtOf ty).inf false else ofInt (tyBits ty) (tyMax ty)
  | .max => if ty.isFp then (fmtOf ty).inf true else ofInt (tyBits ty) (tyMin ty)
  | .and => 2 ^ tyBits ty - 1
  | .or => 0
  | .xor => 0

/-- Two values combined (R169). -/
def lredPair (fn : LredFn) (ty : Ty) (a b : Nat) : Nat :=
  match fn with
  | .add => (a + b) % 2 ^ tyBits ty
  | .min => if ty.isFp then fmaxB (fmtOf ty) false a b else ofInt (tyBits ty) (min (intOf ty a) (intOf ty b))
  | .max => if ty.isFp then fmaxB (fmtOf ty) true a b else ofInt (tyBits ty) (max (intOf ty a) (intOf ty b))
  | .and => a &&& b
  | .or => a ||| b
  | .xor => a ^^^ b

/-- A NaN as a floating instruction writes it (spec/03 R54). -/
def canonNan (ty : Ty) (x : Nat) : Nat := if ty.isFp && (fval (fmtOf ty) x).isNan then (fmtOf ty).nan else x

/-- The reduction of values in ascending lane order. -/
def lredOf (fn : LredFn) (ty : Ty) (rm : Rm) (xs : List Nat) : Nat :=
  match xs with
  | [] => lredEmpty fn ty
  | x :: rest =>
    canonNan ty (if fn == .add && ty.isFp then sumTree (fmtOf ty) rm 7 xs else rest.foldl (lredPair fn ty) x)

/-- lred (R169). -/
def execLred (o : LredOp) (s : State) : Out :=
  let x := lredOf o.fn o.ty o.rm ((lanesOf s.act).map (fun l => s.rd o.ty (.v o.a) l))
  let special := o.ty.isFp && (fval (fmtOf o.ty) x).special && (s.act != 0 || (match o.d with | .s _ => true | .v _ => false))
  let late := special && !s.cb.inBody
  let s' := if late then s else setOverflowHere s special
  match o.d with
  | .v d => laneWriteO s' o.ty d .variable (fun _ => x) (fun _ _ => 0) late
  | .s d => laneWriteSO s' d (w64 (if o.ty.signed then sextN (tyBits o.ty) 64 x else x)) late

/-- plog (R170). -/
def execPlog (o : PlogOp) (s : State) : Out :=
  let a := s.pread s.cb o.a.toNat
  let b := s.pread s.cb o.b.toNat
  laneWriteP s o.d 2 (fun l => o.tt.getLsbD (2 * (a.getLsbD l).toNat + (b.getLsbD l).toNat))

/-- ptest (R170). -/
def execPtest (ty : Ty) (p : PReg) (a : VReg) (s : State) : Out :=
  laneWriteP s p 2 (fun l => s.rd ty (.v a) l != 0)

/-- pget (R170). -/
def execPget (d : VReg) (p : PReg) (s : State) : Out :=
  let m := s.pread s.cb p.toNat
  laneWrite s .n32 d (.fixed 2) (fun l => (m.getLsbD l).toNat)

end Sys2Proof.Machine
end

