-- ==== Sys2Proof/Machine/LaneCvt.lean ====
section
/-!
DEFINITION. Conversions and the keyed random function in lanes (spec/07 R152 to R154, spec/03 R57, R70).
-/
namespace Sys2Proof.Machine

/-- The value of a pattern read as a type; `fw` is the format word of a bit-plane side (R152, R153). -/
def cvtSource (src : Ty) (fw x : Nat) : FVal :=
  let f := Format.ofNat fw
  match src with
  | .bpi => f.value (planeInt f.signed f.pstore x)
  | t => if t.isFp then fval (fmtOf t) x else ofIntV (intOf t x)

/-- The pattern a conversion writes. -/
def cvtResult (dst : Ty) (rm : Rm) (fw : Nat) (v : FVal) : Nat :=
  match dst with
  | .bpi => ofInt 32 ((Format.ofNat fw).toPlane rm v)
  | t =>
    if t.isFp then fround (fmtOf t) rm v
    else ofInt (tyBits t) (toIntSat rm (tyMin t) (tyMax t) v)

/-- A format word that a bit-plane conversion takes (R62, R153). -/
def planeFormat (fw : Nat) : Bool := formatOk fw && (Format.ofNat fw).kind == 3

/-- cvt (R152, R153). Where one side alone is a 64-bit type the model takes the latency of 64-bit types: R139 does not say which
side counts (log entry 67). -/
def execCvt (o : CvtOp) (s : State) : Out :=
  let fw (l : Nat) : Nat := match o.fmt with
    | some f => s.rdN32 f l
    | none => 0
  let bad := if o.fmt.isSome then (lanesOf s.act).filter (fun l => !planeFormat (fw l)) else []
  if !bad.isEmpty then trapLanes s (bad.map (fun l => (l, cFORMAT_BAD)))
  else
    let lat : Latency := if o.dst.wide || o.src.wide then .variable else .fixed 4
    let x (l : Nat) : Nat := cvtResult o.dst o.rm (fw l) (cvtSource o.src (fw l) (s.rd o.src o.a l))
    if o.dst.isFp then laneWriteF s o.dst o.d lat x (fun _ _ => 0) else laneWrite s o.dst o.d lat x

/-- The keyed random function (spec/03 R70). -/
def rngFn (k i : W64) : W64 :=
  let z := i + k * 0xD1B54A32D192ED03
  let z := (z ^^^ (z >>> 31)) * 0x7FB5D329728EA185
  let z := (z ^^^ (z >>> 27)) * 0x81DADEF4BC2DD44D
  z ^^^ (z >>> 33)

/-- rng (R154). -/
def execRng (o : RngOp) (s : State) : Out :=
  let b := s.cb
  laneWrite s o.ty o.d (.fixed 6) (fun l =>
    let z := (rngFn (b.s o.c) (b.s o.b + w64 (s.rdN32 o.a l))).toNat
    if o.ty == .f32 then fround f32F .rne (.fin false (bitsN z 40 24) (-24)) else bitsN z 32 32)

end Sys2Proof.Machine
end

