-- ==== Sys2Proof/Machine/LaneMem.lean ====
section
/-!
DEFINITION. Lane memory instructions (spec/08 R157 to R163): every lane of A is checked before any access, the lanes
then access memory in ascending order (spec/04 R78).
-/
namespace Sys2Proof.Machine

/-- The check of an access of n bytes in every lane of A (R159), and then what it does. -/
def withLanes (s : State) (write strict : Bool) (m : MemAddr) (n : Nat) (k : Out) : Out :=
  let rs := (lanesOf s.act).map (fun l => (l, xlAccess s s.cb.agent write strict (laneAddr s m l) n))
  if rs.any (fun r => r.2 == .poisoned) then .next (pageError s s.cb.ctx)
  else
    let bad := rs.filterMap (fun r => match r.2 with | .bad c => some (r.1, c) | _ => none)
    if bad.isEmpty then k else trapLanes s bad

/-- The translations that the lanes of A used stay in the tile's cache (log entry 8). -/
def fillLanes (s : State) (m : MemAddr) : State :=
  (lanesOf s.act).foldl (fun st l => tlbFill st s.cb.agent (laneAddr s m l)) s

/-- What the lanes of A load, by lane, and the state after; poisoned data is consumed (spec/13 R280). Each lane's places are those
of the check, whatever the other lanes do. -/
def laneLoads (s : State) (past : Bool) (m : MemAddr) (n : Nat) : Tbl Nat × State :=
  let b := s.cb
  (lanesOf s.act).foldl (fun acc l =>
    let ks := accessKeys s b.agent false (laneAddr s m l) n
    let (bs, bad, s') := loadAt acc.2 b.agent past ks
    let s' := if bad then memError s' b.launch ks else s'
    (tset acc.1 l (leNat n bs), s')) ([], fillLanes s m)

/-- ld (R158). -/
def execLaneLd (o : LdOp) (s : State) : Out :=
  let n := tySize o.ty
  withLanes s false false o.m n (
    let (vals, s') := laneLoads s (pastTile o.sc) o.m n
    laneWrite (s'.modCb Band.endBackoff) o.ty o.d .variable (tget 0 vals))

/-- ldy (R160): the lowest lane of A drives the back-off. -/
def execLaneLdy (o : LdyOp) (s : State) : Out :=
  withLanes s false true o.m 8 (
    let (vals, s') := laneLoads s (pastTile o.sc) o.m 8
    let s' := if s.act = 0 then s' else
      let l := lowest s.act
      s'.modCb (fun b => b.ldyTake (w64 (laneAddr s o.m l)) (w64 (tget 0 vals l))
        (isLinked s b.agent (laneAddr s o.m l)))
    laneWrite s' .n64 o.d .variable (tget 0 vals))

/-- Whether a store's data register holds an uncorrectable error, which the store carries onward (spec/13 R280). -/
def Band.badData (b : Band) (ty : Ty) (src : Src) (lane : Nat) : Bool :=
  match src with
  | .v n => b.errV.contains (vkey n.toNat lane) || (ty.wide && b.errV.contains (vkey (n.toNat + 1) lane))
  | .s n => b.errBand.contains (.sreg n.toNat)

/-- st (R158). -/
def execLaneSt (o : StOp) (s : State) : Out :=
  let n := tySize o.ty
  withLanes s true false o.m n (
    let b := s.cb
    let s' := (lanesOf s.act).foldl (fun st l =>
      let va := laneAddr s o.m l
      storeAt st b.agent (b.badData o.ty o.data l) va (accessKeys s b.agent true va n) (leBytes n (s.rd o.ty o.data l)))
      (fillLanes s o.m)
    .next (finishL s' id))

/-- An atomic or reduction of the lanes of A: the old values by lane, whether a floating result was ±Inf or NaN,
and the state after (R161). Both use the old data as an operand, so that they consume its error (spec/13 R280). -/
def laneAtoms (s : State) (fn : AtomFn) (ty : Ty) (m : MemAddr) (ret : Bool) (x y : Nat → Nat) :
    Tbl Nat × Bool × State :=
  let b := s.cb
  (lanesOf s.act).foldl (fun acc l =>
    let va := laneAddr s m l
    match accessKeys s b.agent true va (tySize ty) with
    | [] => acc
    | k :: ks =>
      let bad := anyPoison acc.2.2 (k :: ks)
      let (old, new, s') := atomPlace acc.2.2 b.agent fn ty va k (x l) (y l) ret
      let s' := if bad then memError s' b.launch (k :: ks) else s'
      (tset acc.1 l old, acc.2.1 || (ty.isFp && (fval (fmtOf ty) new).special), s')) ([], false, fillLanes s m)

/-- atom (R161): vd takes the old value. That an atomic which returns a value ends the back-off, as a load other than `ldy`, is the
model's choice (spec/02 R41; log entry 67). A ±Inf or NaN written to memory counts once vd has the old value (spec/03 R71). -/
def laneAtom (s : State) (fn : AtomFn) (o : AtomOp) : Out :=
  withLanes s true true o.m (tySize o.ty) (
    let (olds, special, s') := laneAtoms s fn o.ty o.m true (s.rd o.ty (.v o.c)) (s.rd o.ty (.v o.d))
    let late := special && !s.cb.inBody
    let s' := if late then s' else setOverflowHere s' special
    laneWriteO (s'.modCb Band.endBackoff) o.ty o.d .variable (tget 0 olds) (fun _ _ => 0) late)

def execAtomAdd (o : AtomOp) (s : State) : Out := laneAtom s .add o
def execAtomMin (o : AtomOp) (s : State) : Out := laneAtom s .min o
def execAtomMax (o : AtomOp) (s : State) : Out := laneAtom s .max o
def execAtomAnd (o : AtomOp) (s : State) : Out := laneAtom s .and o
def execAtomOr (o : AtomOp) (s : State) : Out := laneAtom s .or o
def execAtomXor (o : AtomOp) (s : State) : Out := laneAtom s .xor o
def execAtomAddsat (o : AtomOp) (s : State) : Out := laneAtom s .addsat o
def execAtomXchg (o : AtomOp) (s : State) : Out := laneAtom s .xchg o
def execAtomCas (o : AtomOp) (s : State) : Out := laneAtom s .cas o

/-- red (R161): the same change, with no result. -/
def laneRed (s : State) (fn : AtomFn) (o : StOp) : Out :=
  withLanes s true true o.m (tySize o.ty) (
    let (_, special, s') := laneAtoms s fn o.ty o.m false (s.rd o.ty o.data) (fun _ => 0)
    .next (finishL (setOverflowHere s' special) id))

def execRedAdd (o : StOp) (s : State) : Out := laneRed s .add o
def execRedMin (o : StOp) (s : State) : Out := laneRed s .min o
def execRedMax (o : StOp) (s : State) : Out := laneRed s .max o
def execRedAnd (o : StOp) (s : State) : Out := laneRed s .and o
def execRedOr (o : StOp) (s : State) : Out := laneRed s .or o
def execRedXor (o : StOp) (s : State) : Out := laneRed s .xor o
def execRedAddsat (o : StOp) (s : State) : Out := laneRed s .addsat o

/-- fence in the lane stream (R163). -/
def execLaneFence (sc : Scope) (s : State) : Out := .next (finishL (fenceAt s sc) id)

end Sys2Proof.Machine
end

