-- ==== Sys2Proof/Machine/ScalarAlu.lean ====
section
/-!
DEFINITION. Scalar integer, logic, address and bit-field instructions (spec/06 R111 to R117).
-/
namespace Sys2Proof.Machine

/-- sext(imm14). -/
def imm14 (i : BitVec 14) : W64 := i.signExtend 64

/-- A shift amount: bits(sb, 5, 0) (R111). -/
def shiftAmt (b : W64) : Nat := b.toNat % 64

/-- A register operation on the values of sa and sb. -/
def aluR (s : State) (d a b : SReg) (f : W64 → W64 → W64) : Out := writeS s d (f (s.cb.s a) (s.cb.s b))

/-- An operation on the value of sa and a constant. -/
def aluI (s : State) (d a : SReg) (f : W64 → W64) : Out := writeS s d (f (s.cb.s a))

/-- Bits [127:64] of the signed and the unsigned product (R111). -/
def mulhS (x y : W64) : W64 := BitVec.ofInt 64 (x.toInt * y.toInt / 18446744073709551616)
def mulhU (x y : W64) : W64 := w64 (x.toNat * y.toNat / 18446744073709551616)

def execAdd (d a b : SReg) (s : State) : Out := aluR s d a b (· + ·)
def execSub (d a b : SReg) (s : State) : Out := aluR s d a b (· - ·)
def execMul (d a b : SReg) (s : State) : Out := aluR s d a b (· * ·)
def execMulhI64 (d a b : SReg) (s : State) : Out := aluR s d a b mulhS
def execMulhN64 (d a b : SReg) (s : State) : Out := aluR s d a b mulhU
def execAnd (d a b : SReg) (s : State) : Out := aluR s d a b (· &&& ·)
def execOr (d a b : SReg) (s : State) : Out := aluR s d a b (· ||| ·)
def execXor (d a b : SReg) (s : State) : Out := aluR s d a b (· ^^^ ·)
def execShl (d a b : SReg) (s : State) : Out := aluR s d a b (fun x y => x <<< shiftAmt y)
def execShr (d a b : SReg) (s : State) : Out := aluR s d a b (fun x y => x >>> shiftAmt y)
def execSar (d a b : SReg) (s : State) : Out := aluR s d a b (fun x y => x.sshiftRight (shiftAmt y))
def execMinI64 (d a b : SReg) (s : State) : Out := aluR s d a b (fun x y => if x.toInt ≤ y.toInt then x else y)
def execMaxI64 (d a b : SReg) (s : State) : Out := aluR s d a b (fun x y => if y.toInt ≤ x.toInt then x else y)
def execMinN64 (d a b : SReg) (s : State) : Out := aluR s d a b (fun x y => if x.toNat ≤ y.toNat then x else y)
def execMaxN64 (d a b : SReg) (s : State) : Out := aluR s d a b (fun x y => if y.toNat ≤ x.toNat then x else y)

/-- cmp.cond.ty qd, sa, sb (R112). -/
def execCmp (c : Cond) (unsigned : Bool) (d : QReg) (a b : SReg) (s : State) : Out :=
  let x := s.cb.s a
  let y := s.cb.s b
  let v := if unsigned then intCond c (x.toNat : Int) (y.toNat : Int) else intCond c x.toInt y.toInt
  .next (finishS s (fun b => b.setQ d v))

def execAddi (d a : SReg) (i : BitVec 14) (s : State) : Out := aluI s d a (· + imm14 i)
def execAndi (d a : SReg) (i : BitVec 14) (s : State) : Out := aluI s d a (· &&& imm14 i)
def execOri (d a : SReg) (i : BitVec 14) (s : State) : Out := aluI s d a (· ||| imm14 i)
def execXori (d a : SReg) (i : BitVec 14) (s : State) : Out := aluI s d a (· ^^^ imm14 i)
def execShli (d a : SReg) (k : BitVec 6) (s : State) : Out := aluI s d a (· <<< k.toNat)
def execShri (d a : SReg) (k : BitVec 6) (s : State) : Out := aluI s d a (· >>> k.toNat)
def execSari (d a : SReg) (k : BitVec 6) (s : State) : Out := aluI s d a (fun x => x.sshiftRight k.toNat)
def execMuli (d a : SReg) (i : BitVec 14) (s : State) : Out := aluI s d a (· * imm14 i)

/-- movi (R114). -/
def execMovi (d : SReg) (i : BitVec 20) (s : State) : Out := writeS s d (i.signExtend 64)

/-- la: PC + 4 × sext(imm20) (R114). -/
def execLa (d : SReg) (i : BitVec 20) (s : State) : Out := writeS s d (s.cb.pc + 4 * i.signExtend 64)

/-- adds and addsw (R115). -/
def execAdds (d a b : SReg) (k : BitVec 6) (s : State) : Out := aluR s d a b (fun x y => x + (y <<< k.toNat))
def execAddsw (d a b : SReg) (k : BitVec 6) (s : State) : Out :=
  aluR s d a b (fun x y => x + (((y.setWidth 32).setWidth 64) <<< k.toNat))

/-- hins: bits(sb, 15, 0) above bits(sa, 47, 0) (R115). -/
def execHins (d a b : SReg) (s : State) : Out :=
  aluR s d a b (fun x y => w64 (bitsN y.toNat 0 16 * 2 ^ 48 + bitsN x.toNat 0 48))

/-- The bits of a size of sext and zext (R116). -/
def extBits : ExtSize → Nat
  | .b8 => 8
  | .b16 => 16
  | .b32 => 32

def execSext (z : ExtSize) (d a : SReg) (s : State) : Out :=
  aluI s d a (fun x => w64 (sextN (extBits z) 64 x.toNat))
def execZext (z : ExtSize) (d a : SReg) (s : State) : Out :=
  aluI s d a (fun x => w64 (bitsN x.toNat 0 (extBits z)))

/-- The position and effective width of a scalar field descriptor (R116). -/
def fieldPos (d : W64) : Nat := bitsN d.toNat 0 6
def fieldLen (d : W64) : Nat :=
  let w := bitsN d.toNat 8 6
  min (if w = 0 then 64 else w) (64 - fieldPos d)

def execExt (d a b : SReg) (s : State) : Out :=
  aluR s d a b (fun x y => w64 (bitsN x.toNat (fieldPos y) (fieldLen y)))
def execExts (d a b : SReg) (s : State) : Out :=
  aluR s d a b (fun x y => w64 (sextN (fieldLen y) 64 (bitsN x.toNat (fieldPos y) (fieldLen y))))

/-- ins reads sd as well as writing it (R116). -/
def execIns (d a b : SReg) (s : State) : Out :=
  aluR s d a b (fun x y => w64 (insN (s.cb.s d).toNat x.toNat (fieldPos y) (fieldLen y)))
def execClz (d a : SReg) (s : State) : Out := aluI s d a (fun x => w64 (clzN 64 x.toNat))
def execPopc (d a : SReg) (s : State) : Out := aluI s d a (fun x => w64 (popN 64 x.toNat))

/-- csel (R117). -/
def execCsel (d a b : SReg) (q : QReg) (neg : Bool) (s : State) : Out :=
  aluR s d a b (fun x y => if s.cb.q q != neg then x else y)

end Sys2Proof.Machine
end

