-- ==== Sys2Proof/Machine/Dispatch.lean ====
section
/-!
DEFINITION. The dispatch: one arm for each constructor of Instr, a direct call of its meaning.
-/
namespace Sys2Proof.Machine

def exec (i : Instr) (s : State) : Host.Outcome State Fault Refusal :=
  match i with
  | .add d a b => Sys2Proof.Machine.execAdd d a b s
  | .sub d a b => Sys2Proof.Machine.execSub d a b s
  | .mul d a b => Sys2Proof.Machine.execMul d a b s
  | .mulhI64 d a b => Sys2Proof.Machine.execMulhI64 d a b s
  | .mulhN64 d a b => Sys2Proof.Machine.execMulhN64 d a b s
  | .and d a b => Sys2Proof.Machine.execAnd d a b s
  | .or d a b => Sys2Proof.Machine.execOr d a b s
  | .xor d a b => Sys2Proof.Machine.execXor d a b s
  | .shl d a b => Sys2Proof.Machine.execShl d a b s
  | .shr d a b => Sys2Proof.Machine.execShr d a b s
  | .sar d a b => Sys2Proof.Machine.execSar d a b s
  | .minI64 d a b => Sys2Proof.Machine.execMinI64 d a b s
  | .maxI64 d a b => Sys2Proof.Machine.execMaxI64 d a b s
  | .minN64 d a b => Sys2Proof.Machine.execMinN64 d a b s
  | .maxN64 d a b => Sys2Proof.Machine.execMaxN64 d a b s
  | .cmp cond unsigned d a b => Sys2Proof.Machine.execCmp cond unsigned d a b s
  | .addi d a imm => Sys2Proof.Machine.execAddi d a imm s
  | .andi d a imm => Sys2Proof.Machine.execAndi d a imm s
  | .ori d a imm => Sys2Proof.Machine.execOri d a imm s
  | .xori d a imm => Sys2Proof.Machine.execXori d a imm s
  | .shli d a amt => Sys2Proof.Machine.execShli d a amt s
  | .shri d a amt => Sys2Proof.Machine.execShri d a amt s
  | .sari d a amt => Sys2Proof.Machine.execSari d a amt s
  | .muli d a imm => Sys2Proof.Machine.execMuli d a imm s
  | .movi d imm => Sys2Proof.Machine.execMovi d imm s
  | .la d imm => Sys2Proof.Machine.execLa d imm s
  | .adds d a b k => Sys2Proof.Machine.execAdds d a b k s
  | .addsw d a b k => Sys2Proof.Machine.execAddsw d a b k s
  | .hins d a b => Sys2Proof.Machine.execHins d a b s
  | .sext sz d a => Sys2Proof.Machine.execSext sz d a s
  | .zext sz d a => Sys2Proof.Machine.execZext sz d a s
  | .ext d a b => Sys2Proof.Machine.execExt d a b s
  | .exts d a b => Sys2Proof.Machine.execExts d a b s
  | .ins d a b => Sys2Proof.Machine.execIns d a b s
  | .clz d a => Sys2Proof.Machine.execClz d a s
  | .popc d a => Sys2Proof.Machine.execPopc d a s
  | .csel d a b q neg => Sys2Proof.Machine.execCsel d a b q neg s
  | .ldN8 d a imm => Sys2Proof.Machine.execLdN8 d a imm s
  | .ldN16 d a imm => Sys2Proof.Machine.execLdN16 d a imm s
  | .ldN32 d a imm => Sys2Proof.Machine.execLdN32 d a imm s
  | .ldN64 d a imm => Sys2Proof.Machine.execLdN64 d a imm s
  | .stN8 d a imm => Sys2Proof.Machine.execStN8 d a imm s
  | .stN16 d a imm => Sys2Proof.Machine.execStN16 d a imm s
  | .stN32 d a imm => Sys2Proof.Machine.execStN32 d a imm s
  | .stN64 d a imm => Sys2Proof.Machine.execStN64 d a imm s
  | .br q neg off => Sys2Proof.Machine.execBr q neg off s
  | .call q neg off => Sys2Proof.Machine.execCall q neg off s
  | .jr a => Sys2Proof.Machine.execJr a s
  | .ret a => Sys2Proof.Machine.execRet a s
  | .jt a n => Sys2Proof.Machine.execJt a n s
  | .callt a n => Sys2Proof.Machine.execCallt a n s
  | .lpost addr => Sys2Proof.Machine.execLpost addr s
  | .lsync => Sys2Proof.Machine.execLsync s
  | .srr d num => Sys2Proof.Machine.execSrr d num s
  | .srw num a => Sys2Proof.Machine.execSrw num a s
  | .srwBudleft => Sys2Proof.Machine.execSrwBudleft s
  | .srwDdbase => Sys2Proof.Machine.execSrwDdbase s
  | .srwDdcap => Sys2Proof.Machine.execSrwDdcap s
  | .srwVobase => Sys2Proof.Machine.execSrwVobase s
  | .srwVocount => Sys2Proof.Machine.execSrwVocount s
  | .srwSpecdepth => Sys2Proof.Machine.execSrwSpecdepth s
  | .srwBfqthr => Sys2Proof.Machine.execSrwBfqthr s
  | .srwBfqmax => Sys2Proof.Machine.execSrwBfqmax s
  | .tgtBind off => Sys2Proof.Machine.execTgtBind off s
  | .sigChk => Sys2Proof.Machine.execSigChk s
  | .ldScoped w sc d a => Sys2Proof.Machine.execLdScoped w sc d a s
  | .stScoped w sc a b => Sys2Proof.Machine.execStScoped w sc a b s
  | .scalarFence sc => Sys2Proof.Machine.execScalarFence sc s
  | .scalarLdy sc d a => Sys2Proof.Machine.execScalarLdy sc d a s
  | .copy d a b t => Sys2Proof.Machine.execCopy d a b t s
  | .copyPack d a b t => Sys2Proof.Machine.execCopyPack d a b t s
  | .copyUnpack d a b t => Sys2Proof.Machine.execCopyUnpack d a b t s
  | .yieldc d a b off => Sys2Proof.Machine.execYieldc d a b off s
  | .binit sc a b => Sys2Proof.Machine.execBinit sc a b s
  | .barr sc d a b => Sys2Proof.Machine.execBarr sc d a b s
  | .barrT sc d a b => Sys2Proof.Machine.execBarrT sc d a b s
  | .barrP sc d a b => Sys2Proof.Machine.execBarrP sc d a b s
  | .bwait sc d a b => Sys2Proof.Machine.execBwait sc d a b s
  | .bclr sc a => Sys2Proof.Machine.execBclr sc a s
  | .barrMx sc a b => Sys2Proof.Machine.execBarrMx sc a b s
  | .cwait sc d a b => Sys2Proof.Machine.execCwait sc d a b s
  | .csig sc a b => Sys2Proof.Machine.execCsig sc a b s
  | .vdec a n => Sys2Proof.Machine.execVdec a n s
  | .gpatSet a b => Sys2Proof.Machine.execGpatSet a b s
  | .gpatClr a => Sys2Proof.Machine.execGpatClr a s
  | .gpatGet d a => Sys2Proof.Machine.execGpatGet d a s
  | .bfqReg d a => Sys2Proof.Machine.execBfqReg d a s
  | .bfqUnreg a => Sys2Proof.Machine.execBfqUnreg a s
  | .bfqSlack a b => Sys2Proof.Machine.execBfqSlack a b s
  | .bfqPost d a => Sys2Proof.Machine.execBfqPost d a s
  | .bfqTake d a => Sys2Proof.Machine.execBfqTake d a s
  | .bfqNext d => Sys2Proof.Machine.execBfqNext d s
  | .bfqDone a b => Sys2Proof.Machine.execBfqDone a b s
  | .accAlloc d a => Sys2Proof.Machine.execAccAlloc d a s
  | .accFree a => Sys2Proof.Machine.execAccFree a s
  | .accHeld d => Sys2Proof.Machine.execAccHeld d s
  | .rfenceQdAddr a => Sys2Proof.Machine.execRfenceQdAddr a s
  | .rfenceQd => Sys2Proof.Machine.execRfenceQd s
  | .rfenceDvAddr a => Sys2Proof.Machine.execRfenceDvAddr a s
  | .rfenceDv => Sys2Proof.Machine.execRfenceDv s
  | .mstat d => Sys2Proof.Machine.execMstat d s
  | .mwait sc a => Sys2Proof.Machine.execMwait sc a s
  | .rlxBegin t c x nb => Sys2Proof.Machine.execRlxBegin t c x nb s
  | .rlxWait d => Sys2Proof.Machine.execRlxWait d s
  | .rlxAbort => Sys2Proof.Machine.execRlxAbort s
  | .ddMk a t => Sys2Proof.Machine.execDdMk a t s
  | .ddApply a t tt => Sys2Proof.Machine.execDdApply a t tt s
  | .ddIte a t => Sys2Proof.Machine.execDdIte a t s
  | .ddRestrict a t => Sys2Proof.Machine.execDdRestrict a t s
  | .ddExists a t => Sys2Proof.Machine.execDdExists a t s
  | .ddWcount a t => Sys2Proof.Machine.execDdWcount a t s
  | .ddSatcount a t => Sys2Proof.Machine.execDdSatcount a t s
  | .ddRef a t => Sys2Proof.Machine.execDdRef a t s
  | .ddDeref a t => Sys2Proof.Machine.execDdDeref a t s
  | .ddSwap a t => Sys2Proof.Machine.execDdSwap a t s
  | .ddOrder a t => Sys2Proof.Machine.execDdOrder a t s
  | .ddGc t => Sys2Proof.Machine.execDdGc t s
  | .ddStat a t => Sys2Proof.Machine.execDdStat a t s
  | .exit => Sys2Proof.Machine.execExit s
  | .tretRetry => Sys2Proof.Machine.execTretRetry s
  | .tretSkip => Sys2Proof.Machine.execTretSkip s
  | .lflush => Sys2Proof.Machine.execLflush s
  | .trap code => Sys2Proof.Machine.execTrap code s
  | .hgetN32 d a b => Sys2Proof.Machine.execHgetN32 d a b s
  | .hgetN64 d a b => Sys2Proof.Machine.execHgetN64 d a b s
  | .hgetp d a b => Sys2Proof.Machine.execHgetp d a b s
  | .hstat d a => Sys2Proof.Machine.execHstat d a s
  | .hputN32 d a b => Sys2Proof.Machine.execHputN32 d a b s
  | .hputN64 d a b => Sys2Proof.Machine.execHputN64 d a b s
  | .hputp d a b => Sys2Proof.Machine.execHputp d a b s
  | .hkill => Sys2Proof.Machine.execHkill s
  | .laneAdd o => Sys2Proof.Machine.execLaneAdd o s
  | .laneAddImm o => Sys2Proof.Machine.execLaneAddImm o s
  | .laneSub o => Sys2Proof.Machine.execLaneSub o s
  | .laneSubImm o => Sys2Proof.Machine.execLaneSubImm o s
  | .laneMul o => Sys2Proof.Machine.execLaneMul o s
  | .laneMulImm o => Sys2Proof.Machine.execLaneMulImm o s
  | .mulhi o => Sys2Proof.Machine.execMulhi o s
  | .mulhiImm o => Sys2Proof.Machine.execMulhiImm o s
  | .mad o => Sys2Proof.Machine.execMad o s
  | .addsat o => Sys2Proof.Machine.execAddsat o s
  | .addsatImm o => Sys2Proof.Machine.execAddsatImm o s
  | .subsat o => Sys2Proof.Machine.execSubsat o s
  | .subsatImm o => Sys2Proof.Machine.execSubsatImm o s
  | .laneAnd o => Sys2Proof.Machine.execLaneAnd o s
  | .laneAndImm o => Sys2Proof.Machine.execLaneAndImm o s
  | .laneOr o => Sys2Proof.Machine.execLaneOr o s
  | .laneOrImm o => Sys2Proof.Machine.execLaneOrImm o s
  | .laneXor o => Sys2Proof.Machine.execLaneXor o s
  | .laneXorImm o => Sys2Proof.Machine.execLaneXorImm o s
  | .andn o => Sys2Proof.Machine.execAndn o s
  | .andnImm o => Sys2Proof.Machine.execAndnImm o s
  | .laneShl o => Sys2Proof.Machine.execLaneShl o s
  | .laneShlImm o => Sys2Proof.Machine.execLaneShlImm o s
  | .laneShr o => Sys2Proof.Machine.execLaneShr o s
  | .laneShrImm o => Sys2Proof.Machine.execLaneShrImm o s
  | .laneMin o => Sys2Proof.Machine.execLaneMin o s
  | .laneMinImm o => Sys2Proof.Machine.execLaneMinImm o s
  | .laneMax o => Sys2Proof.Machine.execLaneMax o s
  | .laneMaxImm o => Sys2Proof.Machine.execLaneMaxImm o s
  | .abs o => Sys2Proof.Machine.execAbs o s
  | .neg o => Sys2Proof.Machine.execNeg o s
  | .div o => Sys2Proof.Machine.execDiv o s
  | .divImm o => Sys2Proof.Machine.execDivImm o s
  | .laneRem o => Sys2Proof.Machine.execLaneRem o s
  | .laneRemImm o => Sys2Proof.Machine.execLaneRemImm o s
  | .bfe o => Sys2Proof.Machine.execBfe o s
  | .bfeImm o => Sys2Proof.Machine.execBfeImm o s
  | .bfi o => Sys2Proof.Machine.execBfi o s
  | .bfiImm o => Sys2Proof.Machine.execBfiImm o s
  | .lanePopc o => Sys2Proof.Machine.execLanePopc o s
  | .laneClz o => Sys2Proof.Machine.execLaneClz o s
  | .ctz o => Sys2Proof.Machine.execCtz o s
  | .brev o => Sys2Proof.Machine.execBrev o s
  | .sel o => Sys2Proof.Machine.execSel o s
  | .mov o => Sys2Proof.Machine.execMov o s
  | .movImm o => Sys2Proof.Machine.execMovImm o s
  | .icmp o => Sys2Proof.Machine.execIcmp o s
  | .icmpImm o => Sys2Proof.Machine.execIcmpImm o s
  | .lidx d => Sys2Proof.Machine.execLidx d s
  | .fadd o => Sys2Proof.Machine.execFadd o s
  | .faddImm o => Sys2Proof.Machine.execFaddImm o s
  | .fsub o => Sys2Proof.Machine.execFsub o s
  | .fsubImm o => Sys2Proof.Machine.execFsubImm o s
  | .fmul o => Sys2Proof.Machine.execFmul o s
  | .fmulImm o => Sys2Proof.Machine.execFmulImm o s
  | .fdiv o => Sys2Proof.Machine.execFdiv o s
  | .fdivImm o => Sys2Proof.Machine.execFdivImm o s
  | .fsqrt o => Sys2Proof.Machine.execFsqrt o s
  | .fmax o => Sys2Proof.Machine.execFmax o s
  | .fmaxImm o => Sys2Proof.Machine.execFmaxImm o s
  | .fmin o => Sys2Proof.Machine.execFmin o s
  | .fminImm o => Sys2Proof.Machine.execFminImm o s
  | .ffma o => Sys2Proof.Machine.execFfma o s
  | .fabs o => Sys2Proof.Machine.execFabs o s
  | .fneg o => Sys2Proof.Machine.execFneg o s
  | .fcmp o => Sys2Proof.Machine.execFcmp o s
  | .fcmpImm o => Sys2Proof.Machine.execFcmpImm o s
  | .frnd o => Sys2Proof.Machine.execFrnd o s
  | .fexp o => Sys2Proof.Machine.execFexp o s
  | .fexp2 o => Sys2Proof.Machine.execFexp2 o s
  | .flog o => Sys2Proof.Machine.execFlog o s
  | .flog2 o => Sys2Proof.Machine.execFlog2 o s
  | .ftanh o => Sys2Proof.Machine.execFtanh o s
  | .fsig o => Sys2Proof.Machine.execFsig o s
  | .frsqrt o => Sys2Proof.Machine.execFrsqrt o s
  | .fsin o => Sys2Proof.Machine.execFsin o s
  | .fcos o => Sys2Proof.Machine.execFcos o s
  | .cvt o => Sys2Proof.Machine.execCvt o s
  | .rng o => Sys2Proof.Machine.execRng o s
  | .laneLd o => Sys2Proof.Machine.execLaneLd o s
  | .laneSt o => Sys2Proof.Machine.execLaneSt o s
  | .laneLdy o => Sys2Proof.Machine.execLaneLdy o s
  | .atomAdd o => Sys2Proof.Machine.execAtomAdd o s
  | .atomMin o => Sys2Proof.Machine.execAtomMin o s
  | .atomMax o => Sys2Proof.Machine.execAtomMax o s
  | .atomAnd o => Sys2Proof.Machine.execAtomAnd o s
  | .atomOr o => Sys2Proof.Machine.execAtomOr o s
  | .atomXor o => Sys2Proof.Machine.execAtomXor o s
  | .atomAddsat o => Sys2Proof.Machine.execAtomAddsat o s
  | .atomXchg o => Sys2Proof.Machine.execAtomXchg o s
  | .atomCas o => Sys2Proof.Machine.execAtomCas o s
  | .redAdd o => Sys2Proof.Machine.execRedAdd o s
  | .redMin o => Sys2Proof.Machine.execRedMin o s
  | .redMax o => Sys2Proof.Machine.execRedMax o s
  | .redAnd o => Sys2Proof.Machine.execRedAnd o s
  | .redOr o => Sys2Proof.Machine.execRedOr o s
  | .redXor o => Sys2Proof.Machine.execRedXor o s
  | .redAddsat o => Sys2Proof.Machine.execRedAddsat o s
  | .laneFence sc => Sys2Proof.Machine.execLaneFence sc s
  | .ballot dst p => Sys2Proof.Machine.execBallot dst p s
  | .voteCnt d p => Sys2Proof.Machine.execVoteCnt d p s
  | .voteAny q p => Sys2Proof.Machine.execVoteAny q p s
  | .voteAll q p => Sys2Proof.Machine.execVoteAll q p s
  | .voteUni o => Sys2Proof.Machine.execVoteUni o s
  | .shfl o => Sys2Proof.Machine.execShfl o s
  | .perm o => Sys2Proof.Machine.execPerm o s
  | .lred o => Sys2Proof.Machine.execLred o s
  | .plog o => Sys2Proof.Machine.execPlog o s
  | .ptest ty p a => Sys2Proof.Machine.execPtest ty p a s
  | .pget d p => Sys2Proof.Machine.execPget d p s
  | .bra imm => Sys2Proof.Machine.execBra imm s
  | .bri a imm => Sys2Proof.Machine.execBri a imm s
  | .lcall imm => Sys2Proof.Machine.execLcall imm s
  | .lcalli a imm => Sys2Proof.Machine.execLcalli a imm s
  | .lret => Sys2Proof.Machine.execLret s
  | .join imm => Sys2Proof.Machine.execJoin imm s
  | .lend => Sys2Proof.Machine.execLend s
  | .lexit => Sys2Proof.Machine.execLexit s
  | .dlaunch d a => Sys2Proof.Machine.execDlaunch d a s
  | .ltrap imm => Sys2Proof.Machine.execLtrap imm s
  | .lsigChk imm => Sys2Proof.Machine.execLsigChk imm s
  | .lcause d => Sys2Proof.Machine.execLcause d s
  | .mma o => Sys2Proof.Machine.execMma o s
  | .mmah o => Sys2Proof.Machine.execMmah o s
  | .mmav o => Sys2Proof.Machine.execMmav o s
  | .accLd o => Sys2Proof.Machine.execAccLd o s
  | .accSt sel data => Sys2Proof.Machine.execAccSt sel data s
  | .accOut o => Sys2Proof.Machine.execAccOut o s
  | .fvote d a => Sys2Proof.Machine.execFvote d a s
  | .rlxIn d j => Sys2Proof.Machine.execRlxIn d j s
  | .rlxOut a j => Sys2Proof.Machine.execRlxOut a j s
  | .rlxGet d j => Sys2Proof.Machine.execRlxGet d j s
  | .rlxStep d => Sys2Proof.Machine.execRlxStep d s
  | .rlxRes d => Sys2Proof.Machine.execRlxRes d s
  | .workgroupPlacement => Sys2Proof.Machine.execWorkgroupPlacement s
  | .gangReservation => Sys2Proof.Machine.execGangReservation s
  | .blockStart => Sys2Proof.Machine.execBlockStart s
  | .joinTimeout => Sys2Proof.Machine.execJoinTimeout s
  | .backoffEnd => Sys2Proof.Machine.execBackoffEnd s
  | .budgetOverrun => Sys2Proof.Machine.execBudgetOverrun s
  | .watchdog => Sys2Proof.Machine.execWatchdog s
  | .handlerEntry => Sys2Proof.Machine.execHandlerEntry s
  | .yieldcResume => Sys2Proof.Machine.execYieldcResume s
  | .copyStart => Sys2Proof.Machine.execCopyStart s
  | .copyComplete => Sys2Proof.Machine.execCopyComplete s
  | .bwaitChanged => Sys2Proof.Machine.execBwaitChanged s
  | .bwaitTimeout => Sys2Proof.Machine.execBwaitTimeout s
  | .cwaitReturn => Sys2Proof.Machine.execCwaitReturn s
  | .cwaitBound => Sys2Proof.Machine.execCwaitBound s
  | .barrMxArrival => Sys2Proof.Machine.execBarrMxArrival s
  | .accAllocGrant => Sys2Proof.Machine.execAccAllocGrant s
  | .accDeadlock => Sys2Proof.Machine.execAccDeadlock s
  | .accFreeRelease => Sys2Proof.Machine.execAccFreeRelease s
  | .passComplete => Sys2Proof.Machine.execPassComplete s
  | .classAging => Sys2Proof.Machine.execClassAging s
  | .mwaitReturn => Sys2Proof.Machine.execMwaitReturn s
  | .decodeStart => Sys2Proof.Machine.execDecodeStart s
  | .frameOutput => Sys2Proof.Machine.execFrameOutput s
  | .decodeComplete => Sys2Proof.Machine.execDecodeComplete s
  | .batchWaitLimit => Sys2Proof.Machine.execBatchWaitLimit s
  | .bfqTakeReturn => Sys2Proof.Machine.execBfqTakeReturn s
  | .regionOpen => Sys2Proof.Machine.execRegionOpen s
  | .passEnd => Sys2Proof.Machine.execPassEnd s
  | .cabinetStart => Sys2Proof.Machine.execCabinetStart s
  | .cabinetComplete => Sys2Proof.Machine.execCabinetComplete s
  | .eviction => Sys2Proof.Machine.execEviction s
  | .readmission => Sys2Proof.Machine.execReadmission s
  | .workgroupComplete => Sys2Proof.Machine.execWorkgroupComplete s
  | .workgroupKill => Sys2Proof.Machine.execWorkgroupKill s
  | .launchReplay => Sys2Proof.Machine.execLaunchReplay s
  | .addressSpaceKill => Sys2Proof.Machine.execAddressSpaceKill s
  | .wakeUpEnd => Sys2Proof.Machine.execWakeUpEnd s
  | .heartbeatSend => Sys2Proof.Machine.execHeartbeatSend s
  | .heartbeat => Sys2Proof.Machine.execHeartbeat s
  | .heartbeatMiss => Sys2Proof.Machine.execHeartbeatMiss s
  | .evidenceLapse => Sys2Proof.Machine.execEvidenceLapse s
  | .accuse => Sys2Proof.Machine.execAccuse s
  | .vote => Sys2Proof.Machine.execVote s
  | .withdraw => Sys2Proof.Machine.execWithdraw s
  | .voteWindowEnd => Sys2Proof.Machine.execVoteWindowEnd s
  | .cordon => Sys2Proof.Machine.execCordon s
  | .selfTestComplete => Sys2Proof.Machine.execSelfTestComplete s
  | .appeal => Sys2Proof.Machine.execAppeal s
  | .verdict => Sys2Proof.Machine.execVerdict s
  | .appealWindowEnd => Sys2Proof.Machine.execAppealWindowEnd s
  | .readmit => Sys2Proof.Machine.execReadmit s
  | .mrd => Sys2Proof.Machine.execMrd s
  | .mwr => Sys2Proof.Machine.execMwr s
  | .matom => Sys2Proof.Machine.execMatom s
  | .dbell => Sys2Proof.Machine.execDbell s
  | .mgmt => Sys2Proof.Machine.execMgmt s
  | .launch => Sys2Proof.Machine.execLaunch s
  | .signal => Sys2Proof.Machine.execSignal s
  | .wait => Sys2Proof.Machine.execWait s
  | .waitResume => Sys2Proof.Machine.execWaitResume s
  | .wrreg => Sys2Proof.Machine.execWrreg s
  | .depth => Sys2Proof.Machine.execDepth s
  | .inval => Sys2Proof.Machine.execInval s
  | .stepbegin => Sys2Proof.Machine.execStepbegin s
  | .stepend => Sys2Proof.Machine.execStepend s
  | .lossScaleUpdate => Sys2Proof.Machine.execLossScaleUpdate s
  | .pagewr => Sys2Proof.Machine.execPagewr s
  | .ctxreset => Sys2Proof.Machine.execCtxreset s
  | .attcfgWrite => Sys2Proof.Machine.execAttcfgWrite s
  | .errcntWrite => Sys2Proof.Machine.execErrcntWrite s
  | .systemRegisterWrite => Sys2Proof.Machine.execSystemRegisterWrite s
  | .governorUpdate => Sys2Proof.Machine.execGovernorUpdate s
  | .peerLinkLoss => Sys2Proof.Machine.execPeerLinkLoss s
  | .bringUp => Sys2Proof.Machine.execBringUp s
  | .illegalEncoding => Sys2Proof.Machine.execIllegalEncoding s
  | .effectiveClassRise => Sys2Proof.Machine.execEffectiveClassRise s
  | .variableLatencyResult => Sys2Proof.Machine.execVariableLatencyResult s
  | .writeQueueApply => Sys2Proof.Machine.execWriteQueueApply s
  | .unassignedMessage => Sys2Proof.Machine.execUnassignedMessage s

end Sys2Proof.Machine
end

