-- ==== Sys2Proof/Machine/Issue.lean ====
section
/-!
DEFINITION. The issue of an instruction by a stream, and the turns that a step runs (spec/02 R36, R39 to R41, R47; spec/05 R90 to
R92, R106, R107, R365; spec/06 R109, R110, R120; spec/07 R138, R155; spec/11 R234; spec/13 R271 to R274, R280, R281; spec/19
R334).
-/
namespace Sys2Proof.Machine

/-! ### What an attempt to issue comes to -/

/-- What an attempt of a stream to issue comes to. -/
inductive Try where
  /-- nothing may issue -/
  | idle
  /-- the instruction does not issue: its band notes what it waits for -/
  | waits (s : State)
  | issues (o : Out)

/-- Whether it issues. -/
def Try.runs : Try → Bool
  | .issues _ => true
  | _ => false

/-- A band enters its handler only when its `acc.ld` and `acc.st` have retired (spec/07 R155). -/
def entersEarly (s t : State) : Bool :=
  t.bands.any (fun e => e.2.held.isSome &&
    (match tget? s.bands e.1 with
      | some b => b.held.isNone && s.accBusy e.1
      | none => false))

/-- An issue that would let a band enter its handler too early does not come about. -/
def orIdle (s : State) (t : Try) : Try :=
  match t with
  | .issues (.next u) => if entersEarly s u then .idle else t
  | t => t

/-- A step of the device that would let a band enter its handler too early waits. -/
def orWait (s : State) (o : Out) : Out :=
  match o with
  | .next t => if entersEarly s t then .next s else .next t
  | o => o

/-! ### After an instruction -/

/-- The watchdog counts of a band's context on its tile return to 0 (spec/02 R47). -/
def wdReset (s : State) (b : Band) : State :=
  if b.backoff ≠ 0 then s
  else s.modTile b.ptile (fun t => { t with wd := tdel t.wd b.ctx, wdExt := tdel t.wdExt b.ctx })

/-- The results that an instruction has put under way answer from the ports that it touches. -/
def notePorts (n : Nat) (ports : List Nat) (b : Band) : Band :=
  { b with pend := b.pend.take n ++ (b.pend.drop n).map (fun p => { p with ports := ports }) }

/-- A band that has issued: its class returns to its base, and it has waited no longer (spec/02 R39, R40). -/
def Band.hasIssued (b : Band) (lane : Bool) (now : Nat) : Band :=
  if lane then { b with clsL := b.prio, waitL := 0, agedL := 0, issuedL := now }
  else { b with clsS := b.prio, waitS := 0, agedS := 0, issuedS := now }

/-- The state once an instruction of the band of s has issued and given t: its units are taken, the ALU unless it raised a cause,
the watchdog has seen it, and its stores wait in the write queues in its band's name. -/
def afterIssue (s : State) (i : Instr) (t : State) : State :=
  let k := s.cur.band
  let b := s.band k
  let t := t.modBand k (fun x => (notePorts b.pend.length (touchedPorts s i) x).hasIssued s.cur.lane (s.cycleOf b))
  let t := { t with wq := if t.cur.cause.isSome then t.wq else sentBy k s.wq t.wq }
  takeUnit (wdReset t b) b s.cur.lane (if t.cur.cause.isSome then 0 else aluHold b i)

/-- Whether an instruction that has run has only made its band wait. -/
def stillWaits (s t : State) : Bool :=
  match tget? t.bands s.cur.band with
  | none => false
  | some x => if s.cur.lane then x.sleepLane else x.wait.retries && x.wait != .none

/-- What running an instruction comes to. -/
def issued (s : State) (i : Instr) (o : Out) : Try :=
  match o with
  | .next t => if stillWaits s t then .waits t else .issues (.next (afterIssue s i t))
  | o => .issues o

/-- A stream that has met an error instead of an instruction (spec/13 R281), which takes its turn too. -/
def spends (s : State) (k : Nat) (lane : Bool) (o : Out) : Try :=
  match o with
  | .next t => .issues (.next (takeUnit t (s.band k) lane 0))
  | o => .issues o

/-- An instruction that fails a check when it issues: it traps, and it has issued (spec/02 R40, R47; log entry 53). -/
def failsCheck (s : State) (k : Nat) (lane : Bool) (o : Out) : Try :=
  let b := s.band k
  match o with
  | .next t => spends s k lane (.next (wdReset (t.modBand k (fun x => x.hasIssued lane (s.cycleOf b))) b))
  | o => .issues o

/-! ### The scalar stream -/

/-- The state as a decoded scalar instruction finds it. -/
def scalarAt (s : State) (k : Nat) (x : Extra) (w : W96) : State :=
  let b := s.band k
  (keepS (s.modBand k (fun b => { b with wait := .none })) b b.pc.toNat (w.toNat % 2 ^ 32)).issuing k false 0 w x

/-- A decoded scalar instruction: an error in band state that it uses, then what holds it back, then its meaning. -/
def scalarIssue (s : State) (k : Nat) (i : Instr) (x : Extra) (w : W96) : Try :=
  let b := s.band k
  if b.spoiled i x false then spends s k false (.next (wgError s b.wg))
  else if scoreboard s k (issueUse i x false) || wakeStall (scalarAt s k x w) i false then .idle
  else issued (scalarAt s k x w) i (exec i (scalarAt s k x w))

/-- The scalar stream of band k tries to issue. -/
def scalarTry (s : State) (k : Nat) : Try :=
  let b := s.band k
  let st := (s.modBand k (fun b => { b with wait := .none })).issuing k false 0 0 Extra.none
  if !s.awake k || b.hold ≠ 0 || !b.wait.retries || b.overrun || (b.deferWaits && s.accBusy k) ||
      !unitFree s b false .exit then .idle
  else
    match scalarFront s b with
    | .none => .idle
    | .cause c n => orIdle s (failsCheck s k false (trapScalarAs st c n .plain))
    | .poisoned => spends s k false (.next (outerError s b.launch))
    | .pagePoisoned => spends s k false (.next (pageError s b.ctx))
    | .bad .illegalEncoding _ => orIdle s (failsCheck s k false (exec .illegalEncoding st))
    | .bad .reservedNonzero w => orIdle s (failsCheck s k false (trapScalarAs st cRESERVED_NONZERO (scalarSize (w.toNat % 2 ^ 32)) .plain))
    | .ins i x w => orIdle s (scalarIssue s k i x w)

/-! ### The lane stream -/

/-- Whether an instruction reads or writes, in the fragment's lanes, what a fixed-latency instruction has not finished
(spec/05 R107). -/
def stallShort (s : State) (u : Use) : Bool :=
  let b := s.cb
  (lanesOf s.cf.mask).any (fun l =>
    u.vregs.any (fun n => s.early b false n l) || (u.pr ++ u.pw).any (fun n => s.early b true n l))

/-- The check that a lane word fails when it issues, after those of its encoding (spec/05 R91, spec/11 R234). -/
def laneCheck (s : State) (i : Instr) (x : Extra) : Option Cause :=
  let b := s.cb
  let u := issueUse i x true
  if u.vregs.any (fun n => b.budget ≤ n) then some cREG_RANGE
  else if b.run.any (fun r => r.blk.stallchk) && stallShort s u then some cSTALL_SHORT
  else bodyCause b i u.vregs u.vw

/-- Results of fixed latency that are ready need no record. -/
def pruneReady (s : State) : State :=
  let now := s.cycleOf s.cb
  s.modCb (fun b => { b with ready := b.ready.filter (fun r => decide (now < r.due)) })

/-- The live lanes outside A from which a shuffle reads an element with an uncorrectable error (spec/08 R167, spec/13 R281). -/
def badSources (s : State) : Instr → Mask
  | .shfl o =>
    let b := s.cb
    (lanesOf s.act).foldl (fun m l => match shflSource o.mode b.lanes l (s.rdN32 o.b l) with
      | some i => if !b.dead.getLsbD i && (vnums o.wide o.a).any (fun n => b.errV.contains (vkey n i)) then m ||| maskBit i else m
      | none => m) 0
  | _ => 0

/-- Lanes whose operands hold an uncorrectable error, and those whose element with one a shuffle reads, die before the instruction runs in the others (spec/13 R284). -/
def laneErrors (s : State) (i : Instr) (x : Extra) (go : State → Try) : Try :=
  let m := badLanes s i x ||| badSources s i
  if m = 0 then go s
  else
    let s' := laneKill s s.cur.band m
    match s'.cb.frag s.cur.slot with
    | some f => if f.pc == s.cf.pc && s'.lanesRun s.cur.band then go s' else spends s s.cur.band true (.next s')
    | none => spends s s.cur.band true (.next s')

/-- The state as a decoded lane instruction of fragment f finds it. -/
def laneAt (s : State) (k slot : Nat) (f : Frag) (x : Extra) (w : W96) : State :=
  pruneReady ((keepL (s.modBand k (fun b => { b with sleepLane := false })) (s.band k) f.pc.toNat w.toNat).issuing k true slot w x)

/-- A decoded lane instruction of fragment f. -/
def laneIssue (s : State) (k slot : Nat) (f : Frag) (i : Instr) (x : Extra) (w : W96) : Try :=
  let b := s.band k
  let s' := laneAt s k slot f x w
  if b.spoiled i x true then spends s k true (.next (wgError s b.wg))
  else if scoreboard s k (issueUse i x true) || (Instr.joins i && !settled s b f) || !unitFree s b true i then .idle
  else
    match laneCheck s' i x with
    | some c => failsCheck s k true (trapActive s' c)
    | none => if wakeStall s' i true then .idle else laneErrors s' i x (fun s' => issued s' i (exec i s'))

/-- A fragment of the lane stream of band k tries to issue. While a `dlaunch` of the other fragment waits for room, the lane
stream waits with it (spec/17 R314). -/
def laneTry (s : State) (k slot : Nat) : Try :=
  let b := s.band k
  let st (w : W96) (x : Extra) : State := (s.modBand k (fun b => { b with sleepLane := false })).issuing k true slot w x
  if !s.lanesRun k || b.hold ≠ 0 || b.overrun || (b.deferWaits && s.accBusy k) || b.stalledElse slot ||
      !unitFree s b true .lend then .idle
  else
    match dueFrag s b slot with
    | none => .idle
    | some f =>
      match laneFront s b f with
      | .none => .idle
      | .cause c _ => orIdle s (failsCheck s k true (trapActive (st 0 Extra.none) c))
      | .poisoned => spends s k true (.next (outerError s b.launch))
      | .pagePoisoned => spends s k true (.next (pageError s b.ctx))
      | .bad .illegalEncoding w => orIdle s (failsCheck s k true (exec .illegalEncoding (st w ⟨lGuard w, 0, 0⟩)))
      | .bad .reservedNonzero w => orIdle s (failsCheck s k true (trapActive (st w ⟨lGuard w, 0, 0⟩) cRESERVED_NONZERO))
      | .ins i x w => orIdle s (laneIssue s k slot f i x w)

/-- A stream of a band tries to issue. -/
def tryOf (s : State) (k : Nat) (lane : Bool) (slot : Nat) : Try := if lane then laneTry s k slot else scalarTry s k

/-! ### The pick (spec/02 R39) -/

/-- Whether a band has an instruction of a stream ready. Its two fragments count as one band. -/
def streamRuns (s : State) (k : Nat) (lane : Bool) : Bool :=
  if lane then (laneTry s k 0).runs || (laneTry s k 1).runs else (scalarTry s k).runs

/-- The state with the units of a band's tile free. -/
def freeUnits (s : State) (k : Nat) : State :=
  s.modTile (s.band k).ptile (fun t => { t with usedS := [], usedL := [], alu := [] })

/-- Whether a band waits in a stream (spec/02 R40): its next instruction there could issue if its unit were free. One that waits for
room in a queue waits too. -/
def waitsIn (s : State) (k : Nat) (lane : Bool) : Bool :=
  streamRuns (freeUnits s k) k lane ||
    (if lane then (s.band k).sleepLane && laneReady s k else (s.band k).wait == .space && scalarReady s k)

/-- How the streams of a band stand when a cycle starts. -/
def standing (s : State) (k : Nat) : Standing :=
  ⟨waitsIn s k false, waitsIn s k true, streamRuns s k false, streamRuns s k true, hasStopped s k⟩

/-- One cycle of a tile. -/
def tileTick (s : State) (p : Nat) : State := tileCycle s p standing

/-- Whether band x goes before band y: its effective class is higher, or it has waited ready longer. -/
def goesFirst (lane : Bool) (x y : Band) : Bool :=
  decide (y.effClass lane < x.effClass lane) ||
    (x.effClass lane == y.effClass lane &&
      (if lane then decide (y.agedL < x.agedL) else decide (y.agedS < x.agedS)))

/-- Whether a resident band issues from the partition of band b. -/
def sharesUnit (x b : Band) : Bool := x.resident && x.ptile == b.ptile && x.slot / 6 == b.slot / 6

/-- Whether the Curator may pick an instruction that is ready: no ready band of the partition goes before its band, and the other
fragment, when it is ready, issued no less recently. -/
def picked (s : State) (k : Nat) (lane : Bool) (slot : Nat) : Bool :=
  let b := s.band k
  s.bands.all (fun e => e.1 == k || !(sharesUnit e.2 b && goesFirst lane e.2 b && streamRuns s e.1 lane)) &&
    (!lane ||
      (match b.frag slot, b.frag (1 - slot) with
        | some f, some g => !(decide (g.age < f.age) && (laneTry s k (1 - slot)).runs)
        | _, _ => true))

/-! ### Causes of one cycle (spec/13 R272, R273) -/

/-- What a picked instruction does when it raises a precise cause. -/
def raises (s : State) (k : Nat) (e : Bool × Nat) : Option (Cause × State) :=
  match tryOf s k e.1 e.2 with
  | .issues (.next t) => t.cur.cause.bind (fun c => if picked s k e.1 e.2 then some (c, t) else none)
  | _ => none

/-- The precise cause of a band that is taken in this cycle: the one that ranks highest, and the lane stream's on a tie. -/
def firstCause (s : State) (k : Nat) : Option (Cause × State) :=
  ([(true, 0), (true, 1), (false, 0)].filterMap (raises s k)).foldl (fun acc e =>
    match acc with
    | none => some e
    | some a => if causeRank e.1 < causeRank a.1 then some e else some a) none

/-- The precise cause that comes before a band's deferred ones: none once its budget has run out, which withdraws the instructions of
the cycle (spec/13 R273, spec/19 R334). -/
def causeBefore (s : State) (k : Nat) : Option (Cause × State) :=
  let b := s.band k
  if b.deferWaits && b.deferred.any (fun d => d.cause == cBUDGET_OVERRUN) then none else firstCause s k

/-- A stream of band k tries to issue. Its budget's overrun comes first (spec/19 R334); an instruction issues when it is picked; of the
precise causes of the cycle one is taken, before a deferred one, which is taken before the issue. -/
def bandTurn (s : State) (k : Nat) (lane : Bool) (slot : Nat) : Out :=
  if (s.band k).overrun && s.awake k then .next (budgetOverrun s k)
  else
    match tryOf s k lane slot with
    | .idle => .next s
    | .waits t => .next t
    | .issues o =>
      if !picked s k lane slot then .next s
      else if (s.band k).deferWaits || (raises s k (lane, slot)).isSome then
        match causeBefore s k with
        | some (_, t) => .next t
        | none => .next (handlerEntry s k (if lane then slot + 1 else 0))
      else o

/-! ### Errors (spec/13 R280, spec/19 R332) -/

/-- A tile counts an error that its storage has detected and could not correct (spec/19 R332). -/
def countUnc (s : State) (p : Nat) : State := s.modTile p (fun t => { t with errUnc := min 0xFFFF (t.errUnc + 1) })

/-- An uncorrectable error in a band's registers, counted by its tile. -/
def flawBand (s : State) (k : Nat) (f : Band → Band) : State :=
  match tget? s.bands k with
  | none => s
  | some b => countUnc (s.modBand k f) b.ptile

/-- A protection code finds an error: a corrected one is counted, for the digest too; one that cannot be corrected stays
until its code is written whole or it is consumed, and a line of a cache that holds one is dropped (spec/13 R280, R281; spec/16
R310; spec/19 R332; log entry 54). A message whose flit fails its CRC is dropped (spec/14 R292). -/
def flawFound (s : State) : Flaw → State
  | .corrected p =>
    s.modTile p (fun t => { t with errCorr := min 0xFFFFFFFF (t.errCorr + 1), corrBeat := t.corrBeat + 1 })
  | .memory k =>
    let s' := { s with poison := if s.poison.contains (codeOf k) then s.poison else s.poison ++ [codeOf k] }
    if typeOf k == .sram then countUnc s' (sliceOf k) else s'
  | .vreg k n l =>
    flawBand s k (fun b => { b with errV := if b.errV.contains (vkey n l) then b.errV else b.errV ++ [vkey n l] })
  | .pred k n l =>
    flawBand s k (fun b => { b with errP := if b.errP.contains (vkey n l) then b.errP else b.errP ++ [vkey n l] })
  | .bandState _ (.sreg 0) | .bandState _ (.spred 0) => s
  | .bandState k (.queue n) => flawBand s k (fun b => { b with queue := b.queue.modify n (fun q => { q with bad := true }) })
  | .bandState k p => flawBand s k (fun b => { b with errBand := if b.errBand.contains p then b.errBand else b.errBand ++ [p] })
  | .acc q e => countUnc (s.modQuad q (fun x => { x with bad := if x.bad.contains e then x.bad else x.bad ++ [e] }))
      (q * 4 + e / 16384 / 16)
  | .l1 p line => countUnc (s.modTile p (fun t => { t with l1 := tdel t.l1 line })) p
  | .scode p k => countUnc (s.modTile p (fun t => { t with scode := tdel t.scode k })) p
  | .lcode p k => countUnc (s.modTile p (fun t => { t with lcode := tdel t.lcode k })) p
  | .record q c a => s.modQuad q (fun x => { x with records := x.records.filter (fun r => !(r.ctx == c && r.addr == a)) })
  | .op d n => s.modDie d (fun x => { x with ops := tdel x.ops n })
  | .flit p l => countUnc (s.modAtt p (fun a => { a with bufs := tset a.bufs l (tget [] a.bufs l).dropLast })) p

/-! ### Turns -/

/-- The steps that the device takes on its own. -/
def ownSteps : List Instr :=
  [.workgroupPlacement, .gangReservation, .blockStart, .joinTimeout, .backoffEnd, .budgetOverrun, .watchdog,
    .handlerEntry, .yieldcResume, .copyStart, .copyComplete, .bwaitChanged, .bwaitTimeout, .cwaitReturn] ++
  [.cwaitBound, .barrMxArrival, .accAllocGrant, .accDeadlock, .accFreeRelease, .passComplete, .classAging,
    .mwaitReturn, .decodeStart, .frameOutput, .decodeComplete, .batchWaitLimit, .bfqTakeReturn, .regionOpen] ++
  [.passEnd, .cabinetStart, .cabinetComplete, .eviction, .readmission, .workgroupComplete, .workgroupKill,
    .launchReplay, .addressSpaceKill, .wakeUpEnd, .heartbeatSend, .heartbeat, .heartbeatMiss, .evidenceLapse] ++
  [.accuse, .vote, .withdraw, .voteWindowEnd, .cordon, .selfTestComplete, .appeal, .verdict, .appealWindowEnd,
    .readmit, .launch, .signal, .wait, .waitResume, .wrreg, .depth] ++
  [.inval, .stepbegin, .stepend, .lossScaleUpdate, .pagewr, .ctxreset, .effectiveClassRise, .variableLatencyResult,
    .writeQueueApply, .unassignedMessage]

/-- The rows of the opcode table that are steps of the device: its own, and those that the host or system software asks for. -/
def Instr.isStep (i : Instr) : Bool :=
  ownSteps.contains i || [.mrd, .mwr, .matom, .dbell, .mgmt, .attcfgWrite, .errcntWrite, .systemRegisterWrite, .governorUpdate,
    .peerLinkLoss, .bringUp].contains i

/-- The even and the odd bits of a number: every pair of numbers comes from one. -/
def unzipBits : Nat → Nat → Nat × Nat
  | 0, _ => (0, 0)
  | f + 1, n => if n = 0 then (0, 0) else
    let r := unzipBits f (n / 4)
    (n % 2 + 2 * r.1, n / 2 % 2 + 2 * r.2)
def unpair (n : Nat) : Nat × Nat := unzipBits n n

/-- Turn j of the round in which every stream, every cycle and every step of the device of its own comes (spec/02 R36). -/
def fairTurn (j : Nat) : Turn :=
  let r := j / 5
  match j % 5 with
  | 0 => .scalar r
  | 1 => .lane (r / 2) (r % 2)
  | 2 => .tick (r % 200)
  | 3 => .dieTick (r % 2)
  | _ =>
    let e := unpair r
    let ab := unpair e.2
    match ownSteps[e.1 % ownSteps.length]? with
    | some i => .event i ab.1 ab.2 .none
    | none => .dieTick 0

/-- The turn that a step runs: the first of the agenda. Without one, every second turn is the schedule's, and each of the others
comes again and again (log entry 1), so that no stream and no step of the device waits for ever. -/
def State.turn (s : State) : Turn :=
  match s.agenda with
  | t :: _ => t
  | [] => if s.turnNo % 2 = 0 then Config.schedule s.turnNo else fairTurn (unpair (s.turnNo / 2)).1

/-- The state as the turn finds it: the turn is taken, the free values are fresh, and nothing has been sent. -/
def State.begin_ (s : State) : State :=
  { s with agenda := s.agenda.tail, turnNo := s.turnNo + 1, nonce := s.nonce + 1, sent := [], cur := Cur.none }

/-- Whether a cycle of a tile is not over: a stream is still to issue in it, an overrun to be raised, or a class to rise (spec/02
R39, R40; spec/19 R334). -/
def cycleGoesOn (s : State) (p : Nat) : Bool :=
  s.bands.any (fun e => e.2.ptile == p && e.2.resident && s.awake e.1 &&
    (e.2.overrun || decide (64 ≤ e.2.waitS) || decide (64 ≤ e.2.waitL) || streamRuns s e.1 false || streamRuns s e.1 true))

/-- Run a turn. A deferred cause is not taken before a precise one of its cycle (spec/13 R273). -/
def runTurn (s : State) : Turn → Out
  | .scalar k => bandTurn s k false 0
  | .lane k slot => bandTurn s k true (slot % 2)
  | .event i a b inp =>
    if !Instr.isStep i || (i == .handlerEntry && (causeBefore s a).isSome) then .next s
    else orWait s (exec i { s with cur := { Cur.none with a := a, b := b, inp := inp } })
  | .tick p => if cycleGoesOn s p then .next s else .next (tileTick s p)
  | .dieTick d => .next (dieTick s d)
  | .flaw f => .next (flawFound s f)

/-- A request for the status, which alone is answered in recovery (spec/20 R344). -/
def Turn.isStatus : Turn → Bool
  | .event .mgmt _ _ (.mgmt .status) => true
  | _ => false

/-! ### Placing one instruction where the next step fetches it -/

/-- The image of a program of one word: its scalar and its lane section, each of one page. -/
def oneImage : Image := ⟨0x1000, 0x1000, 0x2000, 0xFFC, 0, 0⟩

/-- A launch of it: image at 0x10000, a private arena of one band at 0x20000, 4,096 bytes of scratchpad, a budget of 256
registers and 4 lanes. -/
def oneDesc : Nat := 0x200000000000000000000000000010000031f0000020000000000000000000000000000000000000000000000000000010000

/-- The page table that maps the first 64 KiB units to themselves: tables of levels 3 to 0 at 0x400000, 0x410000,
0x420000 and 0x430000. -/
def onePages : List (Nat × Nat) :=
  [(0x400000, 0x410001), (0x410000, 0x420001), (0x420000, 0x430001)] ++
    (List.range 4).map (fun i => (0x430000 + 8 * i, 0x10000 * i + 0xF))

/-- The device as it stands when a band of one workgroup of one launch is about to issue from `bytes`, in its scalar
stream or in its lane stream (log entry 2). -/
def placeWord (s : State) (lane : Bool) (bytes : List Byte) : State :=
  let L : Launch := { newLaunch 0 0x30000 oneDesc 0 0 none oneImage 0 with next := 1, window := [⟨0, false, 0⟩], queued := false }
  let at_ := if lane then 0x12000 else 0x11000
  let mem := (onePages.flatMap (fun e => (List.range 8).map (fun i => (e.1 + i, byteAt (leBytes 8 e.2) i)))).foldl
    (fun m c => memPut m c.1 c.2) s.mem
  let b := { newBand L 0 0 0 0 0 0 0 with launch := 0 }
  let b := if lane then { b with
      run := some ⟨⟨w64 at_, 0, false, none, false, false⟩, b.live, 0, false⟩
      slot0 := some ⟨b.live, w64 at_, 0xFFFFFFFF, 0, 0⟩ } else b
  { s with
    mem := memPuts mem at_ bytes
    up := true
    inRecovery := false
    vifs := tset s.vifs 0 { s.vif 0 with enabled := true }
    ctxs := tset s.ctxs 0 { s.ctx 0 with root := 0x400000 }
    launches := tset s.launches 0 L
    nextLaunch := max s.nextLaunch 1
    nextWg := max s.nextWg 1
    wgs := tset s.wgs 0 ⟨0, 0, 0, 0, 0, 0, 4096, 1, 0, 0, none, [], false, false⟩
    bands := tset s.bands 0 b
    agenda := (if lane then Turn.lane 0 0 else Turn.scalar 0) :: s.agenda }

end Sys2Proof.Machine
end

