-- ==== Sys2Proof/Machine/Step.lean ====
section
/-!
DEFINITION. One step of the machine: the turn of one agent (notes/assumptions/1.md), and the placing of one instruction where
the next step fetches it.
-/
namespace Sys2Proof.Machine

/-- One step: the first turn of the agenda, or the one that the schedule gives. In recovery the device answers status
requests alone (spec/20 R344). -/
def step (s : State) : Host.Outcome State Fault Refusal :=
  if s.inRecovery && !Turn.isStatus s.turn then .fault .recovery else runTurn s.begin_ s.turn

/-- The state with one instruction where the next step fetches it: a band of a launch stands before it. -/
def State.withFetchWord (s : State) (nbits w : Nat) : State :=
  if nbits ≤ 64 then placeWord s false (leBytes 8 w) else placeWord s true (leBytes 12 w)

end Sys2Proof.Machine
end

