-- ==== Sys2Proof/Claims.lean ====
section
/-!
DEFINITION. The words in which the statements of Certificates/Slice0/Obligations.lean are made: how an instruction leaves its band,
the result that a rule of the spec gives each instruction, written here from the rule and not by the meaning's own functions, and
where memory is read and written.
-/
namespace Sys2Proof.Claims
open Sys2Proof.Machine

/-! ### How an instruction leaves its band -/

/-- A scalar instruction of one word goes on at the next word; outside handler mode the word feeds SIG
(spec/06 R110, R124). -/
def onward (s : State) (b : Band) : Band :=
  { b with
    pc := b.pc + 4
    sig := if b.held.isSome then b.sig else crcWord b.sig 4 s.cur.word.toNat
    wait := .none }

/-- The scalar instruction goes on, and f is what it does to its band. Every other field of the state is as before. -/
def scalarDone (s : State) (f : Band → Band) : State := s.modCb (fun b => onward s (f b))

/-- A control transfer goes to an address, and its word is not counted (spec/06 R124). -/
def wentTo (s : State) (a : W64) (f : Band → Band) : State := s.modCb (fun b => { f b with pc := a, wait := .none })

/-- A lane instruction goes on at the next lane word, and f is what it does to its band: the issuing fragment moves on by 12, its
word feeds the fragment's signature except in the body of a region, and it issues again after its stall count
(spec/05 R106, spec/13 R288). -/
def laneDone (s : State) (f : Band → Band) : State :=
  let now := (s.tile s.cb.ptile).cycle.toNat
  s.modCb (fun b =>
    let y := f b
    match y.frag s.cur.slot with
    | none => y
    | some g => y.setFrag s.cur.slot (some { g with
        pc := s.cf.pc + 12
        lsig := if y.inBody then g.lsig else crcWord g.lsig 12 s.cur.word.toNat
        age := now
        next := now + s.cur.x.guard.stall.toNat }))

/-- A result of variable latency for a scalar register: the scoreboard holds it (spec/02 R39). -/
def scalarPend (d : SReg) (v : W64) : Pend := ⟨false, [(d.toNat, v)], [], [], [], false⟩

/-! ### Results of the scalar arithmetic (spec/06 R111 to R117) -/

/-- The place and the effective width of a bit field (R116). -/
def fieldAt (y : W64) : Nat × Nat :=
  let p := y.toNat % 64
  let w := y.toNat / 256 % 64
  (p, min (if w = 0 then 64 else w) (64 - p))

/-- The bits of a size. -/
def sizeBits : ExtSize → Nat
  | .b8 => 8
  | .b16 => 16
  | .b32 => 32

/-- A field of w bits with its sign. -/
def signedField (w x : Nat) : Int := if x.testBit (w - 1) then (x : Int) - 2 ^ w else x

/-- The destination and the result of a scalar arithmetic instruction. -/
def scalarResult (b : Band) : Instr → Option (SReg × W64)
  | .add d x y => some (d, BitVec.ofNat 64 ((b.s x).toNat + (b.s y).toNat))
  | .sub d x y => some (d, BitVec.ofInt 64 ((b.s x).toNat - (b.s y).toNat : Int))
  | .mul d x y => some (d, BitVec.ofNat 64 ((b.s x).toNat * (b.s y).toNat))
  | .mulhI64 d x y => some (d, (((b.s x).signExtend 128) * ((b.s y).signExtend 128)).extractLsb' 64 64)
  | .mulhN64 d x y => some (d, (((b.s x).setWidth 128) * ((b.s y).setWidth 128)).extractLsb' 64 64)
  | .and d x y => some (d, b.s x &&& b.s y)
  | .or d x y => some (d, b.s x ||| b.s y)
  | .xor d x y => some (d, b.s x ^^^ b.s y)
  | .shl d x y => some (d, BitVec.ofNat 64 ((b.s x).toNat * 2 ^ ((b.s y).toNat % 64)))
  | .shr d x y => some (d, BitVec.ofNat 64 ((b.s x).toNat / 2 ^ ((b.s y).toNat % 64)))
  | .sar d x y => some (d, BitVec.ofInt 64 ((b.s x).toInt / 2 ^ ((b.s y).toNat % 64)))
  | .minI64 d x y => some (d, if (b.s y).slt (b.s x) then b.s y else b.s x)
  | .maxI64 d x y => some (d, if (b.s x).slt (b.s y) then b.s y else b.s x)
  | .minN64 d x y => some (d, if (b.s y).ult (b.s x) then b.s y else b.s x)
  | .maxN64 d x y => some (d, if (b.s x).ult (b.s y) then b.s y else b.s x)
  | .addi d x i => some (d, BitVec.ofInt 64 ((b.s x).toInt + i.toInt))
  | .andi d x i => some (d, b.s x &&& BitVec.ofInt 64 i.toInt)
  | .ori d x i => some (d, b.s x ||| BitVec.ofInt 64 i.toInt)
  | .xori d x i => some (d, b.s x ^^^ BitVec.ofInt 64 i.toInt)
  | .shli d x k => some (d, BitVec.ofNat 64 ((b.s x).toNat * 2 ^ k.toNat))
  | .shri d x k => some (d, BitVec.ofNat 64 ((b.s x).toNat / 2 ^ k.toNat))
  | .sari d x k => some (d, BitVec.ofInt 64 ((b.s x).toInt / 2 ^ k.toNat))
  | .muli d x i => some (d, BitVec.ofInt 64 ((b.s x).toInt * i.toInt))
  | .movi d i => some (d, BitVec.ofInt 64 i.toInt)
  | .la d i => some (d, BitVec.ofInt 64 (b.pc.toNat + 4 * i.toInt))
  | .adds d x y k => some (d, BitVec.ofNat 64 ((b.s x).toNat + (b.s y).toNat * 2 ^ k.toNat))
  | .addsw d x y k => some (d, BitVec.ofNat 64 ((b.s x).toNat + (b.s y).toNat % 2 ^ 32 * 2 ^ k.toNat))
  | .hins d x y => some (d, (b.s y).extractLsb' 0 16 ++ (b.s x).extractLsb' 0 48)
  | .sext z d x => some (d, ((b.s x).setWidth (sizeBits z)).signExtend 64)
  | .zext z d x => some (d, ((b.s x).setWidth (sizeBits z)).setWidth 64)
  | .ext d x y =>
    let f := fieldAt (b.s y)
    some (d, BitVec.ofNat 64 ((b.s x).toNat / 2 ^ f.1 % 2 ^ f.2))
  | .exts d x y =>
    let f := fieldAt (b.s y)
    some (d, BitVec.ofInt 64 (signedField f.2 ((b.s x).toNat / 2 ^ f.1 % 2 ^ f.2)))
  | .ins d x y =>
    let f := fieldAt (b.s y)
    let m : W64 := BitVec.ofNat 64 (2 ^ f.2 - 1) <<< f.1
    some (d, (b.s d &&& ~~~m) ||| ((b.s x <<< f.1) &&& m))
  | .clz d x => some (d, BitVec.ofNat 64 (if b.s x = 0 then 64 else 63 - (b.s x).toNat.log2))
  | .popc d x => some (d, BitVec.ofNat 64 ((List.range 64).countP (fun i => (b.s x).getLsbD i)))
  | .csel d x y q neg => some (d, if xor (b.q q) neg then b.s x else b.s y)
  | _ => none

/-- Whether a condition holds of two scalar values (spec/06 R112, spec/05 R102). -/
def scalarHolds : Cond → Bool → W64 → W64 → Bool
  | .eq, _, x, y => x == y
  | .ne, _, x, y => x != y
  | .lt, true, x, y => x.ult y
  | .le, true, x, y => x.ule y
  | .gt, true, x, y => y.ult x
  | .ge, true, x, y => y.ule x
  | .lt, false, x, y => x.slt y
  | .le, false, x, y => x.sle y
  | .gt, false, x, y => y.slt x
  | .ge, false, x, y => y.sle x
  | .ord, _, _, _ | .uno, _, _, _ => false

/-! ### A step -/

/-- What a step makes of an instruction of a stream that nothing holds back, found in state v (spec/02 R39, spec/13 R272): one
that only has to wait takes no turn of its unit; of one that is picked the step takes the outcome, and where it raises a precise
cause, the highest of the causes of the cycle. One that is not picked does not issue, nor does one whose band may not enter its
handler yet (spec/07 R155). -/
def stepRuns (s u : State) (k : Nat) (lane : Bool) (slot : Nat) (i : Instr) (v : State) : Prop :=
  (∀ t, exec i v = .next t → stillWaits v t = true → step s = .next t) ∧
  (∀ t, exec i v = .next t → stillWaits v t = false → entersEarly u (afterIssue v i t) = true → step s = .next u) ∧
  (∀ t, exec i v = .next t → stillWaits v t = false → entersEarly u (afterIssue v i t) = false →
    (picked u k lane slot = false → step s = .next u) ∧
    (picked u k lane slot = true → t.cur.cause = none → step s = .next (afterIssue v i t)) ∧
    (∀ d, picked u k lane slot = true → t.cur.cause = some d →
      ∃ c t', firstCause u k = some (c, t') ∧ causeRank c ≤ causeRank d ∧ step s = .next t')) ∧
  ((∀ t, exec i v ≠ .next t) → step s = if picked u k lane slot then exec i v else .next u)

/-! ### Accesses to memory -/

/-- Byte i of an access at va lies at place k. -/
def placed (s : State) (ag : Agent) (write : Bool) (va i k : Nat) : Prop :=
  xlByte s ag write ((va + i) % 2 ^ 64) = .ok k

/-- An access passes its check (spec/08 R159), and holds no uncorrectable error (spec/13 R280). -/
def accessOk (s : State) (ag : Agent) (write strict : Bool) (va n : Nat) : Prop :=
  (∃ k, xlAccess s ag write strict va n = .ok k) ∧
    ∀ i k, i < n → placed s ag write va i k → s.poison.contains (codeOf k) = false

/-- The bytes that a load reads: each is memory's, or stands in a line of the tile's L1 where the scope does not reach past
the tile (spec/04 R74, R84). -/
def loaded (s : State) (ag : Agent) (past : Bool) (va n : Nat) (bs : List Byte) : Prop :=
  bs.length = n ∧ ∀ i, i < n → ∃ k, placed s ag false va i k ∧
    (byteAt bs i = s.peek k ∨
      past = false ∧ ∃ p line, ag.ptile = some p ∧ tget? (s.tile p).l1 (k / 128) = some line ∧
        byteAt bs i = byteAt line (k % 128))

/-- Of the tiles, only what their L1 and their translation caches hold differs. -/
def tileCaches (s t : State) : Prop := ∀ p, t.tile p =
  { s.tile p with l1 := (t.tile p).l1, l1Late := (t.tile p).l1Late, tlb := (t.tile p).tlb }

/-- Of the tiles and the dies, only what their caches hold differs (spec/18 R321: translation caches of tile and die). -/
def cachesOnly (s t : State) : Prop :=
  tileCaches s t ∧ ∀ d, t.die d = { s.die d with walks := (t.die d).walks }

/-- A place in the shadow pool that a launch under launch containment uses (spec/18 R328): a first write to a unit copies
that unit there. The pool counts whole lines of 64 bytes. -/
def pooled (s : State) (k : Nat) : Prop :=
  ∃ l L, tget? s.launches l = some L ∧ L.shadowed = true ∧
    (s.vif (L.ctx / 16)).poolBase.toNat / 64 ≤ k / 64 ∧
    k / 64 ≤ ((s.vif (L.ctx / 16)).poolBase.toNat + (s.vif (L.ctx / 16)).poolSlots * 65536) / 64

/-- The bytes at n places of an access read as `bs` after it, and every other place but the shadow pool's as before. -/
def stored (s t : State) (ag : Agent) (va : Nat) (bs : List Byte) : Prop :=
  (∀ i k, i < bs.length → placed s ag true va i k → ¬ pooled s k) →
    (∀ i k, i < bs.length → placed s ag true va i k → t.peek k = byteAt bs i) ∧
    (∀ k, ¬ pooled s k → (∀ i, i < bs.length → ¬ placed s ag true va i k) → t.peek k = s.peek k)

/-- The address of a scalar access with a displacement (spec/06 R118). -/
def dispAddr (b : Band) (a : SReg) (i : BitVec 14) : Nat := (b.s a + BitVec.ofInt 64 i.toInt).toNat

/-- The bytes of a width. -/
def bytesOf : Width → Nat
  | .w1 => 1
  | .w2 => 2
  | .w4 => 4
  | .w8 => 8

/-- A scalar load: its destination, address, bytes and scope (spec/06 R118, R119). -/
def scalarLoadOf (b : Band) : Instr → Option (SReg × Nat × Nat × Scope)
  | .ldN8 d a i => some (d, dispAddr b a i, 1, .bd)
  | .ldN16 d a i => some (d, dispAddr b a i, 2, .bd)
  | .ldN32 d a i => some (d, dispAddr b a i, 4, .bd)
  | .ldN64 d a i => some (d, dispAddr b a i, 8, .bd)
  | .ldScoped w sc d a => some (d, (b.s a).toNat, bytesOf w, sc)
  | _ => none

/-- A scalar store: the register it stores, its address and its bytes (spec/06 R118, R119). -/
def scalarStoreOf (b : Band) : Instr → Option (SReg × Nat × Nat)
  | .stN8 d a i => some (d, dispAddr b a i, 1)
  | .stN16 d a i => some (d, dispAddr b a i, 2)
  | .stN32 d a i => some (d, dispAddr b a i, 4)
  | .stN64 d a i => some (d, dispAddr b a i, 8)
  | .stScoped w _ a d => some (d, (b.s a).toNat, bytesOf w)
  | _ => none

/-- What an `ldy` does to its record and to the back-off (spec/02 R41): the value v at address a is the one recorded, or it
is not. `linked`: the address lies on a HOST or PEER page. A hold of B cycles ends as the B-th passes, in BACKOFF_END. -/
def ldyPolled (a v : W64) (linked : Bool) (b : Band) : Band :=
  if b.ldy = some (a, v) then
    let n := if b.backoff = 0 then 16 else min 4096 (2 * b.backoff)
    { b with backoff := n, hold := n + 1, backExt := linked }
  else { b with ldy := some (a, v), backoff := 0, hold := 0, backExt := linked }

/-! ### Control in the scalar stream (spec/06 R120 to R127) -/

/-- The address of a branch's label (R121). -/
def labelOf (b : Band) (off : BitVec 22) : W64 := BitVec.ofInt 64 (b.pc.toNat + 4 * off.toInt)

/-- A call leaves its return address in s63 and on the shadow stack, which holds eight (R122). Errors stay with the addresses that they
lie in, and s63 has lost its own (spec/13 R280). -/
def called (a : W64) (b : Band) : Band :=
  { b.setS 63#6 a with
    ret := (a :: b.ret).take 8
    errBand := (b.errBand.filter (fun e => e != .sreg 63)).filterMap (fun e => match e with
      | .shadow i => if i < 7 then some (.shadow (i + 1)) else none
      | e => some e) }

/-- A return takes the newest address from the shadow stack. -/
def returned (rs : List W64) (b : Band) : Band :=
  { b with
    ret := rs
    errBand := b.errBand.map (fun e => match e with
      | .shadow i => .shadow (i - 1)
      | e => e) }

/-- A write of a special register leaves no error in it (spec/13 R280). -/
def mended (n : Nat) (b : Band) : Band := { b with errBand := b.errBand.filter (fun e => e != .special n) }

/-- An entry of the lane block queue with what it captures; the first block posted in an open region is its body (R125,
spec/11 R228). -/
def postedBlock (b : Band) (addr : W64) : Block :=
  { addr := addr, jto := b.jto, stallchk := b.stallchk, table := b.bound, bad := false
    body := match b.rx with
      | some r => !r.posted
      | none => false }

/-- The special registers that `srr` reads, with their values (spec/15 R303 to R308). -/
def specialRegs (s : State) : List (Nat × Nat) :=
  let b := s.cb
  let c := s.ctx b.ctx
  let d := s.dctx (b.tile / 96 * 1024 + b.ctx)
  [(0x000, b.kparam.toNat), (0x001, b.scrbase.toNat), (0x002, b.privbase.toNat), (0x003, b.wgidx.toNat),
   (0x004, b.no), (0x005, b.lanes), (0x006, b.budget), (0x007, b.tile), (0x008, (s.tile b.ptile).cycle.toNat),
   (0x010, b.jto.toNat), (0x011, if b.stallchk then 1 else 0), (0x012, b.sig.toNat), (0x013, b.budleft.toNat),
   (0x014, b.ycstat.toNat), (0x015, b.mxStatus.toNat * 2 ^ 48 + b.mxRetired.toNat),
   (0x018, b.tvec.toNat), (0x019, b.trapcause.toNat), (0x01A, b.trappc.toNat),
   (0x01B, b.causeMask.toNat % 2 ^ 64), (0x01C, b.causeMask.toNat / 2 ^ 64),
   (0x01D, b.dead.toNat % 2 ^ 64), (0x01E, b.dead.toNat / 2 ^ 64),
   (0x020, b.rxout.toNat), (0x021, b.rxpass.toNat), (0x022, b.rxres.toNat), (0x023, b.rxpre.toNat),
   (0x024, b.rxseq.toNat), (0x040, d.ddbase.toNat), (0x041, d.ddcap.toNat), (0x042, d.vobase.toNat),
   (0x043, d.vocount.toNat), (0x044, d.specdepth), (0x045, d.bfqthr), (0x046, d.bfqmax),
   (0x060, c.contain.toNat), (0x061, c.wdlim.toNat), (0x062, c.extlim.toNat), (0x063, c.lscale.toNat),
   (0x064, c.lsn.toNat), (0x065, c.lscnt.toNat), (0x066, if c.lsovf then 1 else 0),
   (0x067, (s.vif (b.ctx / 16)).gpatUse), (0x080, 0x3356),
   (0x081, 96 + 2 * 2 ^ 8 + 8 * 2 ^ 16 + 8 * 2 ^ 24 + b.ctx / 16 % 64 * 2 ^ 32 + (if c.spare0 then 2 ^ 40 else 0) +
     (if c.spare1 then 2 ^ 41 else 0))]

/-! ### The Cabinet registers (spec/12 R250, R251) -/

/-- The state in which a band's write of a Cabinet register has had its turn. -/
def ddTurned (s : State) : Prop := ddTurn s (s.cb.tile / 96) s.cb.ctx s.cur.band = true

/-- Of two states, all but memory, the launches' records, the caches of tiles and the Cabinet of dies is as in the first. -/
def cabinetOnly (s t : State) : Prop :=
  t = { s with
    mem := t.mem, wq := t.wq, poison := t.poison, launches := t.launches, tiles := t.tiles, dies := t.dies
    dctxs := t.dctxs } ∧
  tileCaches s t ∧
  (∀ d, t.die d = { s.die d with cab := (t.die d).cab, ops := (t.die d).ops, walks := (t.die d).walks }) ∧
  ∀ l, (tget? t.launches l).map (fun L => { L with ddSave := [], replayable := false, shadow := [] }) =
    (tget? s.launches l).map (fun L => { L with ddSave := [], replayable := false, shadow := [] })

/-- The two tables of an order as memory holds them: level to variable, and variable to level (R251). -/
def orderAt (s : State) (ag : Agent) (va n : Nat) : Tbl Nat × Tbl Nat :=
  let bs := engBytes s ag va (8 * n)
  let entry (i : Nat) : Nat := leNat 4 ((List.range 4).map (fun j => byteAt bs (4 * i + j)))
  ((List.range n).map (fun i => (i, entry i)), (List.range n).map (fun i => (i, entry (n + i))))

/-- A fresh table (spec/12 R250): two terminal records and empty buckets; every other place but the shadow pool's is as
before. Places that the area names twice read as the buckets. -/
def freshTable (s t : State) (ag : Agent) (base logn : Nat) : Prop :=
  let bucket (k : Nat) : Prop := ∃ i, 16 * 2 ^ logn ≤ i ∧ i < 24 * 2 ^ logn ∧ placed s ag true base i k
  (∀ i k, i < 24 * 2 ^ logn → placed s ag true base i k → ¬ pooled s k) →
    (∀ k, bucket k → t.peek k = 0) ∧
    (∀ i k, i < 32 → placed s ag true base i k → ¬ bucket k → t.peek k = byteAt (leBytes 16 terminalRec) (i % 16)) ∧
    (∀ k, ¬ pooled s k → ¬ bucket k → (∀ i, i < 32 → ¬ placed s ag true base i k) → t.peek k = s.peek k)

/-- The tables are permutations, each the other's inverse. -/
def inverseTables (n : Nat) (l2v v2l : Tbl Nat) : Prop :=
  (∀ i, i < n → tget? v2l (tget 0 l2v i) = some i) ∧ ∀ i, i < n → tget? l2v (tget 0 v2l i) = some i

/-! ### Barriers, signals and the engines of the scalar stream (spec/10) -/

/-- An arrival of count c, poisoned or not, by agent g (R214): its result code and the object after it. -/
def arrivalOf (b : Barrier) (c : Nat) (poisoned : Bool) (g : Nat) : Nat × Barrier :=
  if b.expected = 0 then (3, b)
  else if b.arrived + c > b.expected then (2, { b with overrun := true, lastovr := g })
  else
    let b1 := { b with arrived := b.arrived + c }
    let b2 := if poisoned then { b1 with poisoned := true, pcount := min 255 (b1.pcount + 1) } else b1
    if b2.arrived = b2.expected then
      (1, { b2 with arrived := 0, phase := (b2.phase + 1) % 16, phases := (b2.phases + 1) % 2 ^ 32 })
    else (0, b2)

/-- The result word of a barrier operation (R215). -/
def resultWord (code : Nat) (b : Barrier) : W64 :=
  BitVec.ofNat 64 (code + b.phase * 2 ^ 8 + (if b.poisoned then 2 ^ 12 else 0) + (if b.overrun then 2 ^ 13 else 0))

/-- The object of a barrier operation of the present band: the address passes its checks (R213), the object lies at place k and
holds no uncorrectable error. -/
def barrierAt (s : State) (va k : Nat) : Prop :=
  va % 16 = 0 ∧ barrierPlace s s.cb.agent va = .ok k ∧ anyPoison s [k, k + 8] = false

/-- A barrier operation of the scalar stream has made its step: the object is o, a band that waits for its phase to change has
been told, and the present band has changed as f says. -/
def barrierStepped (s t : State) (va k : Nat) (o : Barrier) (f : Band → Band) : Prop :=
  stored s t s.cb.agent va (leBytes 16 o.toNat) ∧ cachesOnly s t ∧
    t = { scalarDone (wakeWaiters s k o) f with
      mem := t.mem, wq := t.wq, poison := t.poison, launches := t.launches, tiles := t.tiles, dies := t.dies }

/-- A scalar result that the scoreboard holds (spec/02 R39). -/
def pending (d : SReg) (v : W64) (b : Band) : Band := { b with pend := b.pend ++ [scalarPend d v] }

/-- The completion object of a signal after it (R207). -/
def signalled (old n st : Nat) : Nat :=
  (old + n) % 2 ^ 48 + (if old / 2 ^ 48 = 0 then st % 2 ^ 16 else old / 2 ^ 48) * 2 ^ 48

/-- What a fence does to the tile's L1: where its scope reaches past the tile the L1 is emptied (spec/04 R84, R85), and at
workgroup and tile scope the lines go that an engine has written in memory since, as the fence may end a join (spec/04 R82; log
entry 6). -/
def joined (s : State) (sc : Scope) : State :=
  if sc = .ln ∨ sc = .bd then s
  else if sc = .wg ∨ sc = .tl then
    s.modTile s.cb.ptile (fun t => { t with l1 := t.l1.filter (fun e => !t.l1Late.contains e.1), l1Late := [] })
  else s.modTile s.cb.ptile (fun t => { t with l1 := [] })

/-- A join of a scope at a tile (spec/04 R82): what the joined agents wrote is seen, so that from workgroup scope on no line of the
tile's L1 outlives it (log entry 6). -/
def joinedAt (s : State) (p : Nat) (sc : Scope) : State :=
  if sc = .ln ∨ sc = .bd then s else s.modTile p (fun t => { t with l1 := [] })

/-- Results that land in a band set its context's overflow flag when one that counts is ±Inf or NaN, in a launch with scaled
gradients (spec/03 R71). -/
def flagLanded (s : State) (b : Band) (ps : List Pend) : State :=
  match tget? s.launches b.launch with
  | some L => if ps.any (·.ovf) && L.desc.getLsbD 279 then s.modCtx b.ctx (fun c => { c with lsovf := true }) else s
  | none => s

/-! ### Accumulator tiles (spec/09 R184) -/

/-- The free tiles of an array of the present quad, the lowest first; a cordoned tile's array has none (R204). -/
def freeAcc (s : State) (i : Nat) : List Nat :=
  if (s.tile (s.cq * 4 + i)).cordoned then []
  else ((List.range 16).map (fun j => 16 * i + j)).filter (fun n => accHolder s s.cq n == none)

/-- A request's counts do not exceed the free tiles of any array. -/
def fitsAcc (s : State) (w : W64) : Prop := ∀ i, i < 4 → w.toNat / 2 ^ (8 * i) % 32 ≤ (freeAcc s i).length

/-- A band of the present quad waits with a request that fits. -/
def olderAcc (s : State) : Prop :=
  ∃ e ∈ s.bands, ∃ d w n, e.2.wait = .acc d w n ∧ e.2.resident = true ∧ e.2.ptile / 4 = s.cq ∧ s.awake e.1 = true ∧ fitsAcc s w

/-! ### Taking a trap and leaving its handler (spec/13 R269 to R276) -/

/-- TRAPCAUSE and TRAPPC of a trap (R275). -/
def trapCauseOf (cause : Cause) (lane : Nat) (multi defer : Bool) : W64 :=
  BitVec.ofNat 64 (cause.toNat + lane % 128 * 2 ^ 9 + (if multi then 2 ^ 16 else 0) + (if defer then 2 ^ 17 else 0))
def trapPcOf (addr : W64) (slot : Nat) (defer lane : Bool) : W64 :=
  BitVec.ofNat 64 (addr.toNat % 2 ^ 52 + slot % 2 * 2 ^ 61 + (if defer then 2 ^ 62 else 0) + (if lane then 2 ^ 63 else 0))

/-- Band y is band b after it has entered its handler (R274): every result under way has landed, TRAPCAUSE, TRAPPC and CAUSEV hold
the trap, s56 to s63 are exchanged with the bank, s56 and s57 hold TRAPCAUSE and TRAPPC, the pc is TVEC's, and the band
holds where its streams go on. Errors go with the registers, and what is written has none (spec/13 R280). No other field differs. -/
def enteredHandler (b y : Band) (t : Trap) : Prop :=
  let cause := trapCauseOf t.cause t.lane t.multi t.defer
  let pc := trapPcOf t.addr t.slot t.defer t.lstream
  y = { b.drain with
    sregs := y.sregs, hbank := y.hbank, causes := y.causes, trapcause := cause, trappc := pc, pc := b.tvec, wait := .none
    held := y.held, errBand := y.errBand } ∧
  y.errBand = ((b.drain.errBand.filter (fun e => !([0x019, 0x01A, 0x01B, 0x01C].map BandPart.special).contains e)).map (fun e =>
    match e with
    | .sreg n => if 56 ≤ n then BandPart.bank (n - 56) else .sreg n
    | .bank i => .sreg (56 + i)
    | e => e)).filter (fun e => e != .sreg 56 && e != .sreg 57) ∧
  y.s 56 = cause ∧ y.s 57 = pc ∧
  (∀ n : SReg, n.toNat < 56 → y.s n = b.drain.s n) ∧
  (∀ n : SReg, 58 ≤ n.toNat → y.s n = tget 0 b.hbank (n.toNat - 56)) ∧
  (∀ i, i < 8 → tget 0 y.hbank i = b.drain.s (BitVec.ofNat 6 (56 + i))) ∧
  (∀ l, tget? y.causes l = (t.entries.reverse.find? (fun e => e.1 == l)).map (·.2)) ∧
  (∃ h, y.held = some h ∧ h.pc = b.pc ∧ h.lane = t.lstream ∧ h.slot = t.slot ∧ h.fragMask = t.fragMask ∧
    h.active = t.active ∧ h.size = t.size ∧ h.kind = t.kind ∧
    h.wait = (match b.wait with | .yieldc true c d => .yieldc true c d | _ => .none))

/-- The marker of a band's `srw` has left the Cabinets' queues (spec/12 R255). -/
def noMark (s : State) (k : Nat) : State :=
  { s with dies := s.dies.map (fun (e : Nat × Die) =>
    (e.1, { e.2 with cab := e.2.cab.filter (fun c => !(c.op = 13 && c.band = k)) })) }

/-- The present band has entered its handler, and the step notes the cause. Nothing else differs, but the overflow flag of results
that landed and the marker of an `srw` of the band. -/
def trapTaken (s : State) (o : Out) (t : Trap) : Prop :=
  ∃ u, o = .next u ∧
    u = { noMark (flagLanded s s.cb s.cb.pend) s.cur.band with bands := u.bands, cur := { s.cur with cause := some t.cause } } ∧
    (∀ k, k ≠ s.cur.band → tget? u.bands k = tget? s.bands k) ∧ enteredHandler s.cb u.cb t

/-- Band k can take a trap: it stands there, outside handler mode, TVEC holds no uncorrectable error (R280), and its handler's first
word can be fetched (R276). -/
def mayTrap (s : State) (k : Nat) : Prop :=
  (tget? s.bands k).isSome ∧ (s.band k).held = none ∧ (s.band k).errBand.contains (.special 0x018) = false ∧ (s.band k).tvec ≠ 0 ∧
    ∃ p, handlerWord s (s.band k) (s.band k).tvec.toNat = .ok p
def canTrap (s : State) : Prop := mayTrap s s.cur.band

/-- The lane that the scalar stream's causes elect: the lowest live lane, or lane 0 (spec/06 R109). -/
def electedLane (b : Band) : Nat := (((List.range 128).filter (fun l => b.live.getLsbD l)).head?).getD 0

/-- The trap of a precise cause of the scalar stream (R109, R271): `tret.skip` goes past the one word. -/
def scalarTrap (s : State) (c : Cause) : Trap :=
  { entries := [(electedLane s.cb, c)], lane := electedLane s.cb, cause := c, multi := false, defer := false
    lstream := false, slot := 0, addr := s.cb.pc, fragMask := 0, active := 0, size := 4, kind := .plain }

/-- The lanes of A, lowest first. -/
def activeLanes (s : State) : List Nat := (List.range 128).filter (fun l => s.act.getLsbD l)

/-- The trap of one precise cause in every lane of A (R271); with an empty A, in the lowest lane of the fragment (spec/05
R91). -/
def laneTrap (s : State) (c : Cause) : Trap :=
  let ls := if s.act = 0 then [((List.range 128).filter (fun l => s.cf.mask.getLsbD l)).headD 0] else activeLanes s
  { entries := ls.map (fun l => (l, c)), lane := ls.headD 0, cause := c, multi := false, defer := false
    lstream := true, slot := s.cur.slot, addr := s.cf.pc, fragMask := s.cf.mask, active := s.act, size := 12
    kind := .plain }

/-- No result under way will write a register (spec/06 R110). -/
def owesNone (b : Band) (d : SReg) : Prop := ∀ p ∈ b.pend, ∀ e ∈ p.sw, e.1 ≠ d.toNat

/-- The registers of a band that leaves its handler (R274): s56 to s63 and the bank change places. -/
def bankBack (b y : Band) : Prop :=
  (∀ n : SReg, n.toNat < 56 → y.s n = b.s n) ∧
  (∀ n : SReg, 56 ≤ n.toNat → y.s n = tget 0 b.hbank (n.toNat - 56)) ∧
  ∀ i, i < 8 → tget 0 y.hbank i = b.s (BitVec.ofNat 6 (56 + i))

/-- A handler's access to a lane and a register is in range (spec/06 R133). -/
def laneInRange (s : State) (a : SReg) : Prop := s.cb.held ≠ none ∧ (s.cb.s a).toNat < s.cb.lanes
def regInRange (b : Band) (wide : Bool) (n : Nat) : Prop := if wide then n % 2 = 0 ∧ n + 1 < b.budget else n < b.budget

/-- The lane state word (spec/06 R133). -/
def laneWord (b : Band) (h : Held) (l : Nat) : W64 :=
  BitVec.ofNat 64 ((tget 0 b.causes l).toNat + (if b.dead.getLsbD l then 2 ^ 9 else 0) +
    (if h.active.getLsbD l then 2 ^ 10 else 0) + (if h.fragMask.getLsbD l then 2 ^ 11 else 0))

/-! ### Regions (spec/11 R228 to R247) -/

/-- The state x[0] of d components that rlx.begin reads at an address (R229); +0 for address 0. -/
def firstState (s : State) (va : W64) (d i : Nat) : W32 :=
  if va = 0 then 0
  else
    let bs := engBytes s { s.cb.agent with lane := false } va.toNat (4 * d)
    BitVec.ofNat 32 (leNat 4 ((List.range 4).map (fun j => byteAt bs (4 * i + j))))

/-- A bf16 tolerance that is finite and not negative; −0 is not. -/
def tolerance (x : Nat) : Prop := x < 0x7F80 ∨ x = 0x8000

/-- The checks that `rlx.begin` makes of its operands (R231): T steps, the configuration word and the address of x[0]. -/
def regionOperands (s : State) (t cfg va : W64) : Prop :=
  let b := s.cb
  let d := cfg.toNat % 16
  let mode := cfg.toNat / 2 ^ 4 % 4
  let rt := 16 * (cfg.toNat / 2 ^ 58 % 8 + 1)
  b.rx = none ∧ b.held = none ∧ va.toNat % 4 = 0 ∧
    (va ≠ 0 → ∀ i, i < 4 * d → ∃ k, placed s { b.agent with lane := false } false va.toNat i k ∧
      s.poison.contains (codeOf k) = false) ∧
    cfg.toNat < 2 ^ 61 ∧ 1 ≤ d ∧ d ≤ 8 ∧ mode ≠ 3 ∧ cfg.toNat / 2 ^ 6 % 4 ≠ 3 ∧ cfg.toNat / 2 ^ 8 % 2 ^ 12 ≠ 0 ∧
    tolerance (cfg.toNat / 2 ^ 20 % 2 ^ 16) ∧ tolerance (cfg.toNat / 2 ^ 36 % 2 ^ 16) ∧
    1 ≤ t.toNat ∧ t.toNat ≤ min 128 b.lanes ∧ (mode ≠ 2 → rt + d * rt ≤ b.budget)

/-! ### Results in the lanes (spec/07, spec/03 R49 to R57, spec/11 R235) -/

/-- The bits of a type. -/
def bitsOf : Ty → Nat
  | .i8 | .n8 => 8
  | .i16 | .n16 | .f16 | .bf16 => 16
  | .i64 | .n64 | .f64 => 64
  | .i32 | .n32 | .f32 | .bpi => 32

/-- A source of a lane as a pattern of its type's width (spec/01 R11, spec/03 R49, R50, R52). -/
def patternOf (b : Band) (ty : Ty) (x : Src) (l : Nat) : Nat :=
  match x with
  | .v n => ((b.v n.toNat l).toNat + (if ty.wide then (b.v (n.toNat + 1) l).toNat * 2 ^ 32 else 0)) % 2 ^ bitsOf ty
  | .s n => (b.s n).toNat % 2 ^ bitsOf ty

/-- A pattern as an integer of a type. -/
def integerOf (ty : Ty) (x : Nat) : Int := if ty.signed then signedField (bitsOf ty) x else x

/-- An immediate as a pattern of a type (spec/07 R137). -/
def immediateOf (ty : Ty) (x : W32) : Nat :=
  match ty with
  | .i64 => (x.signExtend 64).toNat
  | _ => x.toNat % 2 ^ bitsOf ty

/-- A result of fewer than 32 bits in its register (spec/03 R49, R52). -/
def extended (ty : Ty) (x : Nat) : W32 :=
  if ty.signed then BitVec.ofInt 32 (signedField (bitsOf ty) (x % 2 ^ bitsOf ty)) else BitVec.ofNat 32 (x % 2 ^ bitsOf ty)

/-- The pattern of an integer modulo 2^w. -/
def wrapped (ty : Ty) (x : Int) : Nat := (x % 2 ^ bitsOf ty).toNat

/-- Register r holds tangent j of register q, when the body of a region with tangents runs (spec/11 R231). -/
def tangentAt (b : Band) (q r : Nat) : Option Nat :=
  match b.rx with
  | some k =>
    if b.inBody ∧ k.jacobi = false ∧ q < k.rt then
      (List.range k.d).find? (fun j => r == b.budget - k.d * k.rt + j * k.rt + q)
    else none
  | none => none

/-- What a lane result leaves in register r of lane l: the destination, its pair, and its tangents; none is no write. -/
def laneWrites (s : State) (ty : Ty) (d : VReg) (x : Nat → Nat) (tan : Nat → Nat → W32) (r l : Nat) : Option W32 :=
  if s.act.getLsbD l then
    if ty.wide ∧ (tangentAt s.cb (d.toNat + 1) r).isSome then some 0
    else
      match tangentAt s.cb d.toNat r with
      | some j => some (tan l j)
      | none =>
        if ty.wide then
          if r = d.toNat + 1 then some (BitVec.ofNat 32 (x l / 2 ^ 32))
          else if r = d.toNat then some (BitVec.ofNat 32 (x l)) else none
        else if r = d.toNat then some (extended ty (x l)) else none
  else none

/-- The registers of a source hold no result that is not ready (spec/05 R107). -/
def steady (s : State) (ty : Ty) : Src → Prop
  | .v n => ∀ l, s.early s.cb false n.toNat l = false ∧ (ty.wide → s.early s.cb false (n.toNat + 1) l = false)
  | .s _ => True

/-- The registers that a result writes hold none. -/
def landable (s : State) (ty : Ty) (d : VReg) : Prop :=
  ∀ r l, (laneWrites s ty d (fun _ => 0) (fun _ _ => 0) r l).isSome → s.early s.cb false r l = false

/-- When a fixed-latency result is ready, which the scoreboard does not wait for, and what the register held before. -/
def readyAt (s : State) (reg lat : Nat) : Ready :=
  ⟨false, reg, s.act, (s.tile s.cb.ptile).cycle.toNat + lat, (activeLanes s).map (fun l => (l, s.cb.v reg l))⟩

/-- State t is state u after a lane instruction that leaves w in the registers, with a fixed latency. -/
def laneFixed (s u t : State) (ty : Ty) (d : VReg) (lat : Nat) (w : Nat → Nat → Option W32) : Prop :=
  t = laneDone u (fun b => { b with
    vregs := t.cb.vregs
    errV := t.cb.errV
    ready := b.ready ++ readyAt s d.toNat lat :: (if ty.wide then [readyAt s (d.toNat + 1) lat] else []) }) ∧
  ∀ r l, l < 128 → t.cb.v r l = (w r l).getD (s.cb.v r l) ∧
    (t.cb.errV.contains (vkey r l) = true ↔ s.cb.errV.contains (vkey r l) = true ∧ w r l = none)

/-- The same with a variable latency: the scoreboard holds what it will leave, and whether ±Inf or NaN will count (spec/03 R71). -/
def laneVariable (u t : State) (w : Nat → Nat → Option W32) (counts : Bool) : Prop :=
  ∃ ws : List (Nat × W32), t = laneDone u (fun b => { b with pend := b.pend ++ [⟨true, [], [], ws, [], counts⟩] }) ∧
    ∀ r l, l < 128 → (ws.reverse.find? (fun e => e.1 == vkey r l)).map (·.2) = w r l

/-- A floating result of ±Inf or NaN, when there is one, counts in a launch with scaled gradients (spec/03 R71); in the body of a
region it waits for the commit (spec/11 R245). `m`: the lanes with such a result. -/
def flagged (s : State) (some_ : Bool) (m : Mask) : State :=
  if some_ = false then s
  else if s.cb.inBody then s.modCb (fun b => { b with rx := b.rx.map (fun k => { k with ovf := k.ovf ||| m }) })
  else
    match tget? s.launches s.cb.launch with
    | some L => if L.desc.getLsbD 279 then s.modCtx s.cb.ctx (fun c => { c with lsovf := true }) else s
    | none => s

/-- What a rule of the lane tables says of an instruction: its type, destination and latency (none is variable), its
sources, its result and tangents in a lane, and whether ±Inf and NaN count. -/
structure LaneRule where
  ty : Ty
  d : VReg
  lat : Option Nat
  srcs : List (Ty × Src)
  val : Band → Nat → Nat
  tan : Band → Nat → Nat → W32
  counts : Bool

/-- The lanes of A whose result counts. -/
def LaneRule.special (r : LaneRule) (s : State) : Mask :=
  if r.counts then (activeLanes s).foldl (fun m l =>
    if (fval (fmtOf r.ty) (r.val s.cb l)).special then m ||| BitVec.ofNat 128 (2 ^ l) else m) 0
  else 0

/-- An instruction follows a rule: it completes, and where no operand is read early and no destination written early it leaves the
rule's result in the lanes of A and changes nothing else. A ±Inf or NaN counts when the instruction completes, so that a result of
variable latency takes it along outside the body of a region (spec/03 R71). -/
def LaneRule.holds (r : LaneRule) (s : State) (i : Instr) : Prop :=
  ∃ t, exec i s = .next t ∧ ((∀ e ∈ r.srcs, steady s e.1 e.2) → landable s r.ty r.d →
    let some_ := r.special s != 0
    let w := laneWrites s r.ty r.d (r.val s.cb) (r.tan s.cb)
    match r.lat with
    | some n => laneFixed s (flagged s some_ (r.special s)) t r.ty r.d n w
    | none =>
      if s.cb.inBody then laneVariable (flagged s some_ (r.special s)) t w false else laneVariable s t w some_)

/-- A latency that differs for 64-bit types. -/
def latFor (ty : Ty) (n w : Option Nat) : Option Nat := if ty.wide then w else n

/-- Rules of two sources, on integers and on patterns; the second source may be an immediate. -/
def onInts (lat : Option Nat) (o : Bin) (f : Int → Int → Int) : LaneRule where
  ty := o.ty
  d := o.d
  lat := lat
  srcs := [(o.ty, o.a), (o.ty, o.b)]
  val b l := wrapped o.ty (f (integerOf o.ty (patternOf b o.ty o.a l)) (integerOf o.ty (patternOf b o.ty o.b l)))
  tan _ _ _ := 0
  counts := false
def onIntsImm (lat : Option Nat) (o : BinI) (f : Int → Int → Int) : LaneRule where
  ty := o.ty
  d := o.d
  lat := lat
  srcs := [(o.ty, o.a)]
  val b l := wrapped o.ty (f (integerOf o.ty (patternOf b o.ty o.a l)) (integerOf o.ty (immediateOf o.ty o.imm)))
  tan _ _ _ := 0
  counts := false
def onBits (o : Bin) (f : Nat → Nat → Nat) : LaneRule where
  ty := o.ty
  d := o.d
  lat := latFor o.ty (some 2) (some 4)
  srcs := [(o.ty, o.a), (o.ty, o.b)]
  val b l := f (patternOf b o.ty o.a l) (patternOf b o.ty o.b l)
  tan _ _ _ := 0
  counts := false
def onBitsImm (o : BinI) (f : Nat → Nat → Nat) : LaneRule where
  ty := o.ty
  d := o.d
  lat := latFor o.ty (some 2) (some 4)
  srcs := [(o.ty, o.a)]
  val b l := f (patternOf b o.ty o.a l) (immediateOf o.ty o.imm)
  tan _ _ _ := 0
  counts := false

/-- Rules whose second source is an n32 amount or descriptor (R141, R144); `f` has the old destination too. -/
def onAmount (lat : Option Nat) (old : Bool) (o : Bin) (f : Nat → Nat → Nat → Nat) : LaneRule where
  ty := o.ty
  d := o.d
  lat := lat
  srcs := [(o.ty, o.a), (.n32, o.b)] ++ (if old then [(o.ty, .v o.d)] else [])
  val b l := f (patternOf b o.ty (.v o.d) l) (patternOf b o.ty o.a l) (patternOf b .n32 o.b l)
  tan _ _ _ := 0
  counts := false
def onAmountImm (lat : Option Nat) (old : Bool) (o : BinI) (f : Nat → Nat → Nat → Nat) : LaneRule where
  ty := o.ty
  d := o.d
  lat := lat
  srcs := [(o.ty, o.a)] ++ (if old then [(o.ty, .v o.d)] else [])
  val b l := f (patternOf b o.ty (.v o.d) l) (patternOf b o.ty o.a l) o.imm.toNat
  tan _ _ _ := 0
  counts := false

/-- Rules of one source. -/
def onOne (o : Un) (f : Nat → Nat) : LaneRule where
  ty := o.ty
  d := o.d
  lat := latFor o.ty (some 2) (some 4)
  srcs := [(o.ty, o.a)]
  val b l := f (patternOf b o.ty o.a l)
  tan _ _ _ := 0
  counts := false

/-- The range of an integer type. -/
def lowEnd (ty : Ty) : Int := if ty.signed then -2 ^ (bitsOf ty - 1) else 0
def highEnd (ty : Ty) : Int := if ty.signed then 2 ^ (bitsOf ty - 1) - 1 else 2 ^ bitsOf ty - 1

/-- Shifts whose amount is not masked (R141). -/
def shiftedLeft (ty : Ty) (x n : Nat) : Nat := if n < bitsOf ty then x * 2 ^ n % 2 ^ bitsOf ty else 0
def shiftedRight (ty : Ty) (x n : Nat) : Nat :=
  if n < bitsOf ty then wrapped ty (integerOf ty x / 2 ^ n) else if integerOf ty x < 0 then 2 ^ bitsOf ty - 1 else 0

/-- The place and effective width of a lane bit field (R144). -/
def laneField (d : Nat) : Nat × Nat :=
  let p := d % 2 ^ 5
  let w := d / 2 ^ 8 % 2 ^ 6
  (p, min (if w = 0 ∨ 32 < w then 32 else w) (32 - p))
def fieldOut (ty : Ty) (x d : Nat) : Nat :=
  let f := x / 2 ^ (laneField d).1 % 2 ^ (laneField d).2
  if ty = .i32 then (signedField (laneField d).2 f % 2 ^ 32).toNat else f
def fieldIn (old x d : Nat) : Nat :=
  let m : W32 := BitVec.ofNat 32 (2 ^ (laneField d).2 - 1) <<< (laneField d).1
  ((BitVec.ofNat 32 old &&& ~~~m) ||| ((BitVec.ofNat 32 x <<< (laneField d).1) &&& m)).toNat

/-- Division toward zero (R142). -/
def quotient (a b : Int) : Int := if b = 0 then 0 else Int.tdiv a b
def remainder (a b : Int) : Int := if b = 0 then a else a - b * Int.tdiv a b

/-- The rule of an integer, logic or bit-field instruction of the lanes (R140 to R144). -/
def integerRule : Instr → Option LaneRule
  | .laneAdd o => some (onInts (latFor o.ty (some 2) (some 4)) o (· + ·))
  | .laneAddImm o => some (onIntsImm (latFor o.ty (some 2) (some 4)) o (· + ·))
  | .laneSub o => some (onInts (latFor o.ty (some 2) (some 4)) o (· - ·))
  | .laneSubImm o => some (onIntsImm (latFor o.ty (some 2) (some 4)) o (· - ·))
  | .laneMul o => some (onInts (latFor o.ty (some 4) none) o (· * ·))
  | .laneMulImm o => some (onIntsImm (latFor o.ty (some 4) none) o (· * ·))
  | .mulhi o => some (onInts (latFor o.ty (some 4) none) o (fun a b => a * b / 2 ^ bitsOf o.ty))
  | .mulhiImm o => some (onIntsImm (latFor o.ty (some 4) none) o (fun a b => a * b / 2 ^ bitsOf o.ty))
  | .mad o => some
    { ty := o.ty, d := o.d, lat := latFor o.ty (some 4) none, srcs := [(o.ty, o.a), (o.ty, o.b), (o.ty, o.c)]
      val := fun b l => wrapped o.ty (integerOf o.ty (patternOf b o.ty o.a l) * integerOf o.ty (patternOf b o.ty o.b l) +
        integerOf o.ty (patternOf b o.ty o.c l))
      tan := fun _ _ _ => 0, counts := false }
  | .addsat o => some (onInts (latFor o.ty (some 2) (some 4)) o (fun a b => max (lowEnd o.ty) (min (highEnd o.ty) (a + b))))
  | .addsatImm o =>
    some (onIntsImm (latFor o.ty (some 2) (some 4)) o (fun a b => max (lowEnd o.ty) (min (highEnd o.ty) (a + b))))
  | .subsat o => some (onInts (latFor o.ty (some 2) (some 4)) o (fun a b => max (lowEnd o.ty) (min (highEnd o.ty) (a - b))))
  | .subsatImm o =>
    some (onIntsImm (latFor o.ty (some 2) (some 4)) o (fun a b => max (lowEnd o.ty) (min (highEnd o.ty) (a - b))))
  | .laneAnd o => some (onBits o (· &&& ·))
  | .laneAndImm o => some (onBitsImm o (· &&& ·))
  | .laneOr o => some (onBits o (· ||| ·))
  | .laneOrImm o => some (onBitsImm o (· ||| ·))
  | .laneXor o => some (onBits o (· ^^^ ·))
  | .laneXorImm o => some (onBitsImm o (· ^^^ ·))
  | .andn o => some (onBits o (fun a b => a ^^^ (a &&& b)))
  | .andnImm o => some (onBitsImm o (fun a b => a ^^^ (a &&& b)))
  | .laneShl o => some (onAmount (latFor o.ty (some 2) (some 4)) false o (fun _ => shiftedLeft o.ty))
  | .laneShlImm o => some (onAmountImm (latFor o.ty (some 2) (some 4)) false o (fun _ => shiftedLeft o.ty))
  | .laneShr o => some (onAmount (latFor o.ty (some 2) (some 4)) false o (fun _ => shiftedRight o.ty))
  | .laneShrImm o => some (onAmountImm (latFor o.ty (some 2) (some 4)) false o (fun _ => shiftedRight o.ty))
  | .laneMin o => some (onInts (latFor o.ty (some 2) (some 4)) o (fun a b => if b < a then b else a))
  | .laneMinImm o => some (onIntsImm (latFor o.ty (some 2) (some 4)) o (fun a b => if b < a then b else a))
  | .laneMax o => some (onInts (latFor o.ty (some 2) (some 4)) o (fun a b => if a < b then b else a))
  | .laneMaxImm o => some (onIntsImm (latFor o.ty (some 2) (some 4)) o (fun a b => if a < b then b else a))
  | .abs o => some (onOne o (fun x => (integerOf o.ty x).natAbs % 2 ^ bitsOf o.ty))
  | .neg o => some (onOne o (fun x => wrapped o.ty (-(integerOf o.ty x))))
  | .div o => some (onInts none o quotient)
  | .divImm o => some (onIntsImm none o quotient)
  | .laneRem o => some (onInts none o remainder)
  | .laneRemImm o => some (onIntsImm none o remainder)
  | .bfe o => some (onAmount (some 2) false o (fun _ => fieldOut o.ty))
  | .bfeImm o => some (onAmountImm (some 2) false o (fun _ => fieldOut o.ty))
  | .bfi o => some (onAmount (some 2) true o fieldIn)
  | .bfiImm o => some (onAmountImm (some 2) true o fieldIn)
  | .lanePopc o => some (onOne o (fun x => (List.range (bitsOf o.ty)).countP (fun i => x.testBit i)))
  | .laneClz o => some (onOne o (fun x => if x = 0 then bitsOf o.ty else bitsOf o.ty - 1 - x.log2))
  | .ctz o => some (onOne o (fun x => ((List.range (bitsOf o.ty)).find? (fun i => x.testBit i)).getD (bitsOf o.ty)))
  | .brev o => some (onOne o (fun x =>
      ((List.range (bitsOf o.ty)).map (fun i => if x.testBit i then 2 ^ (bitsOf o.ty - 1 - i) else 0)).sum))
  | _ => none

/-! ### Floating results (spec/03 R51 to R57, spec/07 R147 to R152, spec/11 R235) -/

/-- The f32 operations of the tangent rules: each rounds once, to nearest even. -/
def single : Fmt := ⟨8, 23⟩
def nearest (x : FVal) : Nat := fround single .rne x
def plusT (a b : Nat) : Nat := nearest (faddV .rne (fval single a) (fval single b))
def minusT (a b : Nat) : Nat := nearest (faddV .rne (fval single a) (fnegV (fval single b)))
def timesT (a b : Nat) : Nat := nearest (fmulV (fval single a) (fval single b))
def overT (a b : Nat) : Nat := nearest (fdivV (fval single a) (fval single b))
/-- a × b + c, and c − a × b, with one rounding. -/
def fmaT (a b c : Nat) : Nat := nearest (faddV .rne (fmulV (fval single a) (fval single b)) (fval single c))
def fmsT (a b c : Nat) : Nat := nearest (faddV .rne (fmulV (fnegV (fval single a)) (fval single b)) (fval single c))
/-- 1.0 and the canonical NaN. -/
def oneT : Nat := 0x3F800000
def nanT : Nat := 0x7FC00000

/-- Tangent j of a source in a lane; zero for a scalar, and for a register that carries none. -/
def tangentOf (b : Band) (x : Src) (l j : Nat) : Nat :=
  match x with
  | .v n =>
    match b.rx with
    | some k =>
      if b.inBody ∧ k.jacobi = false ∧ n.toNat < k.rt then
        (b.v (b.budget - k.d * k.rt + j * k.rt + n.toNat) l).toNat
      else 0
    | none => 0
  | .s _ => 0

/-- A second source that may be an immediate, and its tangent. -/
def secondOf (b : Band) (ty : Ty) (x : Src ⊕ W32) (l : Nat) : Nat :=
  match x with
  | .inl y => patternOf b ty y l
  | .inr i => immediateOf ty i
def secondTangent (b : Band) (x : Src ⊕ W32) (l j : Nat) : Nat :=
  match x with
  | .inl y => tangentOf b y l j
  | .inr _ => 0
def secondSrc (ty : Ty) : Src ⊕ W32 → List (Ty × Src)
  | .inl y => [(ty, y)]
  | .inr _ => []

/-- A floating rule of two sources: its result from their patterns, its tangent from patterns, result and tangents. -/
def floats (ty : Ty) (d : VReg) (a : Src) (c : Src ⊕ W32) (lat : Option Nat) (f : Nat → Nat → Nat)
    (t : Nat → Nat → Nat → Nat → Nat → Nat) : LaneRule where
  ty := ty
  d := d
  lat := lat
  srcs := (ty, a) :: secondSrc ty c
  val b l := f (patternOf b ty a l) (secondOf b ty c l)
  tan b l j := BitVec.ofNat 32 (t (patternOf b ty a l) (secondOf b ty c l) (f (patternOf b ty a l) (secondOf b ty c l))
    (tangentOf b a l j) (secondTangent b c l j))
  counts := true

/-- A floating rule of one source. -/
def floats1 (o : Un) (lat : Option Nat) (f : Nat → Nat) (t : Nat → Nat → Nat → Nat) : LaneRule where
  ty := o.ty
  d := o.d
  lat := lat
  srcs := [(o.ty, o.a)]
  val b l := f (patternOf b o.ty o.a l)
  tan b l j := BitVec.ofNat 32 (t (patternOf b o.ty o.a l) (f (patternOf b o.ty o.a l)) (tangentOf b o.a l j))
  counts := true

/-- One rounding of the exact result (R147). -/
def roundedTo (ty : Ty) (rm : Rm) (x : FVal) : Nat := fround (fmtOf ty) rm x
def valueOf (ty : Ty) (x : Nat) : FVal := fval (fmtOf ty) x

def faddRule (ty : Ty) (rm : Rm) (d : VReg) (a : Src) (c : Src ⊕ W32) : LaneRule :=
  floats ty d a c (latFor ty (some 4) none) (fun x y => roundedTo ty rm (faddV rm (valueOf ty x) (valueOf ty y)))
    (fun _ _ _ p q => plusT p q)
def fsubRule (ty : Ty) (rm : Rm) (d : VReg) (a : Src) (c : Src ⊕ W32) : LaneRule :=
  floats ty d a c (latFor ty (some 4) none)
    (fun x y => roundedTo ty rm (faddV rm (valueOf ty x) (fnegV (valueOf ty y)))) (fun _ _ _ p q => minusT p q)
def fmulRule (ty : Ty) (rm : Rm) (d : VReg) (a : Src) (c : Src ⊕ W32) : LaneRule :=
  floats ty d a c (latFor ty (some 4) none) (fun x y => roundedTo ty rm (fmulV (valueOf ty x) (valueOf ty y)))
    (fun x y _ p q => fmaT x q (timesT p y))
def fdivRule (ty : Ty) (rm : Rm) (d : VReg) (a : Src) (c : Src ⊕ W32) : LaneRule :=
  floats ty d a c none (fun x y => roundedTo ty rm (fdivV (valueOf ty x) (valueOf ty y)))
    (fun _ y v p q => overT (fmsT v q p) y)

/-- The rank of a number in the order of R148: −0 stands below +0. -/
def rankOf (ty : Ty) (x : Nat) : Int :=
  if x / 2 ^ (bitsOf ty - 1) % 2 = 1 then -1 - (x % 2 ^ (bitsOf ty - 1) : Nat) else (x % 2 ^ (bitsOf ty - 1) : Nat)

/-- fmax and fmin (R148): which operand is selected, and none when both are NaN. -/
def selected (ty : Ty) (most : Bool) (x y : Nat) : Option Bool :=
  match valueOf ty x, valueOf ty y with
  | .nan, .nan => none
  | .nan, _ => some false
  | _, .nan => some true
  | _, _ => some (if most then decide (rankOf ty y ≤ rankOf ty x) else decide (rankOf ty x ≤ rankOf ty y))
def fmaxRule (most : Bool) (ty : Ty) (d : VReg) (a : Src) (c : Src ⊕ W32) : LaneRule :=
  floats ty d a c (latFor ty (some 2) (some 4))
    (fun x y => match selected ty most x y with
      | some true => x
      | some false => y
      | none => roundedTo ty .rne .nan)
    (fun x y _ p q => match selected ty most x y with
      | some true => p
      | some false => q
      | none => nanT)

/-- The rule of a floating instruction of the lanes (R147 to R149) with its tangents. -/
def floatRule : Instr → Option LaneRule
  | .fadd o => some (faddRule o.ty o.rm o.d o.a (.inl o.b))
  | .faddImm o => some (faddRule o.ty o.rm o.d o.a (.inr o.imm))
  | .fsub o => some (fsubRule o.ty o.rm o.d o.a (.inl o.b))
  | .fsubImm o => some (fsubRule o.ty o.rm o.d o.a (.inr o.imm))
  | .fmul o => some (fmulRule o.ty o.rm o.d o.a (.inl o.b))
  | .fmulImm o => some (fmulRule o.ty o.rm o.d o.a (.inr o.imm))
  | .fdiv o => some (fdivRule o.ty o.rm o.d o.a (.inl o.b))
  | .fdivImm o => some (fdivRule o.ty o.rm o.d o.a (.inr o.imm))
  | .fsqrt o => some (floats1 ⟨o.ty, o.d, o.a⟩ none (fun x => roundedTo o.ty o.rm (fsqrtV (valueOf o.ty x)))
      (fun _ v p => nearest (fdivV (fval single p) (fmulV (.fin false 2 0) (fval single v)))))
  | .frnd o => some (floats1 ⟨o.ty, o.d, o.a⟩ (latFor o.ty (some 4) none)
      (fun x => roundedTo o.ty o.rm (frndV o.rm (valueOf o.ty x))) (fun _ _ _ => 0))
  | .ffma o => some
    { ty := o.ty, d := o.d, lat := latFor o.ty (some 4) none, srcs := [(o.ty, o.a), (o.ty, o.b), (o.ty, o.c)]
      val := fun b l => roundedTo o.ty o.rm (faddV o.rm
        (fmulV (valueOf o.ty (patternOf b o.ty o.a l)) (valueOf o.ty (patternOf b o.ty o.b l)))
        (valueOf o.ty (patternOf b o.ty o.c l)))
      tan := fun b l j => BitVec.ofNat 32 (fmaT (patternOf b o.ty o.a l) (tangentOf b o.b l j)
        (fmaT (tangentOf b o.a l j) (patternOf b o.ty o.b l) (tangentOf b o.c l j)))
      counts := true }
  | .fmax o => some (fmaxRule true o.ty o.d o.a (.inl o.b))
  | .fmaxImm o => some (fmaxRule true o.ty o.d o.a (.inr o.imm))
  | .fmin o => some (fmaxRule false o.ty o.d o.a (.inl o.b))
  | .fminImm o => some (fmaxRule false o.ty o.d o.a (.inr o.imm))
  | .fabs o => some (onOne o (fun x => x % 2 ^ (bitsOf o.ty - 1)))
  | .fneg o => some (onOne o (fun x => (x + 2 ^ (bitsOf o.ty - 1)) % 2 ^ bitsOf o.ty))
  | _ => none

/-- The rule of an approximated function (R151): its tangent for the differentiable ones. -/
def approxRule (o : Un) (fn : Config.Approx) (t : Nat → Nat → Nat → Nat) : LaneRule :=
  floats1 o none (approxB o.ty fn) t
def approximated : Instr → Option LaneRule
  | .fexp o => some (approxRule o .exp (fun _ v p => timesT v p))
  | .fexp2 o => some (approxRule o .exp2 (fun _ _ _ => 0))
  | .flog o => some (approxRule o .log (fun x _ p => overT p x))
  | .flog2 o => some (approxRule o .log2 (fun _ _ _ => 0))
  | .ftanh o => some (approxRule o .tanh (fun _ v p => timesT (fmsT v v oneT) p))
  | .fsig o => some (approxRule o .sig (fun _ v p => timesT (timesT v (minusT oneT v)) p))
  | .frsqrt o => some (approxRule o .rsqrt (fun _ _ _ => 0))
  | .fsin o => some (approxRule o .sin (fun _ _ _ => 0))
  | .fcos o => some (approxRule o .cos (fun _ _ _ => 0))
  | _ => none

/-! ### Moves, lane numbers, random numbers and what handlers left -/

/-- The keyed random function (spec/03 R70). -/
def keyedRandom (k i : W64) : W64 :=
  let z := i + k * 0xD1B54A32D192ED03
  let z := (z ^^^ (z >>> 31)) * 0x7FB5D329728EA185
  let z := (z ^^^ (z >>> 27)) * 0x81DADEF4BC2DD44D
  z ^^^ (z >>> 33)

/-- A result without sources that moves on tangents of zero. -/
def given (ty : Ty) (d : VReg) (lat : Option Nat) (f : Band → Nat → Nat) : LaneRule where
  ty := ty
  d := d
  lat := lat
  srcs := []
  val := f
  tan _ _ _ := 0
  counts := false

/-- The rule of a move (R145), of `rng` (R154), and of `lidx` and `lcause`. -/
def moveRule : Instr → Option LaneRule
  | .mov o => some
    { ty := o.ty, d := o.d, lat := latFor o.ty (some 2) (some 4), srcs := [(o.ty, o.a)], counts := false
      val := fun b l => patternOf b o.ty o.a l
      tan := fun b l j => if o.ty = .f32 then BitVec.ofNat 32 (tangentOf b o.a l j) else 0 }
  | .movImm o => some (given o.ty o.d (latFor o.ty (some 2) (some 4)) (fun _ _ => immediateOf o.ty o.imm))
  | .lidx d => some (given .n32 d (some 2) (fun _ l => l))
  | .lcause d => some (given .n32 d (some 2) (fun b l => (tget 0 b.causes l).toNat))
  | .rng o => some
    { ty := o.ty, d := o.d, lat := some 6, srcs := [(.n32, o.a)], counts := false
      val := fun b l =>
        let z := (keyedRandom (b.s o.c) (b.s o.b + BitVec.ofNat 64 (patternOf b .n32 o.a l))).toNat
        if o.ty = .f32 then roundedTo .f32 .rne (.fin false (z / 2 ^ 40) (-24)) else z / 2 ^ 32
      tan := fun _ _ _ => 0 }
  | _ => none

/-- The second source of a select on a predicate that is ready. -/
def selectRule (o : SelOp) : LaneRule where
  ty := o.ty
  d := o.d
  lat := latFor o.ty (some 2) (some 4)
  srcs := [(o.ty, o.a), (o.ty, o.b)]
  val b l := patternOf b o.ty (if xor (b.p o.p.toNat l) o.np then o.a else o.b) l
  tan b l j := if o.ty = .f32 then
      BitVec.ofNat 32 (tangentOf b (if xor (b.p o.p.toNat l) o.np then o.a else o.b) l j) else 0
  counts := false

/-! ### Lane predicates (R146, R150, spec/08 R170) -/

/-- A predicate holds no result that is not ready. -/
def steadyP (s : State) (p : PReg) : Prop := ∀ l, s.early s.cb true p.toNat l = false

/-- A lane instruction leaves x in a predicate, in the lanes of A. A write to p0 is discarded. -/
def predicateSet (s t : State) (p : PReg) (lat : Nat) (x : Nat → Bool) : Prop :=
  t = laneDone s (fun b => { b with
    preds := t.cb.preds
    errP := t.cb.errP
    ready := b.ready ++ (if p = 0 then [] else [⟨true, p.toNat, s.act, (s.tile s.cb.ptile).cycle.toNat + lat, []⟩]) }) ∧
  ∀ j l, l < 128 →
    let here := j = p.toNat ∧ p ≠ 0 ∧ s.act.getLsbD l = true
    (t.cb.p j l = true ↔ (here ∧ x l = true) ∨ (¬ here ∧ s.cb.p j l = true)) ∧
    (t.cb.errP.contains (vkey j l) = true ↔ s.cb.errP.contains (vkey j l) = true ∧ ¬ here)

/-- An integer compare on exact values. -/
def holdsFor : Cond → Int → Int → Bool
  | .eq, x, y => x == y
  | .ne, x, y => x != y
  | .lt, x, y => decide (x < y)
  | .le, x, y => decide (x ≤ y)
  | .gt, x, y => decide (y < x)
  | .ge, x, y => decide (y ≤ x)
  | .ord, _, _ => true
  | .uno, _, _ => false

/-- A finite value scaled by 2^1074: exact for every f16, bf16, f32 and f64. -/
def scaled (neg : Bool) (m : Nat) (e : Int) : Int := if neg then -(m * 2 ^ (e + 1074).toNat : Nat) else (m * 2 ^ (e + 1074).toNat : Nat)

/-- A floating compare (R150): the infinities lie beyond every finite value, and with a NaN only ne and uno hold. -/
def floatHolds (ty : Ty) (c : Cond) (x y : Nat) : Bool :=
  let place : FVal → Int × Int
    | .inf neg => (if neg then -1 else 1, 0)
    | .fin neg m e => (0, scaled neg m e)
    | .nan => (0, 0)
  match valueOf ty x, valueOf ty y with
  | .nan, _ | _, .nan => c == .ne || c == .uno
  | a, b =>
    if (place a).1 = (place b).1 then holdsFor c (place a).2 (place b).2 else holdsFor c (place a).1 (place b).1

/-! ### Accesses of the lanes (spec/08 R157 to R163, spec/05 R101) -/

/-- The address of a lane. -/
def addressOf (b : Band) (m : MemAddr) (l : Nat) : Nat :=
  let base : W64 := match m.base with | some n => b.s n | none => 0
  let ofs : W64 := match m.ofs with | some n => (b.v n.toNat l).setWidth 64 | none => 0
  (base + ofs + m.imm.signExtend 64).toNat

/-- Its offset register holds no result that is not ready. -/
def steadyAddr (s : State) (m : MemAddr) : Prop := ∀ n, m.ofs = some n → ∀ l, s.early s.cb false n.toNat l = false

/-- Every lane of A passes its check. -/
def lanesOk (s : State) (m : MemAddr) (write strict : Bool) (n : Nat) : Prop :=
  ∀ l, s.act.getLsbD l = true → accessOk s s.cb.agent write strict (addressOf s.cb m l) n

/-- The bytes of each lane of A, from low to high, stand at the places of its address, a higher lane's over a lower one's; every
other place but the shadow pool's is as before. -/
def storedLanes (s t : State) (va : Nat → Nat) (n : Nat) (x : Nat → Nat) : Prop :=
  let at_ (l i k : Nat) : Prop := s.act.getLsbD l = true ∧ i < n ∧ placed s s.cb.agent true (va l) i k
  (∀ l i k, at_ l i k → ¬ pooled s k) →
    (∀ l i k, at_ l i k → (∀ m j, l < m → ¬ at_ m j k) → t.peek k = byteAt (leBytes n (x l)) i) ∧
    (∀ k, ¬ pooled s k → (∀ l i, ¬ at_ l i k) → t.peek k = s.peek k)

/-- The new value of an atomic or a reduction (R162): old value, operand, and the new value of cas. -/
def atomicNew (ty : Ty) (old b c : Nat) : AtomFn → Nat
  | .add => if ty = .f32 then roundedTo .f32 .rne (faddV .rne (valueOf .f32 old) (valueOf .f32 b)) else (old + b) % 2 ^ bitsOf ty
  | .min => if ty = .f32 then (match selected .f32 false old b with | some true => old | some false => b | none => nanT)
    else if integerOf ty b < integerOf ty old then b else old
  | .max => if ty = .f32 then (match selected .f32 true old b with | some true => old | some false => b | none => nanT)
    else if integerOf ty old < integerOf ty b then b else old
  | .and => old &&& b
  | .or => old ||| b
  | .xor => old ^^^ b
  | .addsat => wrapped ty (max (lowEnd ty) (min (highEnd ty) (integerOf ty old + integerOf ty b)))
  | .xchg => b
  | .cas => if old = b then c else old

/-- The lanes' steps one after another on the bytes m: for each step its place and its change of n bytes; the answers are the old
values, in order, and the bytes after. -/
def atomicRun (n : Nat) : List (Nat × (Nat → Nat)) → (Nat → Byte) → List Nat × (Nat → Byte)
  | [], m => ([], m)
  | (k, f) :: rest, m =>
    let old := leNat n ((List.range n).map (fun i => m (k + i)))
    let r := atomicRun n rest (fun j => if k ≤ j ∧ j < k + n then byteAt (leBytes n (f old)) (j - k) else m j)
    (old :: r.1, r.2)

/-- What the lanes of A do at a memory port: lane l at place k l changes its old value to f l old. The steps come in rising order of
the lanes; `olds` are the old values of those lanes, in that order. -/
def atomicsDone (s t : State) (k : Nat → Nat) (n : Nat) (f : Nat → Nat → Nat) (olds : List Nat) : Prop :=
  let r := atomicRun n ((activeLanes s).map (fun l => (k l, f l))) s.peek
  olds = r.1 ∧ ∀ j, ¬ pooled s j → t.peek j = r.2 j

/-- A step of the lanes writes ±Inf or NaN. -/
def atomicSpecial (ty : Ty) (s : State) (f : Nat → Nat → Nat) (olds : List Nat) : Bool :=
  ty == .f32 && ((activeLanes s).zip olds).any (fun e => (valueOf .f32 (f e.1 e.2)).special)

/-- The operation of an atomic and of a reduction. -/
def atomicOf : Instr → Option (AtomFn × AtomOp)
  | .atomAdd o => some (.add, o)
  | .atomMin o => some (.min, o)
  | .atomMax o => some (.max, o)
  | .atomAnd o => some (.and, o)
  | .atomOr o => some (.or, o)
  | .atomXor o => some (.xor, o)
  | .atomAddsat o => some (.addsat, o)
  | .atomXchg o => some (.xchg, o)
  | .atomCas o => some (.cas, o)
  | _ => none
def reductionOf : Instr → Option (AtomFn × StOp)
  | .redAdd o => some (.add, o)
  | .redMin o => some (.min, o)
  | .redMax o => some (.max, o)
  | .redAnd o => some (.and, o)
  | .redOr o => some (.or, o)
  | .redXor o => some (.xor, o)
  | .redAddsat o => some (.addsat, o)
  | _ => none

/-- State u with the memory and the caches of t. -/
def withMemory (u t : State) : State :=
  { u with
    mem := t.mem, wq := t.wq, poison := t.poison, launches := t.launches, tiles := t.tiles, dies := t.dies
    nonce := t.nonce }

/-- The back-off ends (spec/02 R41). -/
def unpolled (s : State) : State := s.modCb (fun b => { b with backoff := 0, hold := 0 })

/-! ### Across the lanes (spec/08 R164 to R170) -/

/-- The lanes of A in which a predicate reads 1. -/
def pickedLanes (s : State) (p : PReg) : List Nat := (activeLanes s).filter (fun l => s.cb.p p.toNat l)

/-- A lane instruction whose scalar or scalar-predicate result the scoreboard holds; `counts`: ±Inf or NaN, which counts as it
lands (spec/03 R71). -/
def laneCounted (s : State) (d : SReg) (v : W64) (counts : Bool) : State :=
  laneDone s (fun b => { b with pend := b.pend ++ [⟨true, [(d.toNat, v)], [], [], [], counts⟩] })
def laneScalar (s : State) (d : SReg) (v : W64) : State := laneCounted s d v false
def laneTruth (s : State) (q : QReg) (v : Bool) : State :=
  laneDone s (fun b => { b with pend := b.pend ++ [⟨true, [], [(q.toNat, v)], [], [], false⟩] })

/-- The type of an element. -/
def elementTy (wide : Bool) : Ty := if wide then .n64 else .n32

/-- A shuffle or permute: lane l of A takes the element x l, where there is one, and its flag. -/
def elementsMoved (s t : State) (wide : Bool) (d : VReg) (f : PReg) (x : Nat → Option Nat) (flag : Nat → Bool) : Prop :=
  let cycle := (s.tile s.cb.ptile).cycle.toNat + 4
  t = laneDone s (fun b => { b with
    vregs := t.cb.vregs
    errV := t.cb.errV
    preds := t.cb.preds
    errP := t.cb.errP
    ready := b.ready ++ [readyAt s d.toNat 4] ++ (if f = 0 then [] else [⟨true, f.toNat, s.act, cycle, []⟩]) ++
      (if wide then [readyAt s (d.toNat + 1) 4] else []) }) ∧
  (∀ r l, l < 128 →
    let w : Option W32 := if s.act.getLsbD l then
        (x l).bind (fun v => if r = d.toNat then some (BitVec.ofNat 32 v)
          else if wide ∧ r = d.toNat + 1 then some (BitVec.ofNat 32 (v / 2 ^ 32)) else none)
      else none
    t.cb.v r l = w.getD (s.cb.v r l) ∧
    (t.cb.errV.contains (vkey r l) = true ↔ s.cb.errV.contains (vkey r l) = true ∧ w = none)) ∧
  ∀ j l, l < 128 →
    let here := j = f.toNat ∧ f ≠ 0 ∧ s.act.getLsbD l = true
    (t.cb.p j l = true ↔ (here ∧ flag l = true) ∨ (¬ here ∧ s.cb.p j l = true)) ∧
    (t.cb.errP.contains (vkey j l) = true ↔ s.cb.errP.contains (vkey j l) = true ∧ ¬ here)

/-- The lane that a shuffle reads (R167). -/
def shuffleFrom (mode : ShflMode) (lanes l n : Nat) : Option Nat :=
  match mode with
  | .idx => if n < lanes then some n else none
  | .up => if n ≤ l ∧ l - n < lanes then some (l - n) else none
  | .down => if l + n < lanes then some (l + n) else none
  | .xor => if l ^^^ n < lanes then some (l ^^^ n) else none

/-- The highest lane of A that names a target (R168). -/
def namedBy (s : State) (b : Src) (t : Nat) : Option Nat :=
  ((activeLanes s).filter (fun l => patternOf s.cb .n32 b l == t)).getLast?

/-- One round of a floating sum (spec/03 R68). -/
def pairUp (ty : Ty) (rm : Rm) : List Nat → List Nat
  | x :: y :: rest => roundedTo ty rm (faddV rm (valueOf ty x) (valueOf ty y)) :: pairUp ty rm rest
  | xs => xs

/-- A NaN result is the canonical one (spec/03 R54). -/
def canonical (ty : Ty) (x : Nat) : Nat := if (valueOf ty x).isNan then roundedTo ty .rne .nan else x

/-- The result of a reduction across the lanes (R169). Seven rounds leave one value of at most 128. -/
def reduced (fn : LredFn) (ty : Ty) (rm : Rm) (xs : List Nat) : Nat :=
  if ty.isFp then
    match fn with
    | .add => if xs = [] then 0 else canonical ty (((List.range 7).foldl (fun ys _ => pairUp ty rm ys) xs).headD 0)
    | .min => match xs with
      | [] => roundedTo ty .rne (.inf false)
      | x :: rest => canonical ty (rest.foldl (fun p q => match selected ty false p q with
        | some true => p | some false => q | none => roundedTo ty .rne .nan) x)
    | .max => match xs with
      | [] => roundedTo ty .rne (.inf true)
      | x :: rest => canonical ty (rest.foldl (fun p q => match selected ty true p q with
        | some true => p | some false => q | none => roundedTo ty .rne .nan) x)
    | _ => 0
  else
    match fn with
    | .add => xs.sum % 2 ^ bitsOf ty
    | .min => wrapped ty ((xs.map (integerOf ty)).foldl (fun p q => if q < p then q else p) (highEnd ty))
    | .max => wrapped ty ((xs.map (integerOf ty)).foldl (fun p q => if p < q then q else p) (lowEnd ty))
    | .and => xs.foldl (· &&& ·) (2 ^ bitsOf ty - 1)
    | .or => xs.foldl (· ||| ·) 0
    | .xor => xs.foldl (· ^^^ ·) 0

/-! ### Exact values and their rounding (spec/03 R51 to R56) -/

/-- ± m × 2^e in units of 2^u, for u no more than e. -/
def units (u : Int) (neg : Bool) (m : Nat) (e : Int) : Int := (if neg then -1 else 1) * (m * 2 ^ (e - u).toNat : Nat)

/-- m × 2^e against n × 2^k. -/
abbrev magLe (m : Nat) (e : Int) (n : Nat) (k : Int) : Prop := m * 2 ^ (e - min e k).toNat ≤ n * 2 ^ (k - min e k).toNat
abbrev magLt (m : Nat) (e : Int) (n : Nat) (k : Int) : Prop := m * 2 ^ (e - min e k).toNat < n * 2 ^ (k - min e k).toNat

/-- The formats of R51: exponent and fraction bits. -/
def formats : List Fmt := [⟨11, 52⟩, ⟨8, 23⟩, ⟨5, 10⟩, ⟨8, 7⟩]

/-- The pattern of +Inf, and the sign bit of a pattern. -/
def infPattern (f : Fmt) : Nat := (2 ^ f.eb - 1) * 2 ^ f.mb
def signPattern (f : Fmt) (neg : Bool) : Nat := if neg then 2 ^ (f.eb + f.mb) else 0

/-- The value ± m × 2^e rounded by a mode is r (R55): p is the pattern of the largest finite magnitude not above m × 2^e, which
is n units of its last place, 2^k; the pattern after it is p + 1, that of Inf beyond the largest. -/
def roundsTo (f : Fmt) (rm : Rm) (neg : Bool) (m : Nat) (e : Int) (r : Nat) : Prop :=
  ∃ (p n : Nat) (k : Int), p < infPattern f ∧ fval f p = .fin false n k ∧ magLe n k m e ∧
    (p + 1 < infPattern f → magLt m e (n + 1) k) ∧
    r = signPattern f neg + (if magLe m e n k then p else
      match rm with
      | .rtz => p
      | .rup => if neg then p else p + 1
      | .rdn => if neg then p + 1 else p
      | .rto => if p % 2 = 1 then p else p + 1
      | .rne => if magLt (2 * m) e (2 * n + 1) k then p
        else if magLt (2 * n + 1) k (2 * m) e then p + 1
        else if p % 2 = 0 then p else p + 1)

/-- The exact quotient: q in units of 2^u, or a value within one unit of it that lies on no rounding point. -/
def quotientOf (m : Nat) (e : Int) (n : Nat) (k : Int) (q : Nat) (u : Int) : Prop :=
  ∀ v, v ≤ e → v ≤ u + k →
    let x := m * 2 ^ (e - v).toNat
    let y (q : Nat) := q * n * 2 ^ (u + k - v).toNat
    (q % 2 = 0 ∧ y q = x) ∨ (q % 2 = 1 ∧ 2 ^ 64 ≤ q ∧ y (q - 1) < x ∧ x < y (q + 1))
/-- The exact square root, in the same way. -/
def rootOf (m : Nat) (e : Int) (q : Nat) (u : Int) : Prop :=
  ∀ v, v ≤ e → v ≤ 2 * u →
    let x := m * 2 ^ (e - v).toNat
    let y (q : Nat) := q * q * 2 ^ (2 * u - v).toNat
    (q % 2 = 0 ∧ y q = x) ∨ (q % 2 = 1 ∧ 2 ^ 64 ≤ q ∧ y (q - 1) < x ∧ x < y (q + 1))

/-! ### Conversions (spec/07 R152, R153, spec/03 R57 to R64) -/

/-- num ÷ den in magnitude, rounded to an integer by a mode. -/
def quotientBy (rm : Rm) (neg : Bool) (num den : Nat) : Nat :=
  let p := num / den
  let r := num % den
  if r = 0 then p
  else
    match rm with
    | .rtz => p
    | .rup => if neg then p else p + 1
    | .rdn => if neg then p + 1 else p
    | .rto => if p % 2 = 1 then p else p + 1
    | .rne => if 2 * r < den then p else if den < 2 * r then p + 1 else if p % 2 = 0 then p else p + 1

/-- x ÷ (n × 2^k) rounded to an integer and saturated; NaN gives 0. -/
def integerFrom (rm : Rm) (lo hi : Int) (n : Nat) (k : Int) : FVal → Int
  | .nan => 0
  | .inf neg => if neg then lo else hi
  | .fin neg m e =>
    let q : Int := quotientBy rm neg (m * 2 ^ (e - k).toNat) (n * 2 ^ (k - e).toNat)
    max lo (min hi (if neg then -q else q))

/-- The fields of a format word (R61): planes stored and read, SIGNED, and the scale n × 2^k. -/
def planesStored (fw : Nat) : Nat := fw / 2 ^ 4 % 2 ^ 4
def planesRead (fw : Nat) : Nat := fw / 2 ^ 8 % 2 ^ 4
def scaleOf (fw : Nat) : Nat × Int :=
  match valueOf .bf16 (fw / 2 ^ 16) with
  | .fin _ n k => (n, k)
  | _ => (0, 0)

/-- A format word that a bit-plane conversion takes (R62, R153). -/
def planesOk (fw : Nat) : Prop :=
  fw % 2 ^ 4 = 3 ∧ 1 ≤ planesStored fw ∧ planesStored fw ≤ 8 ∧ 1 ≤ planesRead fw ∧ planesRead fw ≤ planesStored fw ∧
    fw / 2 ^ 13 % 2 ^ 3 = 0 ∧ 0 < fw / 2 ^ 16 ∧ fw / 2 ^ 16 < 0x7F80

/-- The value of a pattern as a conversion reads it (R152, R153). -/
def sourceValue (ty : Ty) (fw x : Nat) : FVal :=
  if ty = .bpi then
    let p := planesStored fw
    let i : Int := if fw.testBit 12 then signedField p (x % 2 ^ p) else (x % 2 ^ p : Nat)
    let step : Int := 2 ^ (p - planesRead fw)
    let j := i / step * step
    .fin (decide (j < 0)) (j.natAbs * (scaleOf fw).1) (scaleOf fw).2
  else if ty.isFp then valueOf ty x
  else .fin (decide (integerOf ty x < 0)) (integerOf ty x).natAbs 0

/-- The pattern that a conversion writes. -/
def converted (ty : Ty) (rm : Rm) (fw : Nat) (v : FVal) : Nat :=
  if ty = .bpi then
    let p := planesStored fw
    let lo : Int := if fw.testBit 12 then -2 ^ (p - 1) else 0
    let hi : Int := if fw.testBit 12 then 2 ^ (p - 1) - 1 else 2 ^ p - 1
    (integerFrom rm lo hi (scaleOf fw).1 (scaleOf fw).2 v % 2 ^ 32).toNat
  else if ty.isFp then roundedTo ty rm v
  else wrapped ty (integerFrom rm (lowEnd ty) (highEnd ty) 1 0 v)

/-- The rule of a conversion. -/
def convertRule (o : CvtOp) : LaneRule where
  ty := o.dst
  d := o.d
  lat := if o.dst.wide ∨ o.src.wide then none else some 4
  srcs := (o.src, o.a) :: (match o.fmt with | some f => [(.n32, f)] | none => [])
  val b l :=
    let fw := match o.fmt with | some f => patternOf b .n32 f l | none => 0
    converted o.dst o.rm fw (sourceValue o.src fw (patternOf b o.src o.a l))
  tan _ _ _ := 0
  counts := o.dst.isFp

/-! ### Control in the lanes (spec/08 R171 to R179, spec/02 R29 to R31) -/

/-- The address of a label, in words of 12 bytes. -/
def laneLabel (s : State) (x : W32) : W64 := s.cf.pc + 12 * x.signExtend 64

/-- The issuing fragment as it goes on after this instruction. -/
def goingOn (s : State) : Frag :=
  let now := (s.tile s.cb.ptile).cycle.toNat
  { s.cf with age := now, next := now + s.cur.x.guard.stall.toNat }

/-- The issuing fragment moves whole to an address, and its word is not counted (spec/13 R288). -/
def laneMoved (s : State) (a : W64) : State :=
  s.modCb (fun b =>
    match b.frag s.cur.slot with
    | none => b
    | some g => b.setFrag s.cur.slot (some { goingOn s with mask := g.mask, pc := a, lsig := g.lsig }))

/-- A split whose pieces take the issuing slot, then the other slot if it is free, and lie on the stack from there, the first on
top (R29). -/
def piecesPut (sp : Split) (slot : Nat) (f : Frag) (ps : List (Mask × W64)) : Split :=
  let frag (p : Mask × W64) : Frag := { f with mask := p.1, pc := p.2 }
  let spill (p : Mask × W64) : Rec := ⟨1, p.1, 0, false, false, f.lsig, 0, p.2.toNat, false, false⟩
  let free := (if slot = 0 then sp.s1 else sp.s0).isNone
  let first := ps.head?.map frag
  let second := if free then (ps.drop 1).head?.map frag else if slot = 0 then sp.s1 else sp.s0
  { sp with
    s0 := if slot = 0 then first else second
    s1 := if slot = 0 then second else first
    recs := (ps.drop (if free then 2 else 1)).map spill ++ sp.recs
    hold := max sp.hold f.next }

/-- The entry that a split pushes, and the entry that a call pushes (R29, R175). -/
def splitEntry (m : Mask) : Rec := ⟨2, 0, m, false, false, 0, 0, 0, false, false⟩
def callEntry (m waiting : Mask) (ret : Nat) : Rec := ⟨3, waiting, m, false, false, 0, 0, ret, false, false⟩

/-- The split stack can be written, and the records fit it. -/
def stackTakes (s : State) (sp : Split) : Prop :=
  (sp.recs.map (fun r => if r.kind = 1 then 2 else 3)).sum ≤ 256 ∧
    (sp.recs ≠ [] → ∃ k, xlAccess s s.cb.agent true false s.cb.privbase.toNat 16 = .ok k)

/-- The pieces of lanes, leaving out those of no lane. -/
def somePieces (ps : List (Mask × W64)) : List (Mask × W64) := ps.filter (fun p => p.1 != 0)

/-- The lanes of A with an index, and the pieces of an indirect transfer in rising index (R173). -/
def lanesWith (s : State) (a : Src) (i : Nat) : Mask :=
  (activeLanes s).foldl (fun m l => if patternOf s.cb .n32 a l = i then m ||| BitVec.ofNat 128 (2 ^ l) else m) 0
def tableGroups (s : State) (a : Src) (es : List (Nat × Nat)) : List (Mask × W64) :=
  somePieces ((List.range es.length).map (fun i =>
    (lanesWith s a i, BitVec.ofNat 64 (s.laneBase s.cb + ((es[i]?).getD (0, 0)).2))))

/-- The table that a running block captured, when the operand names it (R173). -/
def tableOf (s : State) (x : W32) : Option TgtTable :=
  match s.cb.run with
  | some r =>
    match r.blk.table with
    | some i =>
      match tget? s.cb.copies i with
      | some t => if t.off = x.toNat then some t else none
      | none => none
    | none => none
  | none => none

/-- The entry E of R174 and its place: the topmost whose expected mask holds every lane of the fragment. -/
def entryFor (sp : Split) (m : Mask) (i : Nat) (r : Rec) : Prop :=
  sp.recs[i]? = some r ∧ r.kind ≠ 1 ∧ m &&& ~~~r.expected = 0 ∧
    ∀ j q, j < i → sp.recs[j]? = some q → q.kind = 1 ∨ m &&& ~~~q.expected ≠ 0

/-- The issuing fragment arrives at an entry, which becomes r (R30); lanes that stand there already fail the mask check of
spec/13 R289, which is raised when the entry fuses. -/
def arrivedAt (s : State) (sp : Split) (i : Nat) (old r : Rec) : Split :=
  { sp with
    s0 := if s.cur.slot = 0 then none else sp.s0
    s1 := if s.cur.slot = 0 then sp.s1 else none
    recs := sp.recs.set i { r with flaw := old.flaw || s.cf.mask &&& old.arrived != 0 }
    hold := max sp.hold (goingOn s).next }.settle

/-- An instruction, found in s, leaves state u with the split changed; a record with a wrong KIND among those it pops raises SIG_MASK,
and nothing has changed (spec/18 R324). -/
def splitChanges (s u : State) (old new : Split) (o : Host.Outcome State Fault Refusal) : Prop :=
  (new.torn = false → o = .next (putSplit u s.cur.band old new)) ∧ (new.torn = true → o = trapActive s 0x189)

/-- Lanes leave their fragments and every entry (R31). -/
def withoutLanes (sp : Split) (m : Mask) : Split :=
  let frag (f : Option Frag) : Option Frag :=
    f.bind (fun g => if g.mask &&& ~~~m = 0 then none else some { g with mask := g.mask &&& ~~~m })
  { sp with
    s0 := frag sp.s0
    s1 := frag sp.s1
    recs := sp.recs.map (fun r => { r with arrived := r.arrived &&& ~~~m, expected := r.expected &&& ~~~m }) }

/-- How often a lane stands in a split: in a slot, in a spilled fragment, or at an entry. -/
def standing (sp : Split) (l : Nat) : Nat :=
  (match sp.s0 with | some f => if f.mask.getLsbD l then 1 else 0 | none => 0) +
  (match sp.s1 with | some f => if f.mask.getLsbD l then 1 else 0 | none => 0) +
  (sp.recs.filter (fun r => r.arrived.getLsbD l)).length

/-- Every entry's arrived lanes are among those that it expects. -/
def orderly (sp : Split) : Prop := ∀ r ∈ sp.recs, r.kind ≠ 1 → r.arrived &&& ~~~r.expected = 0

/-! ### The matrix engine (spec/09 R187 to R205, spec/03 R61, R62) -/

/-- A format word is valid: a kind alone, or one of bit planes with its fields. -/
def formatGood (w : Nat) : Prop := w < 3 ∨ planesOk w

/-- A field of an operation word (R190). -/
def opField (w : W64) (i n : Nat) : Nat := w.toNat / 2 ^ i % 2 ^ n

/-- The contents of a shape record as a posting instruction takes them (R188): the quad's cached copy, or the memory's 192 bytes at
an aligned address that can be read. -/
def recordIs (s : State) (addr r : Nat) : Prop :=
  match (s.quad s.cq).records.find? (fun x => x.ctx == s.cb.ctx && x.addr == addr) with
  | some x => x.data = r
  | none => addr % 64 = 0 ∧ (∃ k, engCheck s s.cb.agent false addr 192 = .ok k) ∧
      anyPoison s (accessKeys s s.cb.agent false addr 192) = false ∧ r = leNat 192 (engBytes s s.cb.agent addr 192)

/-- A record is valid (R187): one used as A or by `acc.out` has ORDER = 0. -/
def recordGood (gather : Bool) (r : Nat) : Prop :=
  let rows := r / 2 ^ 128 % 2 ^ 16
  let cols := r / 2 ^ 144 % 2 ^ 16
  let ld := r / 2 ^ 96 % 2 ^ 32
  r < 2 ^ 165 ∧ rows ≠ 0 ∧ cols ≠ 0 ∧ r % 64 = 0 ∧
    (if r.testBit 164 then gather = true ∧ rows ≤ ld else r / 2 ^ 160 % 16 = 0 ∧ cols ≤ ld)

/-- Of the present quad's state only the record cache differs, and of the tiles and dies only what they cache. -/
def recordsOnly (s u : State) : Prop :=
  u = { s with quads := u.quads, tiles := u.tiles, dies := u.dies } ∧ cachesOnly s u ∧ (∀ q, q ≠ s.cq → u.quad q = s.quad q) ∧
    u.quad s.cq = { s.quad s.cq with records := (u.quad s.cq).records }

/-- The partner of a matrix operation: the array of a pair differs from the leader's by this in its number (R191). -/
def matrixOf : Instr → Option (Nat × MmaOp)
  | .mma o => some (0, o)
  | .mmah o => some (1, o)
  | .mmav o => some (2, o)
  | _ => none

/-- The result tiles of a matrix operation, leader first, and the tiles that it names. -/
def resultTiles (k : Nat) (w : W64) : List Nat :=
  let ct := opField w 0 6
  if k = 0 then [ct] else [ct, (ct / 16 ^^^ k) * 16 + ct % 16]
def namedTiles (k : Nat) (w : W64) : List Nat :=
  resultTiles k w ++ (if w.getLsbD 13 then [opField w 6 6] else [])

/-- The rules of an operation word (R190, R199). -/
def opWordGood (w : W64) : Prop :=
  opField w 28 4 = 0 ∧
    if w.getLsbD 13 then
      opField w 32 8 = 0 ∧ opField w 48 16 = 0 ∧ opField w 6 6 / 16 = opField w 0 6 / 16 ∧ opField w 6 6 ≠ opField w 0 6
    else opField w 6 6 = 0
def outWordGood (w : W64) : Prop := opField w 28 4 = 0 ∧ opField w 6 8 = 0 ∧ opField w 48 16 = 0

/-- The present band's workgroup holds tiles. -/
def holdsTiles (s : State) (ns : List Nat) : Prop :=
  ∃ x, tget? s.wgs s.cb.wg = some x ∧ ∀ n ∈ ns, x.acc.getLsbD n = true

/-- An entry that the present instruction posts in the quad's reservation table (R192, R196). -/
def postedEntry (s : State) (kind : Nat) (w : W64) : MxEntry :=
  let b := s.cb
  { id := s.nonce, kind := kind, band := s.cur.band, wg := b.wg, ctx := b.ctx, launch := b.launch, tile := b.tile
    ptile := b.ptile, lane := (activeLanes s).headD 0, op := w, fa := 0, fb := 0, rm := .rne, ra := 0, rb := 0, arrays := []
    tiles := [], cls := (match tget? s.launches b.launch with | some L => L.prio | none => 0), waited := 0, pass := 0
    running := false, pat := none, fits := false, seq := b.mxPosted.toNat, ty := .f32, d := 0, vals := [] }

/-- The instruction goes on with its entry in the table, and the arbiter walks; `counted`: the operation counts as posted. With the
table full the fragment waits. -/
def posted (s u : State) (counted : Bool) (e : MxEntry) (o : Out) : Prop :=
  ((s.quad s.cq).table.length < 32 → o = .next (walk
    ((laneDone u (fun b => if counted then { b with mxPosted := b.mxPosted + 1 } else b)).modQuad s.cq
      (fun q => { q with table := q.table ++ [e] })) s.cq)) ∧
  (32 ≤ (s.quad s.cq).table.length → o = .next (u.modCb (fun b => { b with sleepLane := true })))

/-- The lanes of A whose format differs from the lowest one's, each with the cause (R192). -/
def differing (s : State) (ty : Ty) (f : VReg) : List (Nat × Cause) :=
  ((activeLanes s).filter (fun l => patternOf s.cb ty (.v f) l != patternOf s.cb ty (.v f) ((activeLanes s).headD 0))).map
    (fun l => (l, (0x041 : Cause)))

/-- The element that a selector names for a lane (R198): row and column. -/
def selectedElement (w : W64) (l : Nat) : Nat × Nat :=
  let r := opField w 6 7
  if w.getLsbD 13 then (l, r) else (r, l)

/-! ### Child launches (spec/08 R178, spec/17 R316) -/

/-- The children of some lanes are created in order, each from the descriptor that the agent reads at its address; none when one must
wait, for its place in the parent's table or in a queue. -/
def childrenMade (ag : Agent) (p : Nat) (addr : Nat → Nat) : List Nat → State → Option State
  | [], s => some s
  | x :: xs, s =>
    match tget? s.launches p with
    | none => none
    | some L =>
      if L.childSeq < L.childHead + 256 then
        match acceptLaunch s L.ctx (addr x) (leNat 64 (engBytes s ag (addr x) 64)) (some (p, L.childSeq)) with
        | .taken t => childrenMade ag p addr xs t
        | .refused t => childrenMade ag p addr xs t
        | .full => none
      else none

/-! ### The body of a region (spec/11 R236) -/

/-- The present instruction stands in the body of region r, in which its band has part k. -/
def inRegion (s : State) (k : RxBand) (r : Region) : Prop :=
  s.cb.inBody = true ∧ s.cb.rx = some k ∧ tget? s.regions k.leader = some r

/-- The rule of `rlx.in` for component i. -/
def guessRule (d : VReg) (k : RxBand) (r : Region) (i : Nat) : LaneRule where
  ty := .f32
  d := d
  lat := none
  srcs := []
  val _ l := (r.guess (k.first + l) i).toNat
  tan _ _ j := if j = i then 0x3F800000 else 0
  counts := false

/-! ### Steps of the device -/

/-- A band whose wait has ended goes on past its instruction, whose word counts (spec/06 R110, R124). -/
def waitOver (b : Band) : Band :=
  { b with
    pc := b.pc + 4
    sig := if b.held.isSome then b.sig else crcWord b.sig 4 b.waitWord.toNat
    wait := .none }

/-- A band takes a deferred cause at its next issue (spec/13 R273). -/
def caused (s : State) (k : Nat) (c : Cause) (lane : Option Nat) : State :=
  s.modBand k (fun b => { b with deferred := b.deferred ++ [⟨c, lane⟩] })

/-- Band k has entered its handler in state u for a trap, standing as b before it; nothing else differs, but the overflow flag of
results that landed and the marker of an `srw` of the band. -/
def bandTrapped (s u : State) (k : Nat) (b : Band) (t : Trap) : Prop :=
  u = { noMark (flagLanded s b b.pend) k with bands := u.bands } ∧ (∀ j, j ≠ k → tget? u.bands j = tget? s.bands j) ∧ (tget? u.bands k).isSome ∧
    enteredHandler b (u.band k) t

/-- Results that have landed in a band (spec/02 R39). -/
def landed (b y : Band) (p : Pend) : Prop :=
  y = { b with sregs := y.sregs, qregs := y.qregs, vregs := y.vregs, errV := y.errV, errBand := y.errBand, pend := y.pend } ∧
  (∀ e, e ∈ y.errBand ↔ e ∈ b.errBand ∧ (∀ w ∈ p.sw, w.1 % 64 ≠ 0 → e ≠ .sreg (w.1 % 64)) ∧
    ∀ w ∈ p.qw, w.1 % 8 ≠ 0 → e ≠ .spred (w.1 % 8)) ∧
  (∀ n : SReg, y.s n = if n = 0 then 0 else ((p.sw.reverse.find? (fun e => e.1 == n.toNat)).map (·.2)).getD (b.s n)) ∧
  (∀ n : QReg, y.q n = if n = 0 then true else ((p.qw.reverse.find? (fun e => e.1 == n.toNat)).map (·.2)).getD (b.q n)) ∧
  ∀ r l, l < 128 →
    let w := (p.vw.reverse.find? (fun e => e.1 == vkey r l)).map (·.2)
    y.v r l = w.getD (b.v r l) ∧
    (y.errV.contains (vkey r l) = true ↔ b.errV.contains (vkey r l) = true ∧ w = none)

/-- The lane that a deferred cause names when it is live, else the elected one (spec/13 R273). -/
def deferredLane (b : Band) : Option Nat → Nat
  | some l => if b.live.getLsbD l then l else electedLane b
  | none => electedLane b

/-- A band is parked in a context on a tile. -/
def parkedThere (s : State) (p ctx k : Nat) (b : Band) : Prop :=
  (k, b) ∈ s.bands ∧ b.ptile = p ∧ b.resident = true ∧ b.ctx = ctx ∧ b.parked = true

/-- Band k has the lowest workgroup index and number of the parked bands of a context on a tile (spec/02 R47). -/
def firstParked (s : State) (p ctx k : Nat) : Prop :=
  ∃ b, parkedThere s p ctx k b ∧ ∀ j x, j ≠ k → parkedThere s p ctx j x →
    b.wgidx.toNat < x.wgidx.toNat ∨ b.wgidx = x.wgidx ∧ b.no < x.no

/-- The free tiles of an array of a quad, lowest first, and the count for it in a count word. -/
def freeIn (s : State) (q i : Nat) : List Nat :=
  if (s.tile (q * 4 + i)).cordoned then [] else ((List.range 16).map (fun j => 16 * i + j)).filter (fun n => accHolder s q n == none)
def countFor (w : W64) (i : Nat) : Nat := w.toNat / 2 ^ (8 * i) % 32

/-- A waiting request is held up by a workgroup: in some array it exceeds the free count, and the workgroup holds a tile there
(spec/09 R186). -/
def heldUpBy (s : State) (q : Nat) (w : W64) (wg : Nat) : Prop :=
  ∃ i j, i < 4 ∧ j < 16 ∧ (freeIn s q i).length < countFor w i ∧ accHolder s q (16 * i + j) = some wg

/-- A command of a copy engine moves n bytes that can be read and written, of ranges that share no place, and none with an
uncorrectable error or in a bank that still wakes: byte i lies at place f i before, and is written at place g i. -/
def copyApart (s : State) (c : CopyCmd) (n m : Nat) (f g : Nat → Nat) : Prop :=
  let ag : Agent := ⟨c.ctx, some c.launch, some c.ptile, false⟩
  (∀ i, i < n → placed s ag false c.src.toNat i (f i) ∧ ¬ pooled s (f i) ∧ s.poison.contains (codeOf (f i)) = false) ∧
  (∀ i, i < m → placed s ag true c.dst.toNat i (g i) ∧ ¬ pooled s (g i)) ∧ copyWakes s c = false ∧
  (∀ i j, i < m → j < m → g i = g j → i = j) ∧ ∀ i j, i < n → j < m → f i ≠ g j

/-- Of a copy queue, command i has moved its data, with a status. -/
def copyMoved (s t : State) (p i st : Nat) (c : CopyCmd) : Prop :=
  (t.tile p).copies = (s.tile p).copies.set i { c with status := some st } ∧
  ∀ q, { t.tile q with l1 := [], l1Late := [], tlb := [], copies := [] } =
    { s.tile q with l1 := [], l1Late := [], tlb := [], copies := [] }

/-- The integer of 32 bits that starts at a place, read from bytes. -/
def wordAt (s : State) (f : Nat → Nat) (e : Nat) : Nat := leNat 4 ((List.range 4).map (fun j => s.peek (f (4 * e + j))))

/-- The fields of a format word of bit planes as integers: clamped to p planes (spec/03 R58). -/
def clamped (fw : Nat) (x : Nat) : Int :=
  let p := planesStored fw
  if fw.testBit 12 then max (-2 ^ (p - 1)) (min (2 ^ (p - 1) - 1) (signedField 32 x))
  else min (2 ^ p - 1) (x : Int)

/-- The bytes of one plane of n elements (spec/03 R59). -/
def planeLen (n : Nat) : Nat := 64 * ((n + 511) / 512)

/-- A signal of the device, by what was posted. -/
def copySource (c : CopyCmd) : Source := ⟨⟨c.ctx, some c.launch, some c.ptile, false⟩, some c.band, 0x80000000 + c.tile⟩

/-- An element of a result tile after a pass (spec/09 R193, spec/03 R65 to R67): the terms are those whose elements both lie in
their views, and without any it stays. -/
def elementAfter (s : State) (q : Nat) (e : MxEntry) (h n i j : Nat) : W32 :=
  let ks := (List.range 4096).map (fun x => 4096 * e.pass + x)
  let terms := (ks.filter (fun k => decide (k < (opField e.op 56 8 + 1) * 128))).filterMap (fun k =>
    match elemA s q e i k, elemB s e h k j with
    | some a, some b => some (k, a, b)
    | _, _ => none)
  let old := (s.quad q).elem n i j
  if terms = [] then old
  else BitVec.ofNat 32 (combine (Format.ofNat e.fa.toNat) (Format.ofNat e.fb.toNat) old.toNat terms)

/-- No storage wakes (spec/16 R311). -/
def noWaking (s : State) : Prop := ∀ e ∈ s.tiles, e.2.waking = []

/-- A running entry of a matrix operation whose pass meets no fault, no error and no bank that still wakes. -/
def passRuns (s : State) (q i : Nat) (e : MxEntry) : Prop :=
  (s.quad q).table[i]? = some e ∧ e.running = true ∧ e.kind ≤ 2 ∧ passFail s e = none ∧ passWakes s e = false ∧
    (s.quad q).bad = []

/-- Every pass of a region's bands is over (spec/11 R237). -/
def bodiesOver (s : State) (leader : Nat) (r : Region) : Prop :=
  r.held = false ∧ ∀ i, i < r.nb →
    let x := s.band (leader + i)
    s.awakeOut (leader + i) = true ∧ x.inBody = true ∧ x.slot0 = none ∧ x.slot1 = none ∧ x.kinds = [] ∧
      x.pend.all (fun p => !p.lane) = true

/-- y[t] component i: what the body delivered, else the guess (spec/11 R236). -/
def delivered (r : Region) (t i : Nat) : W32 := (tget? r.y (stepKey t i)).getD (r.guess t i)

/-- The results of a pass that are its guesses (R237): step t was evaluated from what step t - 1 delivered. -/
def exactAt (r : Region) (t : Nat) : Prop := ∀ i, i < r.dim → delivered r (t - 1) i = r.guess t i

/-- E is the exact prefix of a pass, of which the lanes of steps below `dead` are live (R237). -/
def exactPrefix (r : Region) (dead E : Nat) : Prop :=
  1 ≤ E ∧ E ≤ r.n ∧ (∀ t, 1 ≤ t → t < E → t ≤ dead ∧ exactAt r t) ∧ (E < r.n → E ≤ dead → ¬ exactAt r E)

/-- The tolerance test of a component (R237): |y - g| ≤ ATOL + RTOL × |y|, exactly, for finite y and g. -/
def within (r : Region) (t i : Nat) : Prop :=
  let field (k : Nat) : Nat := r.cfg.toNat / 2 ^ k % 2 ^ 16
  match fval single (delivered r t i).toNat, fval single (r.guess (t + 1) i).toNat, valueOf .bf16 (field 20), valueOf .bf16 (field 36) with
  | .fin n m e, .fin n' m' e', .fin _ ma ea, .fin _ mr er =>
    let u := min (min e e') (min ea (er + e))
    ((units u n m e - units u n' m' e').natAbs : Int) ≤ units u false ma ea + units u false (mr * m) (er + e)
  | _, _, _, _ => False

/-- A pass of a region whose lanes are all live has ended neither exact nor within tolerance, and its tolerances are well formed. -/
def passOpen (s : State) (leader : Nat) (r : Region) : Prop :=
  s.awake leader = true ∧ tget? s.regions leader = some r ∧ bodiesOver s leader r ∧ r.seqAt = none ∧ r.abort = false ∧ 0 < r.n ∧
  1 ≤ r.dim ∧ r.dim ≤ 8 ∧ tolerance (r.cfg.toNat / 2 ^ 20 % 2 ^ 16) ∧ tolerance (r.cfg.toNat / 2 ^ 36 % 2 ^ 16) ∧
  (∀ i k, i < r.nb → (s.band (leader + i)).rx = some k → k.first + k.steps ≤ r.n) ∧
  (∀ t, t < r.n → stepGone s leader r t = false) ∧ ¬ (∀ t, 1 ≤ t → t < r.n → exactAt r t) ∧
  ¬ ∀ t i, t + 1 < r.n → i < r.dim → within r t i

/-- J[t] row i column j (R236). -/
def slope (r : Region) (t i j : Nat) : Nat :=
  if (tget? r.y (stepKey t i)).isSome then (tget 0 r.jac (stepKey t i * 8 + j)).toNat else if i = j then oneT else 0

/-- The affine map of a step, and of several (R238): its terms, none where one is omitted, and its constants. -/
structure StepMap where
  a : Nat → Nat → Option Nat
  b : Nat → Nat

/-- The map of step t: DIAG omits the terms off the diagonal. -/
def firstMap (r : Region) (t : Nat) : StepMap :=
  let a (i j : Nat) : Option Nat := if r.cfg.toNat / 2 ^ 4 % 2 ^ 2 = 1 ∧ i ≠ j then none else some (slope r t i j)
  ⟨a, fun i => (List.range r.dim).foldl (fun acc j => match a i j with
    | some x => fmsT x (r.guess t j).toNat acc
    | none => acc) (delivered r t i).toNat⟩

/-- A map on a vector, and the composition of two. -/
def StepMap.on (d : Nat) (p : StepMap) (v : Nat → Nat) (i : Nat) : Nat :=
  (List.range d).foldl (fun acc j => match p.a i j with
    | some x => fmaT x (v j) acc
    | none => acc) (p.b i)
def StepMap.after (d : Nat) (p q : StepMap) : StepMap :=
  ⟨fun i c => (List.range d).foldl (fun acc j => match p.a i j, q.a j c with
      | some x, some y => some (fmaT x y (acc.getD 0))
      | _, _ => acc) none, p.on d q.b⟩

/-- The maps of m steps after the rounds of the inclusive scan, from distance w on. -/
def scanned (d m : Nat) : Nat → Nat → (Nat → StepMap) → Nat → StepMap
  | 0, _, f => f
  | n + 1, w, f => if m ≤ w then f else scanned d m n (2 * w) (fun k => if w ≤ k then (f k).after d (f (k - w)) else f k)

/-- Component i of g[t + 1] after the repair of a pass with exact prefix E (R238). A region has at most 2,048 steps, so that eleven rounds
are enough. -/
def repairedTo (r : Region) (E t i : Nat) : W32 :=
  if r.cfg.toNat / 2 ^ 4 % 2 ^ 2 = 2 ∨ t < E then delivered r t i
  else BitVec.ofNat 32 ((scanned r.dim (r.n - E) 12 1 (fun k => firstMap r (E + k)) (t - E)).on r.dim
    (fun j => (delivered r (E - 1) j).toNat) i)

/-- The residual of a component, as an exact value (R237). -/
def residual (r : Region) (t i : Nat) : Resid := residOf (delivered r t i) (r.guess (t + 1) i)

/-- The stall test of a pass: resmax passes resprev × STALL ÷ 16. -/
def stallsNow (r : Region) : Prop :=
  let stall := r.cfg.toNat / 2 ^ 52 % 2 ^ 4
  1 ≤ r.pass ∧ stall ≠ 0 ∧ ∃ t i, t + 1 < r.n ∧ i < r.dim ∧
    residLe (residual r t i) (r.resprev.map (fun e => (e.1 * stall, e.2 - 4))) = false

/-- The cause of the fallback that is due at a pass's end (R237). -/
def fallsBack (r : Region) (c : Cause) : Prop :=
  (r.stalls = 1 ∧ stallsNow r ∧ c = 0x142) ∨ (¬ (r.stalls = 1 ∧ stallsNow r) ∧ r.limit ≤ r.pass + 1 ∧ c = 0x141)

/-- A region has closed in each of its bands with an outcome, and x t i is component i of x[t + 1] (R241). -/
def regionClosed (s u : State) (leader : Nat) (r : Region) (out : Nat) (x : Nat → Nat → W32) : Prop :=
  tget? u.regions leader = none ∧ ∀ i, i < r.nb → ∀ k, (s.band (leader + i)).rx = some k → k.leader = leader →
    let y := u.band (leader + i)
    y.rx = none ∧ y.closed = true ∧ y.run = none ∧ y.slot0 = none ∧ y.slot1 = none ∧ y.rxout.toNat % 16 = out ∧
      y.rxout.toNat / 128 % 2 = (if out = 7 then 1 else 0) ∧ y.rxN = k.steps ∧ y.rxD = r.dim ∧
      ∀ l c, l < k.steps → c < r.dim → r.dim ≤ 8 → tget 0 y.rxX (stepKey l c) = x (k.first + l) c

/-! ### The Cabinet's table (spec/12 R249 to R266) -/

/-- The places of the page-table entries that the walk of an address reads (spec/18 R327). -/
def walkPlaces (m : List Host.Cell) : Nat → Nat → Nat → List Nat
  | 0, table, va => [table + 8 * lvlIndex 0 va]
  | l + 1, table, va =>
    let k := table + 8 * lvlIndex (l + 1) va
    let e := memNat m k 8
    k :: (if e % 4 = 3 then [] else walkPlaces m l (e / 2 ^ 16 % 2 ^ 36 * 65536) va)

/-- The n bytes from `base` on lie each at a place of its own, `at_ i`, which the agent may read and write and which holds no error. None
is in the shadow pool, and their translations stand neither there nor at a place of W. -/
def areaAt (s : State) (ag : Agent) (base n : Nat) (W : Nat → Prop) (at_ : Nat → Nat) : Prop :=
  let root := (s.ctx ag.ctx).root.toNat
  base + n ≤ 2 ^ 64 ∧
  (∀ i, i < n → (∀ w, xlByte s ag w (base + i) = .ok (at_ i)) ∧ s.poison.contains (codeOf (at_ i)) = false ∧ ¬ pooled s (at_ i)) ∧
  (∀ i j, i < n → j < n → at_ i = at_ j → i = j) ∧
  ∀ i, i < n → base + i < spaceStep →
    (∀ w, w ∈ cachedWalks s ag (base + i) → w = walkFrom s.view s.poison 3 root (base + i)) ∧
    ∀ k, k ∈ walkPlaces s.view 3 root (base + i) → ∀ b, b < 8 → ¬ pooled s (k + b) ∧ ¬ W (k + b)

/-- What acc.out writes of the tensor that its record describes (spec/09 R187, R199): the bytes of an element, or its planes; rows,
columns and leading dimension of the view; an element's index; the address of its byte n, or of the byte of plane n that holds its bit. -/
def outBytes (f : Format) : Nat := match f.kind with | 0 => 4 | 3 => f.pstore | _ => 2
def outRows (r : Nat) : Nat := r / 2 ^ 128 % 2 ^ 16
def outCols (r : Nat) : Nat := r / 2 ^ 144 % 2 ^ 16
def outLd (r : Nat) : Nat := r / 2 ^ 96 % 2 ^ 32
def outIndex (e : MxEntry) (i j : Nat) : Nat :=
  (128 * opField e.op 32 8 + i) * outLd e.ra + (128 * opField e.op 40 8 + j)
def outAddr (e : MxEntry) (f : Format) (i j n : Nat) : Nat :=
  e.ra % 2 ^ 64 + (if f.kind = 3 then n * planeLen (outRows e.ra * outLd e.ra) + outIndex e i j / 8
    else outBytes f * outIndex e i j + n)

/-- Element (i, j) of an acc.out lies in its view. -/
def outInside (e : MxEntry) (i j : Nat) : Prop :=
  i < opField e.op 14 7 + 1 ∧ j < opField e.op 21 7 + 1 ∧ 128 * opField e.op 32 8 + i < outRows e.ra ∧
    128 * opField e.op 40 8 + j < outCols e.ra

/-- The places that a running acc.out writes, by the address of each: it meets no fault, and none of their translations stands
there. -/
def outPlaces (s : State) (e : MxEntry) (f : Format) (g : Nat → Nat) : Prop :=
  let root := (s.ctx e.ctx).root.toNat
  let hits (a : Nat) : Prop := ∃ i j n, outInside e i j ∧ n < outBytes f ∧ a = outAddr e f i j n
  e.ra.testBit 164 = false ∧ outCols e.ra ≤ outLd e.ra ∧
  e.ra % 2 ^ 64 + (if f.kind = 3 then f.pstore * planeLen (outRows e.ra * outLd e.ra) else outBytes f * (outRows e.ra * outLd e.ra))
    ≤ 2 ^ 64 ∧
  (∀ a b, hits a → hits b → g a = g b → a = b) ∧
  ∀ a, hits a → xlByte s e.agent true a = .ok (g a) ∧ ¬ pooled s (g a) ∧ (a < spaceStep →
    (∀ w, w ∈ cachedWalks s e.agent a → w = walkFrom s.view s.poison 3 root a) ∧
    ∀ k, k ∈ walkPlaces s.view 3 root a → ∀ i, i < 8 → ¬ pooled s (k + i) ∧ ∀ b, hits b → k + i ≠ g b)

/-- The Cabinet registers of a command's context on the die of the present step. -/
def ddRegs (s : State) (c : DdCmd) : DieCtx := s.dctx (s.cur.a * 1024 + c.ctx)

/-- 2^LOGN and LIMIT (R250). -/
def ddSize (x : DieCtx) : Nat := 2 ^ (x.ddcap.toNat % 2 ^ 6)
def ddLimit (x : DieCtx) : Nat := x.ddcap.toNat / 2 ^ 8 % 2 ^ 40

/-- The places of the table area. -/
def inTable (x : DieCtx) (at_ : Nat → Nat) (k : Nat) : Prop := ∃ i, i < 24 * ddSize x ∧ k = at_ i

/-- The table area of a command's context lies at places of its own (R250). -/
def tableAt (s : State) (c : DdCmd) (at_ : Nat → Nat) : Prop :=
  let x := ddRegs s c
  x.ddcap.toNat % 2 ^ 6 ≤ 34 ∧ areaAt s c.agent x.ddbase.toNat (24 * ddSize x) (inTable x at_) at_

/-- Node n's record and bucket b, as memory holds them (R249, R250). -/
def nodeAt (s : State) (at_ : Nat → Nat) (n : Nat) : NodeRec :=
  NodeRec.ofNat (leNat 16 ((List.range 16).map (fun i => s.peek (at_ (16 * n + i)))))
def bucketAt (s : State) (x : DieCtx) (at_ : Nat → Nat) (b : Nat) : Nat :=
  leNat 8 ((List.range 8).map (fun i => s.peek (at_ (16 * ddSize x + 8 * b + i)))) % 2 ^ 40

/-- A node's level (R249). -/
def levelAt (x : DieCtx) (node : Nat → NodeRec) (n : Nat) : Nat :=
  if n ≤ 1 then x.vocount.toNat else tget 0 x.v2l (node n).var

/-- An index names a live node: NEXT and above are not allocated (R250, R251). -/
def named (x : DieCtx) (node : Nat → NodeRec) (n : Nat) : Prop :=
  n < ddSize x ∧ (node n).live = true ∧ (n ≤ 1 ∨ n < (node 0).lo)

/-- A node that an operation may visit (R252). -/
def sound (x : DieCtx) (node : Nat → NodeRec) (n : Nat) : Prop :=
  let fits (m : Nat) : Prop := named x node m ∧ (m ≤ 1 ∨ (node m).var < x.vocount.toNat)
  fits n ∧ (n ≤ 1 ∨ (fits (node n).lo ∧ fits (node n).hi ∧
    levelAt x node n < levelAt x node (node n).lo ∧ levelAt x node n < levelAt x node (node n).hi))

/-- REF after one more reference, and after one less (R253, R264). -/
def refUp (r : NodeRec) : NodeRec := { r with ref := min 0xFFFF (r.ref + 1) }
def refDown (r : NodeRec) : NodeRec := { r with ref := if r.ref = 0xFFFF then 0xFFFF else r.ref - 1 }

/-- A queued command starts, and its work ends with a status and a result. Outside the pool and W memory is as before; of the Cabinet's
registers and queues only those of the command's context and the command itself have changed. -/
def cabinetEnds (s t : State) (c : DdCmd) (st : Nat) (r : Option (Nat × Nat × Nat)) (W : Nat → Prop) : Prop :=
  let d := s.cur.a
  exec .cabinetStart s = .next t ∧ cabinetOnly s t ∧
  (t.die d).cab = (s.die d).cab.set s.cur.b { c with status := some st, result := r } ∧
  (∀ e, e ≠ d → (t.die e).cab = (s.die e).cab) ∧ (∀ j, j ≠ d * 1024 + c.ctx → t.dctx j = s.dctx j) ∧
  ∀ k, ¬ pooled s k → ¬ W k → t.peek k = s.peek k

/-- The same with nothing written: no place of memory and no register. -/
def cabinetAnswers (s : State) (c : DdCmd) (st : Nat) (r : Option (Nat × Nat × Nat)) : Prop :=
  ∃ t, cabinetEnds s t c st r (fun _ => False) ∧ t.dctxs = s.dctxs ∧ ∀ k, t.peek k = s.peek k

/-- A command may start, and its block of n bytes reads as w. -/
def cabinetReady (s : State) (c : DdCmd) : Prop :=
  s.up = true ∧ (s.die s.cur.a).cab[s.cur.b]? = some c ∧ ddMayStart s s.cur.a s.cur.b = true ∧ noWaking s
def readsAs (s : State) (ag : Agent) (va n w : Nat) : Prop :=
  (∃ k, engCheck s ag false va n = .ok k) ∧ anyPoison s (accessKeys s ag false va n) = false ∧ w = leNat n (engBytes s ag va n)

/-- The free list from an index on (R249): distinct indices that are allocated and not live. -/
def freeChain (node : Nat → NodeRec) : List Nat → Nat → Prop
  | [], h => h = 0
  | x :: xs, h => h = x ∧ 2 ≤ x ∧ x < (node 0).lo ∧ (node x).live = false ∧ x ∉ xs ∧ freeChain node xs (node x).lo

/-- A table that the engine alone has written, without its order (R249, R250, R252). -/
def goodNodes (s : State) (x : DieCtx) (at_ : Nat → Nat) : Prop :=
  let node := nodeAt s at_
  2 ≤ (node 0).lo ∧ (node 0).lo ≤ ddSize x ∧
  (∀ n, n ≤ 1 → (node n).live = true ∧ (node n).ref = 0xFFFF ∧ (node n).var = 0xFFFFF) ∧
  (∀ n, 2 ≤ n → named x node n → named x node (node n).lo ∧ named x node (node n).hi) ∧
  (∀ b, b < ddSize x → bucketAt s x at_ b ≤ 1 ∨ named x node (bucketAt s x at_ b)) ∧
  (∀ b c, b < ddSize x → c < ddSize x → 2 ≤ bucketAt s x at_ b → bucketAt s x at_ b = bucketAt s x at_ c → b = c) ∧
  ∃ xs, freeChain node xs (node 0).hi

/-- The same with its order (R251): the tables are permutations, each the other's inverse, and children lie at greater levels. -/
def goodTable (s : State) (x : DieCtx) (at_ : Nat → Nat) : Prop :=
  let count := x.vocount.toNat
  goodNodes s x at_ ∧ count ≤ 0xFFFFE ∧ (∀ n, named x (nodeAt s at_) n → sound x (nodeAt s at_) n) ∧
  (∀ i, i < count → tget 0 x.l2v i < count ∧ tget 0 x.v2l i < count) ∧ inverseTables count x.l2v x.v2l

/-- The value of a node at an assignment (R249): "if VAR then HIGH else LOW". A path has fewer decision nodes than there are variables, or
as many. -/
def valueBelow (node : Nat → NodeRec) (ρ : Nat → Bool) : Nat → Nat → Bool
  | 0, n => decide (n = 1)
  | f + 1, n =>
    if n ≤ 1 then decide (n = 1) else valueBelow node ρ f (if ρ (node n).var then (node n).hi else (node n).lo)
def valueAt (x : DieCtx) (node : Nat → NodeRec) (ρ : Nat → Bool) (n : Nat) : Bool := valueBelow node ρ x.vocount.toNat n

/-- The literals of a cube, and whether it has the form that `dd.exists`, or `dd.restrict`, asks for (R258). -/
def cubeBelow (node : Nat → NodeRec) : Nat → Nat → List (Nat × Bool)
  | 0, _ => []
  | f + 1, c =>
    if c ≤ 1 then [] else
      ((node c).var, decide ((node c).lo = 0)) :: cubeBelow node f (if (node c).lo = 0 then (node c).hi else (node c).lo)
def formBelow (node : Nat → NodeRec) (ex : Bool) : Nat → Nat → Prop
  | 0, c => c = 1
  | f + 1, c => c = 1 ∨ 2 ≤ c ∧ (if ex then (node c).lo = 0 else ((node c).lo = 0 ↔ (node c).hi ≠ 0)) ∧
      formBelow node ex f (if (node c).lo = 0 then (node c).hi else (node c).lo)
def cubeOf (x : DieCtx) (node : Nat → NodeRec) (c : Nat) : List (Nat × Bool) := cubeBelow node x.vocount.toNat c
def cubeForm (x : DieCtx) (node : Nat → NodeRec) (ex : Bool) (c : Nat) : Prop := formBelow node ex x.vocount.toNat c

/-- An assignment with a cube's literals in place. -/
def fixed (ls : List (Nat × Bool)) (ρ : Nat → Bool) (v : Nat) : Bool := ((ls.find? (fun e => e.1 == v)).map (·.2)).getD (ρ v)

/-- What node r must be to be the result of a combining operation on f, g and h (R254, R257, R258), by the operation's number. -/
def combines (x : DieCtx) (node : Nat → NodeRec) (kind tt f g h r : Nat) : Prop :=
  let F := valueAt x node
  match kind with
  | 1 => ∀ ρ, F ρ r = tt.testBit (2 * (F ρ f).toNat + (F ρ g).toNat)
  | 2 => ∀ ρ, F ρ r = if F ρ f then F ρ g else F ρ h
  | 3 => cubeForm x node false g → ∀ ρ, F ρ r = F (fixed (cubeOf x node g) ρ) f
  | 4 => cubeForm x node true g → ∀ ρ, F ρ r = true ↔
      ∃ σ : Nat → Bool, (∀ v, v ∉ (cubeOf x node g).map (·.1) → σ v = ρ v) ∧ F σ f = true
  | _ => True

/-- The die's operation cache holds of a context what its table says (R259): live nodes, and results that lie no higher than their
operands. -/
def cacheSound (s : State) (d ctx : Nat) (x : DieCtx) (node : Nat → NodeRec) : Prop :=
  let level := levelAt x node
  ∀ e, e ∈ (s.die d).ops → e.2.ctx = ctx →
    named x node e.2.f ∧ named x node e.2.g ∧ named x node e.2.h ∧ named x node e.2.r ∧
    (if e.2.kind ≤ 2 then min (level e.2.f) (min (level e.2.g) (level e.2.h)) ≤ level e.2.r else level e.2.f ≤ level e.2.r) ∧
    combines x node e.2.kind e.2.tt e.2.f e.2.g e.2.h e.2.r

/-- The parent edges that a list of nodes puts on a node (R264). -/
def edgesTo (node : Nat → NodeRec) (ms : List Nat) (n : Nat) : Nat :=
  (ms.map (fun m => (if (node m).lo = n then 1 else 0) + (if (node m).hi = n then 1 else 0))).sum

/-- The live decision nodes. -/
def decisions (node : Nat → NodeRec) : List Nat :=
  (List.range (node 0).lo).filter (fun n => decide (2 ≤ n) && (node n).live)

/-- The arithmetic of the weighted count (R260). -/
def plusW (a b : Nat) : Nat := roundedTo .f64 .rne (faddV .rne (valueOf .f64 a) (valueOf .f64 b))
def timesW (a b : Nat) : Nat := roundedTo .f64 .rne (fmulV (valueOf .f64 a) (valueOf .f64 b))

/-- lift(x, L): from x's level m down past the levels above L, which is `low`. -/
def liftedTo (x : DieCtx) (w : Nat → Nat × Nat) (low m acc : Nat) : Nat :=
  (List.range (m - low)).foldl (fun acc i =>
    let e := w (tget 0 x.l2v (m - 1 - i))
    timesW acc (plusW e.1 e.2)) acc
def weightBelow (x : DieCtx) (node : Nat → NodeRec) (w : Nat → Nat × Nat) : Nat → Nat → Nat
  | 0, n => if n = 1 then 0x3FF0000000000000 else 0
  | f + 1, n =>
    if n = 0 then 0 else if n = 1 then 0x3FF0000000000000 else
      let side (m : Nat) : Nat := liftedTo x w (levelAt x node n + 1) (levelAt x node m) (weightBelow x node w f m)
      plusW (timesW (w (node n).var).1 (side (node n).lo)) (timesW (w (node n).var).2 (side (node n).hi))
def weightedCount (x : DieCtx) (node : Nat → NodeRec) (w : Nat → Nat × Nat) (n : Nat) : Nat :=
  liftedTo x w 0 (levelAt x node n) (weightBelow x node w x.vocount.toNat n)

/-- The assignments of all the variables that satisfy a node (R261). -/
def satCount (x : DieCtx) (node : Nat → NodeRec) (n : Nat) : Nat :=
  ((List.range (2 ^ x.vocount.toNat)).filter (fun m => valueAt x node (fun v => m.testBit v) n)).length

/-- The live nodes of v with a child of w, in ascending order (R262). -/
def toRewrite (node : Nat → NodeRec) (v w : Nat) : List Nat :=
  (decisions node).filter (fun n =>
    (node n).var == v && ((node (node n).lo).var == w || (node (node n).hi).var == w))

/-! ### The dispatcher (spec/02 R22 to R28, R34 to R38, spec/15 R302 to R304) -/

/-- A field of a launch's descriptor (R19). -/
def descField (L : Launch) (at_ n : Nat) : Nat := L.desc.toNat / 2 ^ at_ % 2 ^ n

/-- A band as it starts: everything that these fields do not name is as at reset. -/
def startedBand (s : State) (l : Nat) (L : Launch) (w index b t off slot : Nat) : Band :=
  { Band.init with
    wg := w
    no := b
    launch := l
    ctx := L.ctx
    tile := t
    ptile := s.phys L.ctx t
    slot := slot
    resident := true
    prio := L.prio
    lanes := descField L 264 7 + 1
    budget := (descField L 256 8 + 1) * 8
    pc := BitVec.ofNat 64 (descField L 0 64 + L.img.soff)
    kparam := L.kparam
    scrbase := BitVec.ofNat 64 (0xFF00000000000000 + t * 0x100000 + off)
    privbase := BitVec.ofNat 64 (descField L 384 64 +
      (index % 256 * (descField L 275 4 + 1) + b) * ((descField L 271 4 + 1) * 4096))
    wgidx := BitVec.ofNat 32 index
    budleft := BitVec.ofNat 32 (descField L 320 32)
    clsS := L.prio
    clsL := L.prio }

/-- A tile on which a single workgroup of a launch may be placed now. -/
def roomOn (s : State) (l : Nat) (L : Launch) (t : Nat) : Prop :=
  mayReceive s l L.ctx t = true ∧ shareOk s (L.ctx / 16) (t / 96) [s.phys L.ctx t] = true ∧
    (memberRoom s L.ctx L.desc.toNat 0 t).isSome = true

/-- The order of R38 among logical tiles: temperature class, the die's remaining budget, tile number. -/
def tileAhead (s : State) (ctx t u : Nat) : Prop :=
  let class_ (t : Nat) := (s.tile (s.phys ctx t)).tempcls
  let left (t : Nat) := (s.die (t / 96)).budget
  class_ t < class_ u ∨ (class_ t = class_ u ∧ (left u < left t ∨ (left t = left u ∧ t < u)))

/-- A rectangle of a die's mesh as R23 states: its shape, and its tiles in row-major order. -/
def rectangleOf (s : State) (ctx die m : Nat) (r : Rect) : Prop :=
  m ≤ r.w * r.h ∧ 1 ≤ r.w ∧ 1 ≤ r.h ∧ ((r.w ≤ 4 ∧ r.h ≤ 3) ∨ (r.w ≤ 3 ∧ r.h ≤ 4)) ∧ r.tiles.length = r.w * r.h ∧
    ∃ x y, x + r.w ≤ 10 ∧ y + r.h ≤ 10 ∧ ∀ i j, i < r.w → j < r.h → ∃ t, r.tiles[j * r.w + i]? = some t ∧ t / 96 = die ∧
      s.phys ctx t = tileAt die (x + i) (y + j) ∧ (s.tile (s.phys ctx t)).cordoned = false

/-- The order of R23 among rectangles: smaller area, lower corner, squarer, wider. -/
def rectangleAhead (a b : Rect) : Prop :=
  a.w * a.h < b.w * b.h ∨ (a.w * a.h = b.w * b.h ∧ (a.tiles.headD 0 < b.tiles.headD 0 ∨
    (a.tiles.headD 0 = b.tiles.headD 0 ∧ (a.w + a.h < b.w + b.h ∨ (a.w + a.h = b.w + b.h ∧ a.h < b.h)))))

/-- Slots and an offset that a workgroup may take on a tile (R22, R26): free slots, each with room in its partition's registers,
and bytes of the slice that no other allocation holds. -/
def roomGood (s : State) (p : Nat) (L : Launch) (slots : List Nat) (off : Nat) : Prop :=
  let foot := (descField L 256 8 + 1) * 8 * ((descField L 264 7 + 16) / 16) * 64
  let size := descField L 225 15 * 16
  slots.length = descField L 275 4 + 1 ∧ slots.Nodup ∧
    (∀ i, i ∈ slots → i < 96 ∧ (∀ b, b ∈ residents s p → b.slot ≠ i) ∧
      partUsed (residents s p) (i / 6) + foot * (slots.countP (fun j => j / 6 == i / 6)) ≤ 131072) ∧
    (size = 0 → off = 0) ∧
    (let held (x : Workgroup) : Prop := (∃ w, (w, x) ∈ s.wgs) ∧ x.ptile = p ∧ x.saved = none ∧ x.scrSize ≠ 0
     (∀ x, held x → x.scrOff % 16 = 0 ∧ x.scrSize % 16 = 0 ∧ x.scrOff + x.scrSize ≤ 393216) → size ≠ 0 →
       off % 16 = 0 ∧ off + size ≤ 393216 ∧ ∀ x, held x → off + size ≤ x.scrOff ∨ x.scrOff + x.scrSize ≤ off)

/-- A workgroup as it is placed. -/
def placedWg (s : State) (l index t off : Nat) (L : Launch) : Workgroup :=
  ⟨l, index, L.ctx, t, s.phys L.ctx t, off, descField L 225 15 * 16, descField L 275 4 + 1, descField L 284 4, 0, none, [],
    false, false⟩

/-- A band in its save image (R42, spec/13 R277, R278): it is as it was, but a wait is withdrawn, unless a `yieldc`'s copy is under
way. -/
def savedBand (b : Band) : Band :=
  { b with
    resident := false
    ready := []
    wait := match b.wait with
      | .yieldc true c d => .yieldc true c d
      | _ => .none }

/-- The peers whose whole set of links has failed once link n has, and had not before (spec/20 R343). -/
def peersCut (s : State) (n : Nat) : List Nat :=
  (List.range 64).filter (fun d =>
    let links := (List.range 12).filter (fun i => (tget 0xFFF#12 s.peerLinks d).getLsbD i && !s.linksLost.contains i)
    decide (links ≠ [] ∧ ∀ i, i ∈ links → i = n))

/-! ### Attendants (spec/14 R290 to R301) -/

/-- A field of ATTCFG. -/
def attField (c : W64) (at_ n : Nat) : Nat := c.toNat / 2 ^ at_ % 2 ^ n
/-- The windows of a vote in cycles. -/
def voteWindow (c : W64) : Nat := attField c 32 16 * 256

/-- The operations and types of a host's atomic (spec/08 R162). -/
def hostAtomic (fn : AtomFn) (ty : Ty) : Prop :=
  ty = .i32 ∨ ty = .n32 ∨ ty = .i64 ∨ ty = .n64 ∨
    (ty = .f32 ∧ (fn = .add ∨ fn = .min ∨ fn = .max ∨ fn = .xchg ∨ fn = .cas))

/-- The marker by which a WRREG of a Cabinet register waits its turn on a die (spec/12 R251, R255), and what it waits for: a command
of its context that came before it, or one that runs. -/
def ringMarker (ctx : Nat) : DdCmd := ⟨14, 0, 0, 0, 0, 2 ^ 40, 2 ^ 40, ctx, 2 ^ 40, 0, none, none⟩
def ringMarks (ctx : Nat) (k : DdCmd) : Bool := k.op == 14 && k.ctx == ctx
def ringBlocked (s : State) (d ctx : Nat) : Prop :=
  ∃ p k q, (s.die d).cab = p ++ k :: q ∧ k.ctx = ctx ∧
    (k.status ≠ none ∨ (liveCmd s k = true ∧ ∀ j, j ∈ p ++ [k] → ringMarks ctx j = false))
def unmarked (s : State) (ctx : Nat) (dies : List Nat) : State :=
  dies.foldl (fun s d => s.modDie d (fun x => { x with cab := x.cab.filter (fun k => !ringMarks ctx k) })) s

/-- The fields of a message (R292). -/
def letterType (w : W64) : Nat := attField w 60 4
def letterFrom (w : W64) : Nat := ofAttNo (attField w 52 8)
def letterAbout (w : W64) : Nat := ofAttNo (attField w 44 8)
def letterReason (w : W64) : Nat := attField w 42 2
/-- The tiles that a mask at [41:38] names. -/
def letterMask (w : W64) : Nat := [38, 39, 40, 41].countP (fun i => w.getLsbD i)

/-- A message of tile a about tile x; `rest` is its body below the tile's number. -/
def letter (ty a x rest : Nat) : W64 := BitVec.ofNat 64 (ty * 2 ^ 60 + attNo a * 2 ^ 52 + attNo x * 2 ^ 44 + rest)

/-- The mask of some of x's neighbours, by their direction from it. -/
def maskFrom (x : Nat) (ps : List Nat) : Nat :=
  ([0, 1, 2, 3].map (fun d => if ps.any (fun p => nbr x d == some p) then 2 ^ (38 + d) else 0)).sum

/-- The neighbours of x that are not cordoned, and the majority over it (R290, R291). -/
def liveAround (s : State) (x : Nat) : List Nat := ([0, 1, 2, 3].filterMap (nbr x)).filter (fun q => !(s.tile q).cordoned)
abbrev inMajority (s : State) (x n : Nat) : Prop :=
  ((liveAround s x).length = 4 ∧ 3 ≤ n) ∨ ((liveAround s x).length = 3 ∧ 2 ≤ n) ∨ ((liveAround s x).length = 2 ∧ 2 ≤ n)

/-- The neighbours of x but one. -/
def around (a x : Nat) : List Nat := ([0, 1, 2, 3].filterMap (nbr x)).filter (fun q => q != a)

/-- A tile's own end of its link to a neighbour is open. -/
def endOpen (s : State) (p q : Nat) : Bool := [0, 1, 2, 3].all (fun d => nbr p d != some q || (s.watch p d).link)

/-- The ways between two tiles are open: the link of neighbours at both its ends, or for a routed message some link of either. -/
def wayOpen (s : State) (a b : Nat) : Bool :=
  let out (p : Nat) := ([0, 1, 2, 3].filterMap (nbr p)).any (fun q => endOpen s p q && endOpen s q p)
  if [0, 1, 2, 3].any (fun d => nbr b d == some a) then endOpen s a b && endOpen s b a else out a && out b

/-- A message goes from a to b: over the link between neighbours, or routed. A disabled link carries APPEAL, VERDICT and
READMIT alone (R296); a full buffer drops it, as an anomaly against its sender (spec/17 R319). -/
def handed (s : State) (a b : Nat) (w : W64) : State :=
  let link := ([0, 1, 2, 3].find? (fun d => nbr b d == some a)).getD 4
  let buf := tget [] (s.att b).bufs link
  if wayOpen s a b = false ∧ letterType w ≠ 6 ∧ letterType w ≠ 7 ∧ letterType w ≠ 8 then s
  else if 16 ≤ buf.length then
    if link = 4 then s else s.modWatch b link (fun y => { y with anoms := (0 :: y.anoms).take 15, quiet := 0 })
  else s.modAtt b (fun x => { x with bufs := tset x.bufs link (buf ++ [w]) })
def handedAll (s : State) (a : Nat) (bs : List Nat) (w : W64) : State := bs.foldl (fun s b => handed s a b w) s

/-- The oldest message of a link has been taken. -/
def letterTaken (s : State) (a link : Nat) (rest : List W64) : State :=
  s.modAtt a (fun x => { x with bufs := if rest = [] then tdel x.bufs link else tset x.bufs link rest })

/-- A tile without one tally's member, or with it. -/
def withVoter (ps : List Nat) (b : Nat) : List Nat := ps ++ (if ps.contains b then [] else [b])

/-- A gains evidence against its neighbour x in CLEAR or PENDING (R295). -/
def evidenceGained (s : State) (a d x reason : Nat) : State :=
  let u := s.modWatch a d (fun y => { y with evid := reason })
  match (s.watch a d).vote with
  | .clear => (handedAll u a (around a x) (letter 2 a x (reason * 2 ^ 42))).modWatch a d (fun y => { y with
      vote := .voting, reason := reason, tally := [a], window := voteWindow (s.att a).cfg })
  | .pending => (handedAll u a (around a x) (letter 3 a x (reason * 2 ^ 42))).modWatch a d (fun y => { y with
      vote := .voting, reason := reason, tally := withVoter y.tally a })
  | _ => u

/-- Tile x is cordoned between w and v (R296): its workgroups are lost, and requests that bands of other tiles have there,
stores in its write queue among them, are answered TILE_FENCED. -/
def tileLost (w v : State) (x reason : Nat) : Prop :=
  if (w.tile x).cordoned = true then v = w
  else
    (v.tile x).cordoned = true ∧ (v.att x).cordons = min 15 ((w.att x).cordons + 1) ∧ (v.att x).reason = reason ∧
    (v.att x).state = (if attField (w.att x).cfg 56 4 ≤ min 15 ((w.att x).cordons + 1) then 3 else 1) ∧
    (∀ p, p ≠ x → (v.tile p).cordoned = (w.tile p).cordoned) ∧
    (∀ j y, tget? v.wgs j = some y → y.ptile ≠ x) ∧
    (∀ k b y, tget? v.bands k = some b → tget? w.wgs b.wg = some y → y.ptile ≠ x) ∧
    ((w.bands.map (·.1)).Nodup → ∀ k b, tget? v.bands k = some b → b.ptile ≠ x → (∀ p, p ∈ b.pend → x ∉ p.ports) ∧
      ((∃ p, p ∈ (w.band k).pend ∧ x ∈ p.ports) → ⟨0x198, none⟩ ∈ b.deferred)) ∧
    ((w.bands.map (·.1)).Nodup → (∀ e, e ∈ w.vifs → e.2.faultBase.toNat + 32 * 2 ^ e.2.faultK ≤ 687194767360) →
      ∀ k b e, tget? v.bands k = some b → b.ptile ≠ x → e ∈ w.wq → w.entryPort e = x → e.senders.contains k = true →
        ⟨0x198, none⟩ ∈ b.deferred) ∧
    ∀ p d y, tget? (v.att p).watch d = some y → x ∉ y.tally ∧ x ∉ y.accepts

/-- A disables its link to x between s and v; x is cordoned once all its live neighbours have (R295, R296). -/
def linkCut (s v : State) (a d x reason : Nat) : Prop :=
  let w := s.modWatch a d (fun y => { y with
    vote := .cordoned, link := false, reason := reason, tally := [], window := 0, accepts := [], verdicts := none })
  let all := liveAround w x ≠ [] ∧ ∀ q e, q ∈ liveAround w x → nbr q e = some x → e < 4 → (w.watch q e).link = false
  (all → tileLost w v x reason) ∧ (¬ all → v = w)

/-- The tally of a vote as it stands in s has been judged in v (R295). -/
def tallyJudged (s v : State) (a d x : Nat) : Prop :=
  let y := s.watch a d
  if y.vote = .voting ∧ inMajority s x y.tally.length then
    linkCut (handedAll s a (x :: around a x) (letter 5 a x (y.reason * 2 ^ 42 + maskFrom x y.tally))) v a d x y.reason
  else v = s

/-- The accepting verdicts as they stand in s have been judged in v (R299): the link is enabled again, and the tile returns. -/
def verdictsJudged (s v : State) (a d x : Nat) : Prop :=
  let y := s.watch a d
  if y.vote = .cordoned ∧ y.verdicts ≠ none ∧ inMajority s x y.accepts.length then
    v = handedAll (((s.modWatch a d (fun y => { Watch.init with msgs := y.msgs, anoms := y.anoms })).modTile x (fun t => { t with cordoned := false })).modAtt
      x (fun y => if y.state = 3 then y else { y with state := 0, testing := false })) a (x :: around a x)
      (letter 8 a x (maskFrom x y.accepts))
  else v = s

/-- Nothing is left to judge: no tally and no verdicts in their window reach the majority of now, no neighbour has evidence of
babbling to come, and no tile stands that all its live neighbours have cut off (R290, R294 to R296, R299). -/
def votesQuiet (s : State) : Prop :=
  ∀ a y d w x, (a, y) ∈ s.atts → (d, w) ∈ y.watch → nbr a d = some x →
    ¬ (w.vote = .voting ∧ inMajority s x w.tally.length) ∧
    ¬ (w.vote = .cordoned ∧ w.verdicts ≠ none ∧ inMajority s x w.accepts.length) ∧
    ¬ (w.vote ≠ .cordoned ∧ w.evid ≠ 2 ∧ w.anoms.head? = some 0 ∧
      attField (s.att a).cfg 52 4 ≤ w.anoms.countP (fun t => t ≤ voteWindow (s.att a).cfg)) ∧
    ¬ (w.link = false ∧ (s.tile x).cordoned = false ∧ liveAround s x ≠ [] ∧
      ∀ q e, q ∈ liveAround s x → nbr q e = some x → e < 4 → (s.watch q e).link = false)

/-- Tile x retires (R300): its die's unused spare quad takes over its quad for contexts created later. -/
def tileRetired (s v : State) (x : Nat) : Prop :=
  let die := x / 100
  let q := x % 100 / 4
  let u := s.modAtt x (fun y => { y with state := 3, testing := false })
  match tget none s.spares die with
  | none => v = { u with spares := tset s.spares die (some q) }
  | some n =>
    let lost := die * 24 + if q = 24 then n else q
    if n = q ∨ s.noQuads.contains lost = true then v = u else v = { u with noQuads := s.noQuads ++ [lost] }

/-! ### The host and its rings (spec/20 R336 to R341, R345, R367) -/

/-- What the device answers the host. -/
def answered (s : State) (r : Sent) : State := { s with sent := s.sent ++ [r] }

/-- The agent of the command processor's and the host's accesses for a context. -/
def hostAgent (ctx : Nat) : Agent := ⟨ctx, none, none, false⟩

/-- A context that a host transaction reaches. -/
def hostReaches (s : State) (ctx : Nat) : Prop :=
  s.up = true ∧ (s.vif (ctx / 16)).enabled = true ∧ (s.ctx ctx).root ≠ 0 ∧ ctx < 1024

/-- Every byte of a range can be accessed and holds no uncorrectable error. -/
def rangeGood (s : State) (ag : Agent) (write : Bool) (va n : Nat) : Prop :=
  ∀ i, i < n → ∃ k, placed s ag write va i k ∧ s.poison.contains (codeOf k) = false

/-- A range that some access fails in, none for an error in the page entries. -/
def rangeFails (s : State) (ag : Agent) (write : Bool) (va n : Nat) : Prop :=
  (∀ i, i < n → xlByte s ag write ((va + i) % 2 ^ 64) ≠ .poisoned) ∧
    ∃ i, i < n ∧ ∀ k, xlByte s ag write ((va + i) % 2 ^ 64) ≠ .ok k

/-- The range of a setting (R338). A window of stride patterns meets no other interface's. -/
def settingRange (s : State) (vif : Nat) (x : VifSetting) (n : Nat) : Prop :=
  let window (first count : Nat) : Prop := first + count ≤ 16 ∧ ∀ e, e ∈ s.vifs → e.1 ≠ vif → max e.2.gpatCnt e.2.gpatUse ≠ 0 → count ≠ 0 →
    e.2.gpatFirst + max e.2.gpatCnt e.2.gpatUse ≤ first ∨ first + count ≤ e.2.gpatFirst
  match x with
  | .ringBase => n % 64 = 0 ∧ n + 64 * 2 ^ (s.vif vif).ringK ≤ 687194767360
  | .ringSize => 6 ≤ n ∧ n ≤ 16 ∧ (s.vif vif).ringBase.toNat + 64 * 2 ^ n ≤ 687194767360
  | .faultBase => n % 32 = 0 ∧ n + 32 * 2 ^ (s.vif vif).faultK ≤ 687194767360
  | .faultSize => 4 ≤ n ∧ n ≤ 16 ∧ (s.vif vif).faultBase.toNat + 32 * 2 ^ n ≤ 687194767360
  | .gpatCnt => window (s.vif vif).gpatFirst n
  | .gpatFirst => window n (max (s.vif vif).gpatCnt (s.vif vif).gpatUse)
  | .poolBase => n + 65536 * (s.vif vif).poolSlots ≤ 687194767360
  | .poolSlots => n ≤ 65536 ∧ (s.vif vif).poolBase.toNat + 65536 * n ≤ 687194767360
  | .saveBase => n < 2 ^ 64
  | .saveSize => n < 2 ^ 64
  | .share0 => 1 ≤ n ∧ n ≤ 96
  | .share1 => 1 ≤ n ∧ n ≤ 96
  | .root c => c < 16 ∧ n % 65536 = 0 ∧ n + 65536 ≤ 687194767360

/-- The interface with a setting. -/
def withSetting (v : Vif) (n : Nat) : VifSetting → Vif
  | .ringBase => { v with ringBase := BitVec.ofNat 64 n }
  | .ringSize => { v with ringK := n }
  | .faultBase => { v with faultBase := BitVec.ofNat 64 n }
  | .faultSize => { v with faultK := n }
  | .gpatCnt => { v with gpatCnt := n, gpatUse := n }
  | .gpatFirst => { v with gpatFirst := n }
  | .poolBase => { v with poolBase := BitVec.ofNat 64 n }
  | .poolSlots => { v with poolSlots := n }
  | .saveBase => { v with saveBase := BitVec.ofNat 64 n }
  | .saveSize => { v with saveSize := n }
  | .share0 => { v with share0 := n }
  | .share1 => { v with share1 := n }
  | .root _ => v

/-- What an enabled interface has (R367). -/
def interfaceWhole (v : Vif) : Prop :=
  v.ringBase ≠ 0 ∧ 6 ≤ v.ringK ∧ v.ringK ≤ 16 ∧ v.faultBase ≠ 0 ∧ 4 ≤ v.faultK ∧ v.faultK ≤ 16 ∧ v.saveBase ≠ 0 ∧ v.saveSize ≠ 0 ∧
    1 ≤ v.share0 ∧ v.share0 ≤ 96 ∧ 1 ≤ v.share1 ∧ v.share1 ≤ 96

/-- A measurement register after it has been extended (R345). -/
def measuredWith (s : State) (i : Nat) (d : BitVec 512) : BitVec 512 :=
  sha512 (leBytes 64 (tget 0 s.meas i).toNat ++ leBytes 64 d.toNat)

/-- A field of a command slot. -/
def slotField (w at_ n : Nat) : Nat := w / 2 ^ at_ % 2 ^ n
def slotA0 (w : Nat) : Nat := slotField w 64 64
def slotA1 (w : Nat) : Nat := slotField w 128 64
def slotA2 (w : Nat) : Nat := slotField w 192 64

/-- An interface's command processor reads slot w, which names a context, next (spec/17 R315); no bank wakes, where a command would
stall. -/
def slotRead (s : State) (vif ctx w : Nat) : Prop :=
  let v := s.vif vif
  let k := v.ringBase.toNat + 64 * (v.head % 2 ^ v.ringK)
  s.up = true ∧ v.enabled = true ∧ v.waiting = none ∧ v.head ≠ v.tail ∧
    w = leNat 64 ((List.range 64).map (fun i => s.peek (k + i))) ∧
    (∀ i, i < 8 → s.poison.contains (codeOf (k + 8 * i)) = false) ∧ ctx = vif * 16 + slotField w 8 4 ∧ noWaking s

/-- A signal target is well formed (spec/10 R207). -/
def targetFormed (t : Nat) : Prop := t = 0 ∨ t % 8 = 0 ∨ t % 16 = 1

/-- A slot that is not refused whatever its command (R339). -/
def slotFormed (s : State) (ctx w : Nat) : Prop :=
  1 ≤ slotField w 0 8 ∧ slotField w 0 8 ≤ 10 ∧ slotField w 12 52 = 0 ∧ slotField w 256 192 = 0 ∧ (s.ctx ctx).root ≠ 0 ∧
    targetFormed (slotField w 448 64)

/-- A command is done: the ring goes on, and its signal carries a status. -/
def commandSignalled (s : State) (ctx w st : Nat) : State :=
  if slotField w 448 64 = 0 then s
  else
    let t := signal s ⟨hostAgent ctx, none, 0x8F000000 + ctx / 16⟩ (BitVec.ofNat 64 (slotField w 448 64)) 1 st
    { t with sent := t.sent ++ [.int (ctx / 16) 1] }
def ringOn (s : State) (vif : Nat) : State := s.modVif vif (fun v => { v with head := (v.head + 1) % 2 ^ v.ringK })
def commandDone (s : State) (ctx w st : Nat) : State := commandSignalled (ringOn s (ctx / 16)) ctx w st

/-- The command that an event carries out. -/
def commandOf : Instr → Option Nat
  | .launch => some 1
  | .signal => some 2
  | .wait => some 3
  | .wrreg => some 4
  | .depth => some 5
  | .inval => some 6
  | .stepbegin => some 7
  | .stepend => some 8
  | .pagewr => some 9
  | .ctxreset => some 10
  | _ => none

/-- A well-formed command of a context that runs, with the operation of an event. -/
def command (s : State) (vif ctx w op : Nat) : Prop :=
  slotRead s vif ctx w ∧ slotFormed s ctx w ∧ slotField w 0 8 = op ∧ ((s.ctx ctx).stopped = false ∨ op = 10)

/-- A descriptor that is not refused for its own fields (spec/02 R19). -/
def descriptorFormed (d : Nat) : Prop :=
  let f := slotField d
  f 192 33 = 0 ∧ f 352 32 = 0 ∧ f 448 64 = 0 ∧ f 288 32 ≠ 0 ∧ f 284 4 ≠ 1 ∧ f 284 4 ≤ 12 ∧ f 240 16 * 16 ≤ 4096 ∧
    f 225 15 * 16 ≤ 393216 ∧ f 384 64 % 4096 = 0 ∧ f 128 64 % 8 = 0 ∧ f 64 64 % 16 = 0 ∧ f 0 64 % 4096 = 0 ∧
    (f 256 8 + 1) * 8 * ((f 264 7 + 16) / 16) * 64 ≤ 131072

/-- A launch as it is accepted (R19, R20, spec/13 R283). -/
def acceptedLaunch (s : State) (ctx addr d kparam : Nat) (img : Image) : Launch where
  desc := BitVec.ofNat 512 d
  descAddr := BitVec.ofNat 64 addr
  img := img
  ctx := ctx
  prio := slotField d 281 3
  kparam := BitVec.ofNat 64 kparam
  contain := (s.ctx ctx).contain
  next := 0
  reported := 0
  told := 0
  window := []
  childSeq := 0
  childHead := 0
  children := []
  parent := none
  status := none
  replays := 0
  relaunches := []
  again := []
  replayable := true
  shadow := []
  ddSave := []
  waited := []
  passed := []
  queued := true
  dying := none

/-- An f32 word that is a power of two from 2^-126 to 2^127. -/
def powerWord (v : Nat) : Prop := v < 2 ^ 31 ∧ v % 2 ^ 23 = 0 ∧ 1 ≤ v / 2 ^ 23 ∧ v / 2 ^ 23 ≤ 254

/-- The update at the end of a loss-scale step (R341). -/
def stepUpdated (c : Context) : Context :=
  let e := c.lscale.toNat / 2 ^ 23
  let n := min (2 ^ 32 - 1) (c.lscnt.toNat + 1)
  let scaled : W32 × W32 :=
    if c.lsovf then (if 1 < e then c.lscale - 0x800000 else c.lscale, 0)
    else if c.lsn.toNat ≤ n then (if e < 254 then c.lscale + 0x800000 else c.lscale, 0)
    else (c.lscale, BitVec.ofNat 32 n)
  { c with
    lscale := c.lscaleHeld.getD scaled.1
    lscnt := if c.lscaleHeld = none then scaled.2 else 0
    lscaleHeld := none
    lsovf := false
    stepOpen := false
    stepClosing := false }

end Sys2Proof.Claims
end

