-- ==== Sys2Proof/Certificates/Slice0/Obligations.lean ====
section
/-!
DEFINITION. The statements for the provers.
-/
open Sys2Proof Sys2Proof.Machine Sys2Proof.Claims

/-! ### Decoding, reset and the step -/

/-- R93 to R105, and the encodings of each family: words of the spec's encoding, written out, decode to the instructions that
they stand for. -/
def Obligations.DecodeWords : Prop :=
  (decodeScalar 0x08910040 0 = .ok (.addi 9 4 64) Extra.none ∧
    decodeScalar 0x04210512 0 = .ok (.cmp .lt true 2 4 5) Extra.none ∧
    decodeScalar 0x30208354 0 = .ok (.adds 2 2 3 20) Extra.none ∧
    decodeScalar 0x58D38020 0 = .ok (.stN32 13 14 32) Extra.none ∧
    decodeScalar 0x617FFFFD 0 = .ok (.br 2 true 0x3FFFFD) Extra.none ∧
    decodeScalar 0x8C01C010 0 = .ok (.srw 0x010 7) Extra.none ∧
    decodeScalar 0xA0414607 0 = .ok (.copy 4 5 6 7) Extra.none ∧
    decodeScalar 0xA8518721 0 = .ok (.barr .wg 5 6 7) Extra.none ∧
    decodeScalar 0xC0518001 0 = .ok (.accAlloc 5 6) Extra.none ∧
    decodeScalar 0xD0518000 0 = .ok (.rlxBegin 5 6 0 0) Extra.none ∧
    decodeScalar 0xE0010581 0 = .ok (.ddApply 4 5 8) Extra.none ∧
    decodeScalar 0xF0000000 0 = .ok .exit Extra.none) ∧
  (decodeLane 0x420100180201400601000000 = .ok (.ffma ⟨.f32, .rne, 3, .v 2, .s 10, .v 1⟩) ⟨⟨0, false, 4⟩, 0, 0⟩ ∧
    decodeLane 0x230080300700000000004200 = .ok (.laneShlImm ⟨.n32, 6, .v 7, 2⟩) ⟨⟨0, false, 2⟩, 0, 0⟩ ∧
    decodeLane 0x42C080180401600201020000 = .ok (.fcmp ⟨.gt, .f32, 3, .v 4, .s 11⟩) ⟨⟨0, false, 2⟩, 0, 0⟩ ∧
    decodeLane 0x804000680300000004000000 = .ok (.voteCnt 13 3) Extra.none ∧
    decodeLane 0xA80000000000000000180000 = .ok (.laneFence .tl) Extra.none ∧
    decodeLane 0xA5400000000000000000A000 = .ok (.join 5) Extra.none ∧
    decodeLane 0xE00000A01E03E08003800000 = .ok (.mma ⟨.rne, 20, 30, 31, 32⟩) Extra.none ∧
    decodeLane 0xF04000000300000000000000 = .ok (.rlxOut 3 0) Extra.none)

/-- R93 to R105: decoding the words of a well-formed instruction gives it back, with every operand, with its guard and stall count
in the lane stream, and in the scalar stream with what `Extra` holds of the word; every instruction of the two streams has its words. -/
def Obligations.DecodeEncode : Prop :=
  (∀ (i : Instr) (x : Extra) (w : W32), i.wf = true → encodeScalar i x = some w →
    ∃ y, decodeScalar w x.next = .ok i y ∧ encodeScalar i y = some w ∧ (i = .sigChk → y.next = x.next)) ∧
  (∀ (i : Instr) (g : Guard) (w : W96), i.wf = true → i.guardFits g = true → encodeLane i g = some w →
    decodeLane w = .ok i ⟨g, 0, 0⟩) ∧
  (∀ i : Instr, Instr.isStep i = false → i ≠ .illegalEncoding →
    (∀ x, (encodeScalar i x).isSome = true) ∨ (∀ g, (encodeLane i g).isSome = true))

/-- R91 to R105: a word that decodes is the word of a well-formed instruction and of no other: no reserved field is dropped and
no two instructions share a word. -/
def Obligations.EncodeDecode : Prop :=
  (∀ (w n : W32) (i : Instr) (x : Extra), decodeScalar w n = .ok i x → i.wf = true ∧ encodeScalar i x = some w) ∧
  (∀ (w : W96) (i : Instr) (x : Extra), decodeLane w = .ok i x →
    i.wf = true ∧ i.guardFits x.guard = true ∧ encodeLane i x.guard = some w)

/-- R301, R304 to R309, R332, R333, R341, R344, R367: what reset leaves of the device's registers, for every context, interface, tile,
quad, die and attendant. Memory lists nothing; that an unlisted byte of HBM or of the host reads 0 is the model's choice
(log entry 3). -/
def Obligations.ResetState : Prop :=
  let s := State.reset
  (Memory.wf s.mem = true ∧ ∀ k, s.peek k = 0) ∧
  (s.bands = [] ∧ s.wgs = [] ∧ s.launches = [] ∧ s.up = false ∧ s.inRecovery = false ∧ s.quar = [] ∧ s.poison = []) ∧
  (∀ c, let x := s.ctx c
    x.contain = 0 ∧ x.wdlim = 0x40000000 ∧ x.extlim = 0 ∧ x.lscale = 0x47800000 ∧ x.lsn = 2000 ∧ x.lscnt = 0 ∧
      x.lsovf = false ∧ x.root = 0 ∧ x.stopped = false ∧ x.stepOpen = false) ∧
  (∀ c, let x := s.dctx c
    x.ddbase = 0 ∧ x.ddcap = 0 ∧ x.vobase = 0 ∧ x.vocount = 0 ∧ x.specdepth = 128 ∧ x.bfqthr = 64 ∧ x.bfqmax = 4096 ∧
      x.tableReady = false ∧ x.orderReady = false) ∧
  (∀ v, s.vif v = ⟨false, 0, 0, 0, 0, none, 0, 0, 0, 0, 0, 0, 0, 0, 0, 0, 0, 0, 0⟩) ∧
  (∀ p, (s.tile p).cycle = 0 ∧ (s.tile p).cordoned = false ∧ (s.tile p).tempcls = 0 ∧ (s.tile p).errThr = 0x40 ∧
    (s.tile p).errUnc = 0 ∧ (s.tile p).errCorr = 0) ∧
  (∀ q, (s.quad q).qrate = 255 ∧ (s.quad q).table = []) ∧
  (∀ d, (s.die d).energy = 0 ∧ (s.die d).walks = []) ∧ s.linksLost = [] ∧
  (∀ p, (s.att p).seq = 0 ∧ (s.att p).falseacc = 0 ∧ (s.att p).cordons = 0 ∧ (s.att p).appeals = 0 ∧
    (s.att p).state = 0 ∧ (s.att p).watch = [] ∧ (s.att p).bufs = []) ∧
  s.attcfg = 0x0228004020031000 ∧ s.pwrceil = 1200

/-- An invariant that every step keeps (R72, R74): memory stays in its canonical form, so that equal contents are equal data. -/
def Obligations.StepKeepsMemory : Prop :=
  ∀ s t : State, Memory.wf s.mem = true → step s = .next t → Memory.wf t.mem = true

/-- R39 to R41, R91, R272, R273, R334, R344: a step runs the instruction or the event whose turn it is. In recovery only a status
request is answered. A word of the scalar stream, at a pc in the section, and a lane word of a fragment, that decode to an
instruction run `exec` of it, once nothing holds the stream back, the units that it needs are free and the Curator picks it;
after it has issued the class and the watchdog count start anew. An instruction that only has to wait takes no unit. Of
the precise causes that a band's streams raise in one cycle the step takes one that ranks no lower than this one's. A cycle of a tile
ends when no picked instruction is left to issue. A corrected error is counted on its tile (R332); one that cannot be
corrected lies in the code that holds its place (R280), counted by the tile whose scratchpad it is. A band with an `acc.ld` or
`acc.st` under way waits before it enters its handler (R155).

Three points are the model's choices: in which order turns come (log entry 1); that a fetched word stays in the tile's code cache
(log entry 7); that an error arises and is counted at a turn of its own (log entry 54). That a poisoned place is the code of
32 or 8 bytes that holds it is read from the spec (log entry 55). -/
def Obligations.StepRunsInstr : Prop :=
  (∀ s : State, s.inRecovery = true → Turn.isStatus s.turn = false → step s = .fault .recovery) ∧
  (∀ (s : State) (i : Instr) (a b : Nat) (inp : Input), (s.inRecovery = false ∨ Turn.isStatus s.turn = true) →
    s.turn = .event i a b inp → Instr.isStep i = true → (i = .handlerEntry → causeBefore s.begin_ a = none) →
    step s = orWait s.begin_ (exec i { s.begin_ with cur := { Cur.none with a := a, b := b, inp := inp } })) ∧
  (∀ (s : State) (p : Nat), s.inRecovery = false →
    (s.turn = .tick p → step s = .next (if cycleGoesOn s.begin_ p then s.begin_ else tileTick s.begin_ p)) ∧
    (s.turn = .dieTick p → step s = .next (dieTick s.begin_ p))) ∧
  (∀ (s : State) (p : Nat), s.inRecovery = false → s.turn = .flaw (.corrected p) →
    step s = .next (s.begin_.modTile p (fun t =>
      { t with errCorr := min 0xFFFFFFFF (t.errCorr + 1), corrBeat := t.corrBeat + 1 }))) ∧
  (∀ (s : State) (k : Nat), s.inRecovery = false → s.turn = .flaw (.memory k) →
    ∃ u, step s = .next u ∧ (∀ g, g ∈ u.poison ↔ g ∈ s.poison ∨ g = codeOf k) ∧
      u = { s.begin_ with poison := u.poison, tiles := u.tiles } ∧
      ∀ p, u.tile p = if typeOf k = .sram ∧ p = sliceOf k then
        { s.tile p with errUnc := min 0xFFFF ((s.tile p).errUnc + 1) } else s.tile p) ∧
  (∀ (s : State) (k : Nat) (w n : Nat) (i : Instr) (x : Extra),
    let u := s.begin_
    let b := u.band k
    let pc := b.pc.toNat
    let v := scalarAt u k x (BitVec.ofNat 96 w)
    s.inRecovery = false → s.turn = .scalar k → u.awake k = true → b.overrun = false → b.deferWaits = false → b.hold = 0 →
    b.wait.retries = true → unitFree u b false i = true →
    u.scalarOk b pc = true → fetchS u b pc = .word w → w < 2 ^ 32 → decodeScalar (BitVec.ofNat 32 w) (BitVec.ofNat 32 n) = .ok i x →
    (i = .sigChk → u.scalarOk b (pc + 4) = true ∧ fetchS u b (pc + 4) = .word n) → n < 2 ^ 32 →
    b.spoiled i x false = false → scoreboard u k (issueUse i x false) = false → wakeStall v i false = false →
    stepRuns s u k false 0 i v) ∧
  (∀ (s : State) (k r : Nat) (f : Frag) (w : Nat) (i : Instr) (x : Extra),
    let u := s.begin_
    let b := u.band k
    let slot := r % 2
    let v := laneAt u k slot f x (BitVec.ofNat 96 w)
    s.inRecovery = false → s.turn = .lane k r → u.lanesRun k = true → b.overrun = false → b.deferWaits = false → b.hold = 0 →
    b.stalledElse slot = false → unitFree u b true i = true →
    dueFrag u b slot = some f → u.laneOk b f.pc.toNat = true → fetchL u b f.pc.toNat = .word w → w < 2 ^ 96 →
    decodeLane (BitVec.ofNat 96 w) = .ok i x →
    b.spoiled i x true = false → scoreboard u k (issueUse i x true) = false → (Instr.joins i = true → settled u b f = true) →
    laneCheck v i x = none → wakeStall v i true = false → badLanes v i x = 0 →
    badSources v i = 0 →
    stepRuns s u k true slot i v)

/-! ### The scalar stream: registers and control -/

/-- R109: the registers of the scalar stream after a write. s0 and q0 are constants, every other register takes the value
written, and no register but the one named changes; p0 is 1 in every lane and takes no write (spec/15 R302), and a predicate write
changes the lanes of its mask alone.

R111, R113 to R117: every scalar arithmetic instruction completes with the result of its rule in sd, and changes nothing
else: not a flag, not memory, not another band; its word feeds SIG and the pc moves on by 4. -/
def Obligations.ScalarRegistersAndArithmetic : Prop :=
  (∀ b : Band,
    (b.s 0#6 = 0 ∧ b.q 0#3 = true ∧ b.pmask 0 = BitVec.allOnes 128) ∧
    (∀ d v r, (b.setS d v).s r = if r = d ∧ d ≠ 0#6 then v else b.s r) ∧
    (∀ d v r, (b.setQ d v).q r = if r = d ∧ d ≠ 0#3 then v else b.q r) ∧
    (∀ n m v j l, (b.setP n m v).p j l = if j = n ∧ n ≠ 0 ∧ m.getLsbD l then v.getLsbD l else b.p j l) ∧
    (∀ d l x e k, l < 128 → k < 128 → (b.setV d l x).v e k = if e = d ∧ k = l then x else b.v e k)) ∧
  (∀ (s : State) (i : Instr) (d : SReg) (v : W64), scalarResult s.cb i = some (d, v) →
    exec i s = .next (scalarDone s (fun b => b.setS d v)))

/-- R112: a scalar compare writes whether its condition holds to qd and changes nothing else; which words of major 0x01 are
compares, and what every other word of it traps. -/
def Obligations.ScalarCompares : Prop :=
  (∀ (s : State) (c : Cond) (unsigned : Bool) (d : QReg) (a b : SReg), c.intOk = true →
    exec (.cmp c unsigned d a b) s =
      .next (scalarDone s (fun x => x.setQ d (scalarHolds c unsigned (s.cb.s a) (s.cb.s b))))) ∧
  (∀ (w next : W32) (c : Cond), w.toNat / 2 ^ 26 = 1 →
    let code (c : Cond) : Nat := match c with
      | .eq => 0 | .ne => 1 | .lt => 2 | .le => 3 | .gt => 4 | .ge => 5 | .ord => 6 | .uno => 7
    let formed : Prop := w.toNat % 2 ^ 8 / 2 ^ 5 = 0 ∧ w.toNat / 2 ^ 3 % 2 = 0 ∧ w.toNat % 2 ^ 3 ≤ 5
    (formed → w.toNat % 2 ^ 3 = code c →
      (w.toNat / 2 ^ 23 % 2 ^ 3 = 0 → decodeScalar w next = .ok (.cmp c (decide (w.toNat / 2 ^ 4 % 2 = 1))
        (BitVec.ofNat 3 (w.toNat / 2 ^ 20)) (BitVec.ofNat 6 (w.toNat / 2 ^ 14)) (BitVec.ofNat 6 (w.toNat / 2 ^ 8))) Extra.none) ∧
      (w.toNat / 2 ^ 23 % 2 ^ 3 ≠ 0 → decodeScalar w next = .bad .reservedNonzero)) ∧
    (¬ formed → decodeScalar w next = .bad .illegalEncoding))

/-- R118, R119: a scalar load whose access passes its check completes: its bytes, little-endian and zero-extended, go to
sd when the scoreboard lets go; a load other than ldy ends the back-off, and ldy polls (R41). Nothing else changes but the tile's
caches and its die's: memory, every other register and every other band are as before.

R118, R119: a scalar store whose access passes its check completes: the low bytes of the register stand at the places of
its address, every other byte of memory reads as before (the shadow pool of a contained launch apart, R328), and no register
changes but the pc and SIG.

That an access is performed at once is one of the behaviours that the ordering rules allow, and the model's choice (log entry
5). -/
def Obligations.ScalarAccesses : Prop :=
  (∀ (s : State) (i : Instr) (d : SReg) (va n : Nat) (sc : Scope), scalarLoadOf s.cb i = some (d, va, n, sc) →
    accessOk s s.cb.agent false false va n →
    ∃ t bs, exec i s = .next t ∧ loaded s s.cb.agent (pastTile sc) va n bs ∧ cachesOnly s t ∧
      t = { scalarDone s (fun b =>
          { b with pend := b.pend ++ [scalarPend d (BitVec.ofNat 64 (leNat n bs))], backoff := 0, hold := 0 }) with
        tiles := t.tiles, dies := t.dies, nonce := t.nonce }) ∧
  (∀ (s : State) (sc : Scope) (d a : SReg), accessOk s s.cb.agent false true (s.cb.s a).toNat 8 →
    ∃ t bs, exec (.scalarLdy sc d a) s = .next t ∧ loaded s s.cb.agent (pastTile sc) (s.cb.s a).toNat 8 bs ∧
      cachesOnly s t ∧
      t = { scalarDone s (fun b =>
          let v : W64 := BitVec.ofNat 64 (leNat 8 bs)
          let y := ldyPolled (s.cb.s a) v (isLinked s s.cb.agent (s.cb.s a).toNat) b
          { y with pend := y.pend ++ [scalarPend d v] }) with
        tiles := t.tiles, dies := t.dies, nonce := t.nonce }) ∧
  (∀ (s : State) (i : Instr) (d : SReg) (va n : Nat), scalarStoreOf s.cb i = some (d, va, n) →
    accessOk s s.cb.agent true false va n →
    ∃ t, exec i s = .next t ∧ stored s t s.cb.agent va (leBytes n (s.cb.s d).toNat) ∧ cachesOnly s t ∧
      t = { scalarDone s id with
        mem := t.mem, wq := t.wq, poison := t.poison, launches := t.launches, tiles := t.tiles, dies := t.dies })

/-- R121 to R123: the control transfers of the scalar stream complete at their targets, and a call leaves its return address; the
word is not counted (R124). A branch or a call that is not taken goes on at the next word.

R120, R122, R123: a taken transfer whose target lies outside the scalar section, a table index out of range and a table word
that is no always-taken br trap TARGET_RANGE; a return to another address than the shadow stack's traps RET_MISMATCH, after the
section check. -/
def Obligations.ControlTransfers : Prop :=
  (∀ (s : State) (q : QReg) (neg : Bool) (off : BitVec 22), xor (s.cb.q q) neg = true →
    s.scalarOk s.cb (labelOf s.cb off).toNat = true →
    exec (.br q neg off) s = .next (wentTo s (labelOf s.cb off) id) ∧
    exec (.call q neg off) s = .next (wentTo s (labelOf s.cb off) (called (s.cb.pc + 4)))) ∧
  (∀ (s : State) (q : QReg) (neg : Bool) (off : BitVec 22), xor (s.cb.q q) neg = false →
    exec (.br q neg off) s = .next (wentTo s (s.cb.pc + 4) id) ∧
    exec (.call q neg off) s = .next (wentTo s (s.cb.pc + 4) id)) ∧
  (∀ (s : State) (a : SReg), s.scalarOk s.cb (s.cb.s a).toNat = true →
    exec (.jr a) s = .next (wentTo s (s.cb.s a) id) ∧
    (s.cb.ret = [] → exec (.ret a) s = .next (wentTo s (s.cb.s a) id)) ∧
    (∀ rs, s.cb.ret = s.cb.s a :: rs →
      exec (.ret a) s = .next (wentTo s (s.cb.s a) (returned rs)))) ∧
  (∀ (s : State) (a : SReg) (n : BitVec 14) (w : Nat), (s.cb.s a).toNat < n.toNat →
    s.scalarOk s.cb (s.cb.pc + 4 + 4 * s.cb.s a).toNat = true →
    fetchS s s.cb (s.cb.pc + 4 + 4 * s.cb.s a).toNat = .word w → w / 2 ^ 22 = 0x180 →
    (∃ t, exec (.jt a n) s = .next t ∧ t = { wentTo s (s.cb.pc + 4 + 4 * s.cb.s a) id with tiles := t.tiles, dies := t.dies }) ∧
    (∃ t, exec (.callt a n) s = .next t ∧
      t = { wentTo s (s.cb.pc + 4 + 4 * s.cb.s a) (called (s.cb.pc + 4 + 4 * n.setWidth 64)) with
        tiles := t.tiles, dies := t.dies })) ∧
  (∀ (s : State) (q : QReg) (neg : Bool) (off : BitVec 22), xor (s.cb.q q) neg = true →
    s.scalarOk s.cb (labelOf s.cb off).toNat = false →
    exec (.br q neg off) s = trapScalar s 0x1C1 ∧ exec (.call q neg off) s = trapScalar s 0x1C1) ∧
  (∀ (s : State) (a : SReg), s.scalarOk s.cb (s.cb.s a).toNat = false →
    exec (.jr a) s = trapScalar s 0x1C1 ∧ exec (.ret a) s = trapScalar s 0x1C1) ∧
  (∀ (s : State) (a : SReg) (r : W64) (rs : List W64), s.scalarOk s.cb (s.cb.s a).toNat = true →
    s.cb.ret = r :: rs → r ≠ s.cb.s a → exec (.ret a) s = trapScalar s 0x18A) ∧
  (∀ (s : State) (a : SReg) (n : BitVec 14), n.toNat ≤ (s.cb.s a).toNat →
    exec (.jt a n) s = trapScalar s 0x1C1 ∧ exec (.callt a n) s = trapScalar s 0x1C1) ∧
  (∀ (s : State) (a : SReg) (n : BitVec 14) (w : Nat), (s.cb.s a).toNat < n.toNat →
    s.scalarOk s.cb (s.cb.pc + 4 + 4 * s.cb.s a).toNat = true →
    fetchS s s.cb (s.cb.pc + 4 + 4 * s.cb.s a).toNat = .word w → w / 2 ^ 22 ≠ 0x180 →
    exec (.jt a n) s = trapScalar s 0x1C1 ∧ exec (.callt a n) s = trapScalar s 0x1C1)

/-- R124 to R127: lpost appends a block with the values that it captures, outside handler mode, with room in the queue and a live
lane; lsync goes on when the lane stream has drained; tgt.bind copies a good table and binds it; sig.chk with the right
signature resets SIG and passes both its words, and in handler mode has no effect. -/
def Obligations.BlocksTablesSignatures : Prop :=
  (∀ (s : State) (i : BitVec 20), s.cb.held = none →
    s.laneOk s.cb (s.laneBase s.cb + 4 * i.toNat) = true → s.laneBase s.cb + 4 * i.toNat < 2 ^ 64 →
    s.cb.queue.length < 4 → s.cb.live ≠ 0 →
    exec (.lpost i) s = .next (scalarDone s (fun b =>
      { b with
        queue := b.queue ++ [postedBlock b (BitVec.ofNat 64 (s.laneBase s.cb + 4 * i.toNat))]
        rx := b.rx.map (fun r => { r with posted := true }) }))) ∧
  (∀ s : State, s.cb.held = none → s.cb.queue = [] → s.cb.run = none → (∀ p ∈ s.cb.pend, p.lane = false) →
    exec .lsync s = .next (scalarDone s id)) ∧
  (∀ (s : State) (off : BitVec 20) (n i : Nat),
    let va := (BitVec.ofInt 64 (s.cb.pc.toNat + 4 * off.toInt) : W64).toNat
    let word (j : Nat) : Nat := leNat 8 (loadBytes s s.cb.agent false ((va + 8 * j) % 2 ^ 64) 8).1
    s.cb.held = none → va % 8 = 0 → (∀ j, j ≤ n → accessOk s s.cb.agent false false ((va + 8 * j) % 2 ^ 64) 8) →
    word 0 = n → 1 ≤ n → n ≤ 256 →
    (∀ j, j < n → word (j + 1) / 2 ^ 44 = 0 ∧ word (j + 1) / 2 ^ 32 % 8 = 0 ∧ 8 ≤ word (j + 1) / 2 ^ 32 ∧
      word (j + 1) / 2 ^ 32 ≤ 2048 ∧ word (j + 1) / 2 ^ 32 ≤ s.cb.budget ∧
      s.laneOk s.cb (s.laneBase s.cb + word (j + 1) % 2 ^ 32) = true) →
    s.cb.freeCopy = some i →
    ∃ t L, exec (.tgtBind off) s = .next t ∧ tget? s.launches s.cb.launch = some L ∧ cachesOnly s t ∧
      t = { scalarDone s (fun b =>
          { b with
            copies := tset b.copies i ⟨va - L.image,
              (List.range n).map (fun j => (word (j + 1) / 2 ^ 32, word (j + 1) % 2 ^ 32))⟩
            bound := some i }) with
        tiles := t.tiles, dies := t.dies, nonce := t.nonce }) ∧
  (∀ s : State, s.cb.held = none → s.cb.sig ^^^ 0xFFFFFFFF = s.cur.x.next →
    exec .sigChk s = .next (s.modCb (fun b => { b with pc := b.pc + 8, wait := .none, sig := 0xFFFFFFFF }))) ∧
  (∀ s : State, s.cb.held ≠ none →
    exec .sigChk s = .next (s.modCb (fun b => { b with pc := b.pc + 8, wait := .none })))

/-- R128, R129, R303 to R308: srr reads each special register; srw writes JTO, STALLCHK, TVEC and RXSEQ when the reserved bits of
the value are 0, and TVEC outside handler mode; BUDLEFT is written in handler mode; SPECDEPTH, BFQTHR and BFQMAX take a
value in their range, and a change of the last two forms the batches that are then due (R305).

R128, R129, R305: what a write of a special register traps: a value with reserved bits set RESERVED_NONZERO, a number that srw
does not write ILLEGAL_ENCODING, TVEC in handler mode and BUDLEFT outside it HANDLER_MODE, a value out of range the cause
of its register; in each case nothing is written. -/
def Obligations.SpecialRegisters : Prop :=
  (∀ (s : State) (d : SReg) (n : BitVec 14) (v : Nat), (n.toNat, v) ∈ specialRegs s →
    exec (.srr d n) s = .next (scalarDone s (fun b => b.setS d (BitVec.ofNat 64 v)))) ∧
  (∀ (s : State) (a : SReg), (s.cb.s a).toNat < 2 ^ 32 →
    exec (.srw 0x010 a) s = .next (scalarDone s (fun b => { mended 0x010 b with jto := (s.cb.s a).setWidth 32 })) ∧
    exec (.srw 0x024 a) s = .next (scalarDone s (fun b => { mended 0x024 b with rxseq := s.cb.s a }))) ∧
  (∀ (s : State) (a : SReg), (s.cb.s a).toNat < 2 →
    exec (.srw 0x011 a) s = .next (scalarDone s (fun b => { mended 0x011 b with stallchk := s.cb.s a == 1 }))) ∧
  (∀ (s : State) (a : SReg), s.cb.held = none → (s.cb.s a).toNat < 2 ^ 52 → (s.cb.s a).toNat % 4 = 0 →
    exec (.srw 0x018 a) s = .next (scalarDone s (fun b => { mended 0x018 b with tvec := s.cb.s a }))) ∧
  (∀ s : State, s.cb.held ≠ none → (s.cb.s s.cur.x.src).toNat < 2 ^ 32 →
    exec .srwBudleft s = .next (scalarDone s (fun b => { mended 0x013 b with budleft := (s.cb.s s.cur.x.src).setWidth 32 }))) ∧
  (∀ s : State, let v := (s.cb.s s.cur.x.src).toNat
    (1 ≤ v → v ≤ 128 → exec .srwSpecdepth s =
      .next (scalarDone (s.modDctx s.cdk (fun d => { d with specdepth := v })) id)) ∧
    (1 ≤ v → v ≤ (s.dctx s.cdk).bfqmax → v ≤ 4096 → exec .srwBfqthr s =
      .next (scalarDone (formDue (s.modDctx s.cdk (fun d => { d with bfqthr := v })) s.cdk) id)) ∧
    (1 ≤ v → (s.dctx s.cdk).bfqthr ≤ v → v ≤ 4096 → exec .srwBfqmax s =
      .next (scalarDone (formDue (s.modDctx s.cdk (fun d => { d with bfqmax := v })) s.cdk) id))) ∧
  (∀ (s : State) (a : SReg), 2 ^ 32 ≤ (s.cb.s a).toNat →
    exec (.srw 0x010 a) s = trapScalar s 0x002 ∧ exec (.srw 0x024 a) s = trapScalar s 0x002) ∧
  (∀ (s : State) (a : SReg), 2 ≤ (s.cb.s a).toNat → exec (.srw 0x011 a) s = trapScalar s 0x002) ∧
  (∀ (s : State) (a : SReg), s.cb.held = none → (2 ^ 52 ≤ (s.cb.s a).toNat ∨ (s.cb.s a).toNat % 4 ≠ 0) →
    exec (.srw 0x018 a) s = trapScalar s 0x002) ∧
  (∀ (s : State) (a : SReg), s.cb.held ≠ none → exec (.srw 0x018 a) s = trapScalar s 0x1C3) ∧
  (∀ s : State, s.cb.held = none → exec .srwBudleft s = trapScalar s 0x1C3) ∧
  (∀ (s : State) (n : BitVec 14) (a : SReg), n ≠ 0x010 → n ≠ 0x011 → n ≠ 0x018 → n ≠ 0x024 →
    exec (.srw n a) s = trapScalar s 0x001) ∧
  (∀ s : State, let v := (s.cb.s s.cur.x.src).toNat
    (2 ^ 8 ≤ v → exec .srwSpecdepth s = trapScalar s 0x002) ∧
    (v < 2 ^ 8 → (v = 0 ∨ 128 < v) → exec .srwSpecdepth s = trapScalar s 0x145) ∧
    (2 ^ 13 ≤ v → exec .srwBfqthr s = trapScalar s 0x002 ∧ exec .srwBfqmax s = trapScalar s 0x002) ∧
    (v < 2 ^ 13 → (v = 0 ∨ 4096 < v) → exec .srwBfqthr s = trapScalar s 0x100 ∧ exec .srwBfqmax s = trapScalar s 0x100) ∧
    (v < 2 ^ 13 → (s.dctx s.cdk).bfqmax < v → exec .srwBfqthr s = trapScalar s 0x100) ∧
    (v < 2 ^ 13 → v < (s.dctx s.cdk).bfqthr → exec .srwBfqmax s = trapScalar s 0x100))

/-- R250, R251: a write of a Cabinet register that has had its turn completes: DDBASE makes the table unready; DDCAP = 0 unbinds the
table, and a valid DDCAP whose area can be written gives a fresh table, with two terminal records, empty buckets and a
peak of 2 nodes; VOBASE and VOCOUNT load the order from memory, and COUNT = 0 makes it unready. The context's entries of the operation cache
go, and no register changes but the pc and SIG.

R91, R250, R251: a value with reserved bits set or out of range traps when the srw issues, before its turn; its marker leaves the queue. -/
def Obligations.CabinetRegisterWrites : Prop :=
  (∀ s : State, ddTurned s → (s.cb.s s.cur.x.src).toNat % 65536 = 0 →
    ∃ t, exec .srwDdbase s = .next t ∧ cabinetOnly (scalarDone s id) t ∧ (∀ j, t.peek j = s.peek j) ∧
      (∀ k, t.dctx k = if k = s.cdk then { s.dctx k with ddbase := s.cb.s s.cur.x.src, tableReady := false }
        else s.dctx k) ∧
      ∀ e ∈ (t.die (s.cdk / 1024)).ops, e.2.ctx ≠ s.cdk % 1024) ∧
  (∀ s : State, ddTurned s → s.cb.s s.cur.x.src = 0 →
    ∃ t, exec .srwDdcap s = .next t ∧ cabinetOnly (scalarDone s id) t ∧ (∀ j, t.peek j = s.peek j) ∧
      (∀ k, t.dctx k = if k = s.cdk then { s.dctx k with ddcap := 0, tableReady := false, peak := 0 }
        else s.dctx k) ∧
      ∀ e ∈ (t.die (s.cdk / 1024)).ops, e.2.ctx ≠ s.cdk % 1024) ∧
  (∀ (s : State) (logn limit : Nat), ddTurned s → (s.cb.s s.cur.x.src).toNat = logn + limit * 256 →
    6 ≤ logn → logn ≤ 34 → 3 ≤ limit → limit ≤ 2 ^ logn →
    let base := (s.dctx s.cdk).ddbase.toNat
    (∀ i, i < 24 * 2 ^ logn → ∃ k, placed s s.cb.agent true base i k) →
    ∃ t, exec .srwDdcap s = .next t ∧ cabinetOnly (scalarDone s id) t ∧ freshTable s t s.cb.agent base logn ∧
      (∀ k, t.dctx k = if k = s.cdk then { s.dctx k with ddcap := s.cb.s s.cur.x.src, tableReady := true, peak := 2 }
        else s.dctx k) ∧
      ∀ e ∈ (t.die (s.cdk / 1024)).ops, e.2.ctx ≠ s.cdk % 1024) ∧
  (∀ s : State, ddTurned s →
    let v := s.cb.s s.cur.x.src
    let d := s.dctx s.cdk
    let gives (i : Instr) (base count : W64) (l2v v2l : Tbl Nat) (ready : Bool) : Prop :=
      ∃ t, exec i s = .next t ∧ cabinetOnly (scalarDone s id) t ∧ (∀ j, t.peek j = s.peek j) ∧
        (∀ k, t.dctx k = if k = s.cdk then
            { d with vobase := base, vocount := count, l2v := l2v, v2l := v2l, orderReady := ready } else s.dctx k) ∧
        ∀ e ∈ (t.die (s.cdk / 1024)).ops, e.2.ctx ≠ s.cdk % 1024
    let readable (base count : W64) : Prop :=
      let o := orderAt s s.cb.agent base.toNat count.toNat
      count ≠ 0 ∧ count ≠ 0xFFFFF ∧ rangeFault s s.cb.agent false base.toNat (8 * count.toNat) = none ∧
        engBad s s.cb.agent base.toNat (8 * count.toNat) = false ∧ inverseTables count.toNat o.1 o.2
    (v.toNat % 4 = 0 → d.vocount = 0 → gives .srwVobase v 0 [] [] false) ∧
    (v = 0 → gives .srwVocount d.vobase 0 [] [] false) ∧
    (v.toNat % 4 = 0 → readable v d.vocount →
      gives .srwVobase v d.vocount (orderAt s s.cb.agent v.toNat d.vocount.toNat).1
        (orderAt s s.cb.agent v.toNat d.vocount.toNat).2 true) ∧
    (v.toNat < 2 ^ 20 → readable d.vobase v →
      gives .srwVocount d.vobase v (orderAt s s.cb.agent d.vobase.toNat v.toNat).1
        (orderAt s s.cb.agent d.vobase.toNat v.toNat).2 true)) ∧
  (∀ s : State, let v := (s.cb.s s.cur.x.src).toNat
    let logn := v % 2 ^ 6
    let limit := v / 2 ^ 8 % 2 ^ 40
    let u := s.modDie (s.cb.tile / 96) (fun d => { d with
      cab := d.cab.filter (fun c => !(c.op == 13 && c.band == s.cur.band)) })
    (v % 65536 ≠ 0 → exec .srwDdbase s = trapScalar u 0x002) ∧
    (v / 2 ^ 6 % 2 ^ 2 ≠ 0 ∨ 2 ^ 48 ≤ v → exec .srwDdcap s = trapScalar u 0x002) ∧
    (v / 2 ^ 6 % 2 ^ 2 = 0 → v < 2 ^ 48 → (logn = 0 ∧ limit ≠ 0) ∨ (logn ≠ 0 ∧ (logn < 6 ∨ 34 < logn ∨ limit < 3 ∨ 2 ^ logn < limit)) →
      exec .srwDdcap s = trapScalar u 0x152) ∧
    (v % 4 ≠ 0 → exec .srwVobase s = trapScalar u 0x002) ∧
    (2 ^ 20 ≤ v → exec .srwVocount s = trapScalar u 0x002) ∧ (v = 0xFFFFF → exec .srwVocount s = trapScalar u 0x152))

/-! ### The scalar stream: engines -/

/-- R85, R189: a fence of the scalar stream goes on, with the tile's L1 emptied where the scope reaches past the tile; a fence of
the lane stream does the same for its fragment, whose word is counted; rfence drops the context's record-cache entries
that it names, in the issuing quad or in every quad. In this model every earlier access has been performed (log entry 5). A fence of
workgroup or tile scope, which may end a join, drops the L1's lines that an engine has written since (R82; log entry 6). -/
def Obligations.Fences : Prop :=
  (∀ (s : State) (sc : Scope),
    exec (.scalarFence sc) s = .next (scalarDone (joined s sc) id) ∧
    exec (.laneFence sc) s = .next (laneDone (joined s sc) id)) ∧
  (∀ (s : State) (a : SReg),
    let kept (q : Option Nat) (gone : CachedRec → Bool) (t : State) : Prop :=
      t = { scalarDone s id with quads := t.quads } ∧
      ∀ k, t.quad k = if q = none ∨ q = some k then
        { s.quad k with records := (s.quad k).records.filter (fun r => !gone r) } else s.quad k
    (∃ t, exec .rfenceQd s = .next t ∧ kept (some s.cq) (fun r => r.ctx == s.cb.ctx) t) ∧
    (∃ t, exec .rfenceDv s = .next t ∧ kept none (fun r => r.ctx == s.cb.ctx) t) ∧
    (∃ t, exec (.rfenceQdAddr a) s = .next t ∧
      kept (some s.cq) (fun r => r.ctx == s.cb.ctx && r.addr == (s.cb.s a).toNat) t) ∧
    (∃ t, exec (.rfenceDvAddr a) s = .next t ∧
      kept none (fun r => r.ctx == s.cb.ctx && r.addr == (s.cb.s a).toNat) t))

/-- R209 to R212: a copy command whose operands pass their checks enters the tile's queue while that has room, with its operands
and who issued it; yieldc issues a plain copy that reports to its band alone, and the band parks at its continuation.

R254, R255: a Cabinet command whose block is aligned and whose target is well formed enters the queue of the band's die while
that has room, with its operands and who issued it. -/
def Obligations.EngineCommandsEnter : Prop :=
  (∀ (s : State) (d a b t : SReg), let x := s.cb
    let cmd (kind n : Nat) : CopyCmd := ⟨kind, x.s d, x.s a, n, (x.s b).toNat / 2 ^ 32, x.s t, s.cur.band, x.wg, x.ctx,
      x.launch, x.tile, x.ptile, false, none⟩
    let enters (c : CopyCmd) : State :=
      (scalarDone s id).modTile x.ptile (fun y => { y with copies := y.copies ++ [c] })
    (s.tile x.ptile).copies.length < 16 → targetOk (x.s t) = true →
    ((x.s b).toNat < 2 ^ 40 → exec (.copy d a b t) s = .next (enters (cmd 0 (x.s b).toNat))) ∧
    (formatOk ((x.s b).toNat / 2 ^ 32) = true → (Format.ofNat ((x.s b).toNat / 2 ^ 32)).kind = 3 →
      (x.s b).toNat % 2 ^ 32 ≠ 0 →
      ((x.s d).toNat % 64 = 0 → exec (.copyPack d a b t) s = .next (enters (cmd 1 ((x.s b).toNat % 2 ^ 32)))) ∧
      ((x.s a).toNat % 64 = 0 → exec (.copyUnpack d a b t) s = .next (enters (cmd 2 ((x.s b).toNat % 2 ^ 32)))))) ∧
  (∀ (s : State) (d a b : SReg) (off : BitVec 8), let x := s.cb
    let cont : W64 := BitVec.ofInt 64 (x.pc.toNat + 4 * off.toInt)
    x.held = none → (x.s b).toNat < 2 ^ 40 → s.scalarOk x cont.toNat = true → (s.tile x.ptile).copies.length < 16 →
    exec (.yieldc d a b off) s = .next ((s.modCb (fun y => { y with wait := .yieldc true cont none })).modTile x.ptile
      (fun y => { y with copies := y.copies ++ [⟨0, x.s d, x.s a, (x.s b).toNat, (x.s b).toNat / 2 ^ 32, 0, s.cur.band,
        x.wg, x.ctx, x.launch, x.tile, x.ptile, true, none⟩] }))) ∧
  (∀ (s : State) (a t : SReg) (tt : BitVec 4), let b := s.cb
      let die := b.tile / 96
      let enters (op n : Nat) (v : W64) (tt : Nat) (o : Out) : Prop := v.toNat % n = 0 →
        o = .next ((scalarDone s id).modDie die (fun d => { d with
          cab := d.cab ++ [⟨op, tt, v, b.s t, s.cur.word.setWidth 32, s.cur.band, b.wg, b.ctx, b.launch, b.ptile,
            none, none⟩] }))
      targetOk (b.s t) = true → ((s.die die).cab.filter (fun c => decide (c.op < 13))).length < 64 →
      enters 0 32 (b.s a) 0 (exec (.ddMk a t) s) ∧ enters 1 32 (b.s a) tt.toNat (exec (.ddApply a t tt) s) ∧
      enters 2 32 (b.s a) 0 (exec (.ddIte a t) s) ∧ enters 3 32 (b.s a) 0 (exec (.ddRestrict a t) s) ∧
      enters 4 32 (b.s a) 0 (exec (.ddExists a t) s) ∧ enters 5 32 (b.s a) 0 (exec (.ddWcount a t) s) ∧
      enters 6 32 (b.s a) 0 (exec (.ddSatcount a t) s) ∧ enters 7 1 (b.s a) 0 (exec (.ddRef a t) s) ∧
      enters 8 1 (b.s a) 0 (exec (.ddDeref a t) s) ∧ enters 9 1 (b.s a) 0 (exec (.ddSwap a t) s) ∧
      enters 10 1 (b.s a) 0 (exec (.ddOrder a t) s) ∧ enters 11 1 0 0 (exec (.ddGc t) s) ∧
      enters 12 64 (b.s a) 0 (exec (.ddStat a t) s))

/-- R213 to R215: binit, bclr and the arrivals make their step on a barrier object whose address passes its checks, and the result
word of an arrival is held for sd. barr.t does so too unless the step is refused.

R213, R215: what a barrier operation traps: a misaligned address MISALIGNED, an address in the translated range BARRIER_BAD, an
operand out of range ENG_OPERAND; and barr.t traps BARRIER_OVERRUN or BARRIER_BAD after the refused step, with sd written.

The order of barr.mx's checks is the model's reading (log entry 63). -/
def Obligations.BarrierSteps : Prop :=
  (∀ (s : State) (sc : Scope) (d a b : SReg) (k : Nat), barrierAt s (s.cb.s a).toNat k →
    let va := (s.cb.s a).toNat
    let o := readBarrier s k
    let c := (s.cb.s b).toNat
    let r (poisoned : Bool) := arrivalOf o c poisoned (s.cb.tile * 96 + s.cb.slot)
    (c < 2 ^ 16 → ∃ t, exec (.binit sc a b) s = .next t ∧
      barrierStepped s t va k ⟨c, 0, 0, false, false, 0, 0, 0⟩ id) ∧
    (∃ t, exec (.bclr sc a) s = .next t ∧
      barrierStepped s t va k { o with overrun := false, poisoned := false, pcount := 0, lastovr := 0 } id) ∧
    (1 ≤ c → c ≤ 255 →
      (∃ t, exec (.barr sc d a b) s = .next t ∧
        barrierStepped s t va k (r false).2 (pending d (resultWord (r false).1 (r false).2))) ∧
      (∃ t, exec (.barrP sc d a b) s = .next t ∧
        barrierStepped s t va k (r true).2 (pending d (resultWord (r true).1 (r true).2))) ∧
      ((r false).1 = 0 ∨ (r false).1 = 1 → ∃ t, exec (.barrT sc d a b) s = .next t ∧
        barrierStepped s t va k (r false).2 (pending d (resultWord (r false).1 (r false).2))))) ∧
  (∀ (s : State) (sc : Scope) (d a b : SReg), (s.cb.s a).toNat % 16 ≠ 0 →
    exec (.binit sc a b) s = trapScalar s 0x081 ∧ exec (.barr sc d a b) s = trapScalar s 0x081 ∧
    exec (.barrT sc d a b) s = trapScalar s 0x081 ∧ exec (.barrP sc d a b) s = trapScalar s 0x081 ∧
    exec (.bwait sc d a b) s = trapScalar s 0x081 ∧ exec (.bclr sc a) s = trapScalar s 0x081 ∧
    exec (.barrMx sc a b) s = trapScalar s 0x081) ∧
  (∀ (s : State) (sc : Scope) (d a b : SReg), (s.cb.s a).toNat % 16 = 0 → (s.cb.s a).toNat < 2 ^ 52 →
    exec (.binit sc a b) s = trapScalar s 0x0C2 ∧ exec (.barr sc d a b) s = trapScalar s 0x0C2 ∧
    exec (.barrT sc d a b) s = trapScalar s 0x0C2 ∧ exec (.barrP sc d a b) s = trapScalar s 0x0C2 ∧
    exec (.bwait sc d a b) s = trapScalar s 0x0C2 ∧ exec (.bclr sc a) s = trapScalar s 0x0C2 ∧
    exec (.barrMx sc a b) s = trapScalar s 0x0C2) ∧
  (∀ (s : State) (sc : Scope) (d a b : SReg) (k : Nat), barrierAt s (s.cb.s a).toNat k →
    ((s.cb.s b).toNat = 0 ∨ 255 < (s.cb.s b).toNat →
      exec (.barr sc d a b) s = trapScalar s 0x100 ∧ exec (.barrT sc d a b) s = trapScalar s 0x100 ∧
      exec (.barrP sc d a b) s = trapScalar s 0x100) ∧
    (2 ^ 16 ≤ (s.cb.s b).toNat → exec (.binit sc a b) s = trapScalar s 0x100)) ∧
  (∀ (s : State) (sc : Scope) (d a b : SReg) (k : Nat), barrierAt s (s.cb.s a).toNat k →
    1 ≤ (s.cb.s b).toNat → (s.cb.s b).toNat ≤ 255 →
    let va := (s.cb.s a).toNat
    let r := arrivalOf (readBarrier s k) (s.cb.s b).toNat false (s.cb.tile * 96 + s.cb.slot)
    let u := (putBarrier s s.cb.agent va k r.2).modCb (fun x => x.setS d (resultWord r.1 r.2))
    (r.1 = 2 → exec (.barrT sc d a b) s = trapScalar u 0x0C1) ∧
    (r.1 = 3 → exec (.barrT sc d a b) s = trapScalar u 0x0C2))

/-- R208, R216, R201: a wait whose condition holds returns at once, as a join of its scope, and one whose condition does not hold
parks the band: bwait on a phase, cwait on a count or a status, mwait on RETIRED. The return of a cwait is a load of the object and
ends the back-off (R41). A join of workgroup scope or wider empties the tile's L1 (R82, log entry 6).

The order of cwait's checks is the model's reading (log entry 63). -/
def Obligations.WaitsReturnOrPark : Prop :=
  (∀ (s : State) (sc : Scope) (d a b : SReg) (k : Nat), barrierAt s (s.cb.s a).toNat k →
    let o := readBarrier s k
    let v := (s.cb.s b).toNat
    v / 2 ^ 4 % 2 ^ 12 = 0 → v < 2 ^ 48 →
    (o.expected = 0 → exec (.bwait sc d a b) s = .next (scalarDone s (pending d (resultWord 3 o)))) ∧
    (o.expected ≠ 0 → o.phase ≠ v % 16 →
      exec (.bwait sc d a b) s = .next (scalarDone (joinedAt s s.cb.ptile sc) (pending d (resultWord 4 o)))) ∧
    (o.expected ≠ 0 → o.phase = v % 16 →
      exec (.bwait sc d a b) s = .next (s.modCb (fun x => { x with
        wait := .bwait d k (v % 16) sc (v / 2 ^ 16) (v / 2 ^ 16 != 0), waitWord := s.cur.word.setWidth 32 })))) ∧
  (∀ (s : State) (sc : Scope) (d a b : SReg) (k : Nat), accessOk s s.cb.agent false true (s.cb.s a).toNat 8 →
    placed s s.cb.agent false (s.cb.s a).toNat 0 k →
    let obj := memNat s.view k 8
    let v := (s.cb.s b).toNat
    (v % 2 ^ 48 ≤ obj % 2 ^ 48 ∨ obj / 2 ^ 48 ≠ 0 →
      exec (.cwait sc d a b) s = .next (scalarDone (joinedAt s s.cb.ptile sc) (fun x =>
        pending d (BitVec.ofNat 64 obj) { x with backoff := 0, hold := 0 }))) ∧
    (obj % 2 ^ 48 < v % 2 ^ 48 → obj / 2 ^ 48 = 0 →
      exec (.cwait sc d a b) s = .next (s.modCb (fun x => { x with
        wait := .cwait d (s.cb.s a) (v % 2 ^ 48) sc (v / 2 ^ 48 * 1024) (v / 2 ^ 48 != 0)
        waitWord := s.cur.word.setWidth 32 })))) ∧
  (∀ (s : State) (sc : Scope) (a : SReg), (s.cb.s a).toNat ≤ s.cb.mxPosted.toNat →
    ((s.cb.s a).toNat ≤ s.cb.mxRetired.toNat → exec (.mwait sc a) s = .next (scalarDone (joinedAt s s.cb.ptile sc) id)) ∧
    (s.cb.mxRetired.toNat < (s.cb.s a).toNat → exec (.mwait sc a) s = .next (s.modCb (fun x => { x with
      wait := .mwait sc (s.cb.s a).toNat, waitWord := s.cur.word.setWidth 32 }))))

/-- R207, R366: a signal to a completion object adds its count, and the first status that is not 0 stays; a signal to a barrier is
one arrival, poisoned when the status is not 0; target 0 reports nowhere; one that cannot be made is a deferred cause of the band
that supplied it. csig signals as the band itself. -/
def Obligations.Signals : Prop :=
  (∀ (s : State) (src : Source) (n st : Nat), signal s src 0 n st = s) ∧
  (∀ (s : State) (src : Source) (g : W64) (n st k : Nat), g ≠ 0 → g.toNat % 8 = 0 →
    xlAccess s src.ag true true g.toNat 8 = .ok k → anyPoison s [k] = false →
    stored s (signal s src g n st) src.ag g.toNat (leBytes 8 (signalled (memNat s.view k 8) n st)) ∧
    cachesOnly s (signal s src g n st) ∧
    signal s src g n st = { s with
      mem := (signal s src g n st).mem, wq := (signal s src g n st).wq, poison := (signal s src g n st).poison
      launches := (signal s src g n st).launches, tiles := (signal s src g n st).tiles
      dies := (signal s src g n st).dies }) ∧
  (∀ (s : State) (src : Source) (g : W64) (n st k : Nat), g.toNat % 16 = 1 →
    barrierPlace s src.ag (g.toNat - 1) = .ok k → anyPoison s [k, k + 8] = false →
    let o := (arrivalOf (readBarrier s k) 1 (decide (st ≠ 0)) src.num).2
    stored s (signal s src g n st) src.ag (g.toNat - 1) (leBytes 16 o.toNat) ∧
    cachesOnly s (signal s src g n st) ∧
    signal s src g n st = { wakeWaiters s k o with
      mem := (signal s src g n st).mem, wq := (signal s src g n st).wq, poison := (signal s src g n st).poison
      launches := (signal s src g n st).launches, tiles := (signal s src g n st).tiles
      dies := (signal s src g n st).dies }) ∧
  (∀ (s : State) (src : Source) (g : W64) (n st b : Nat) (c : Cause), g ≠ 0 → g.toNat % 8 = 0 →
    xlAccess s src.ag true true g.toNat 8 = .bad c → src.band = some b → (tget? s.bands b).isSome →
    signal s src g n st = s.modBand b (fun x => { x with deferred := x.deferred ++ [⟨c, none⟩] })) ∧
  (∀ (s : State) (sc : Scope) (a b : SReg), targetOk (s.cb.s a) = true →
    ∃ t, exec (.csig sc a b) s = .next t ∧
      t = scalarDone (signal s s.cb.source (s.cb.s a) ((s.cb.s b).toNat % 2 ^ 48) ((s.cb.s b).toNat / 2 ^ 48)) id)

/-- R219, R224: vdec enters a command into the queue of the decoder named, or of the least busy one; a stride-pattern entry of the
interface is written, made invalid, and read by its context.

R225 to R227: bfq.reg takes a free slot and answers a handle of a new generation; bfq.unreg ends a sequence, and its waiting
requests retire KILLED; bfq.slack sets its slack; bfq.post appends a valid request and forms the batches that are then due; bfq.take gives the
oldest formed batch and its record, or waits; bfq.next gives the first request not yet given and reloads the budget, or
answers −1; bfq.done retires a request with its status.

The slot and generation of a handle and the number that bfq.post answers are free values (log entry 34); a second bfq.take gives
the first batch up (log entry 36). -/
def Obligations.DecoderPatternAndBatchCommands : Prop :=
  (∀ (s : State) (a : SReg) (n : BitVec 4), let b := s.cb
    let k := b.tile / 96 * 8 + (if n.toNat = 8 then leastBusy s (b.tile / 96) else n.toNat)
    (b.s a).toNat % 64 = 0 → (s.dec k).queue.length < 8 →
    exec (.vdec a n) s = .next ((scalarDone s id).modDec k (fun d =>
      { d with queue := d.queue ++ [⟨b.s a, s.cur.band, b.wg, b.ctx, b.launch, b.ptile⟩] }))) ∧
  (∀ (s : State) (d a b : SReg), let x := s.cb
    let v := s.vif (x.ctx / 16)
    let e := v.gpatFirst + (x.s a).toNat
    (x.s a).toNat < v.gpatUse → (x.s a).toNat < 2 ^ 16 →
    (patternBusy s e = false → (x.s b).toNat % 2 ^ 32 ≠ 0 → (x.s b).toNat / 2 ^ 32 < 3 →
      ∃ t, exec (.gpatSet a b) s = .next t ∧ t = { scalarDone s id with gpat := t.gpat } ∧
        ∀ j, tget? t.gpat j = if j = e then some (x.ctx, x.s b) else tget? s.gpat j) ∧
    (patternBusy s e = false →
      ∃ t, exec (.gpatClr a) s = .next t ∧ t = { scalarDone s id with gpat := t.gpat } ∧
        ∀ j, tget? t.gpat j = if j = e then none else tget? s.gpat j) ∧
    exec (.gpatGet d a) s = .next (scalarDone s (pending d (match tget? s.gpat e with
      | some (c, w) => if c = x.ctx then w else 0
      | none => 0)))) ∧
  (∀ (s : State) (d a : SReg), let k := s.cdk
    (∃ i, i < 4096 ∧ tget? (s.dctx k).seqs i = none) →
    ∃ slot gen, slot < 4096 ∧ tget? (s.dctx k).seqs slot = none ∧ gen < 2 ^ 20 ∧ gen ≠ tget 0 (s.dctx k).gens slot ∧
      exec (.bfqReg d a) s = .next ((scalarDone s (pending d (BitVec.ofNat 64 (slot + gen * 2 ^ 12)))).modDctx k (fun x =>
        { x with
          seqs := tset x.seqs slot ⟨gen, ((s.cb.s a).setWidth 32).toInt, some s.cb.tile⟩
          gens := tset x.gens slot gen }))) ∧
  (∀ (s : State) (a b : SReg) (slot : Nat) (q : Seq), seqOf s s.cdk (s.cb.s a) = some (slot, q) →
    (let h := (s.cb.s a).toNat
      let gone := (s.dctx s.cdk).waiting.filter (fun r => r.handle == h)
      exec (.bfqUnreg a) s = .next (scalarDone (gone.foldl (fun u r => signal u (bfqSource s.cdk r) r.target r.rows 0x20)
        (s.modDctx s.cdk (fun x => { x with
          seqs := tdel x.seqs slot, waiting := x.waiting.filter (fun r => r.handle != h) }))) id)) ∧
    exec (.bfqSlack a b) s = .next ((scalarDone s id).modDctx s.cdk (fun x =>
      { x with seqs := tset x.seqs slot { q with slack := ((s.cb.s b).setWidth 32).toInt } }))) ∧
  (∀ (s : State) (d a : SReg), let va := (s.cb.s a).toNat
    let w := leNat 64 (loadBytes s s.cb.agent true va 64).1
    accessOk s s.cb.agent false true va 64 → w / 2 ^ 40 % 2 ^ 24 = 0 → w < 2 ^ 320 →
    targetOk (BitVec.ofNat 64 (w / 2 ^ 192)) = true → (seqOf s s.cdk (BitVec.ofNat 64 (w % 2 ^ 32))).isSome →
    (s.dctx s.cdk).waiting.length < 1024 →
    ∃ t v, exec (.bfqPost d a) s = .next t ∧ cachesOnly s t ∧
      t = { scalarDone (formDue (s.modDctx s.cdk (fun x => { x with
          waiting := x.waiting ++ [⟨s.cb.s a, w % 2 ^ 32, w / 2 ^ 32 % 2 ^ 8 + 1, w / 2 ^ 256 % 2 ^ 32,
            BitVec.ofNat 64 (w / 2 ^ 192), w / 2 ^ 288 % 2 ^ 32, 0, s.cur.band, s.cb.launch, s.cb.ptile⟩] })) s.cdk) (pending d v) with
        tiles := t.tiles, dies := t.dies }) ∧
  (∀ (s : State) (d a : SReg), (s.dctx s.cdk).formed = [] →
    exec (.bfqTake d a) s = .next (s.modCb (fun b => { b with
      wait := .bfqTake d (s.cb.s a), waitWord := s.cur.word.setWidth 32 }))) ∧
  (∀ (s : State) (d a : SReg) (x : Batch) (xs : List Batch), (s.dctx s.cdk).formed = x :: xs →
    let va := (s.cb.s a).toNat
    (∀ i, i ≤ x.reqs.length → ∃ k, xlAccess s s.cb.agent true false (va + 8 * i) 8 = .ok k) →
    (∀ r ∈ s.cb.batch, r.retired = true) →
    let rec_ := leBytes 8 (x.reqs.length + (x.reqs.map (·.rows)).sum * 2 ^ 16 + x.no * 2 ^ 32) ++
      x.reqs.flatMap (fun r => leBytes 8 r.desc.toNat)
    let u := formDue (s.modDctx s.cdk (fun y => { y with formed := xs })) s.cdk
    ∃ t, exec (.bfqTake d a) s = .next t ∧ stored s t s.cb.agent va rec_ ∧ cachesOnly s t ∧
      t = { scalarDone s (fun b => pending d (BitVec.ofNat 64 x.reqs.length) { b with
          batch := x.reqs.map (fun r => ⟨r, false, false⟩), lastGiven := none }) with
        mem := t.mem, wq := t.wq, poison := t.poison, launches := t.launches, tiles := t.tiles
        dctxs := u.dctxs, dies := u.dies }) ∧
  (∀ (s : State) (d : SReg) (i : Nat) (r : Served), s.cb.batch.findIdx? (fun r => !r.given && !r.retired) = some i →
    s.cb.batch[i]? = some r →
    exec (.bfqNext d) s = .next (scalarDone s (fun b => { b.setS d (BitVec.ofNat 64 i) with
      batch := b.batch.set i { r with given := true }
      lastGiven := some i
      budleft := BitVec.ofNat 32 r.req.budget }))) ∧
  (∀ (s : State) (d : SReg), (∀ r ∈ s.cb.batch, r.given = true ∨ r.retired = true) →
    exec (.bfqNext d) s = .next (scalarDone s (fun b => b.setS d (BitVec.allOnes 64)))) ∧
  (∀ (s : State) (a b : SReg) (r : Served), s.cb.batch[(s.cb.s a).toNat]? = some r →
    let st := (s.cb.s b).toNat % 2 ^ 16
    st ≠ 0x20 → st ≠ 0x40 → st ≠ 0x41 →
    (r.retired = true → exec (.bfqDone a b) s = .next (scalarDone s id)) ∧
    (r.retired = false → exec (.bfqDone a b) s = .next (scalarDone (signal
      (s.modCb (fun y => { y with batch := y.batch.set (s.cb.s a).toNat { r with retired := true } }))
      (bfqSource s.cdk r.req) r.req.target r.req.rows st) id)))

/-- R184, R185, R204: acc.alloc takes the lowest free tiles of each array whole, and they read +0, or waits, as it does while an older
request waits that fits; a cordoned tile's array has none; acc.held answers the
workgroup's mask; acc.free releases held tiles that no entry names, or waits.

R201, R217: mstat answers MXSTAT and clears STATUS; mwait and barr.mx trap MX_OPERAND above the operations posted; barr.mx defers
one arrival until the first r operations have retired. -/
def Obligations.AccumulatorTilesAndCounters : Prop :=
  (∀ (s : State) (d a : SReg), let w := s.cb.s a
    let count (i : Nat) : Nat := w.toNat / 2 ^ (8 * i) % 32
    let free := freeAcc s
    let ns := (free 0).take (count 0) ++ (free 1).take (count 1) ++ (free 2).take (count 2) ++ (free 3).take (count 3)
    w ≠ 0 → w &&& 0x1F1F1F1F = w → (∀ i, i < 4 → count i ≤ 16) →
    (fitsAcc s w → ¬ olderAcc s →
      ∃ u m, exec (.accAlloc d a) s = .next u ∧ (∀ n, n < 64 → (m.getLsbD n = true ↔ n ∈ ns)) ∧
        (∀ n i j, n < 64 → i < 128 → j < 128 → (u.quad s.cq).elem n i j = if n ∈ ns then 0 else (s.quad s.cq).elem n i j) ∧
        (∀ q, q ≠ s.cq → u.quad q = s.quad q) ∧
        (∀ p, u.tile p = { s.tile p with gated := (u.tile p).gated, waking := (u.tile p).waking }) ∧
        u = { (scalarDone s (pending d m)).modWg s.cb.wg (fun x => { x with acc := x.acc ||| m }) with
          quads := u.quads, tiles := u.tiles }) ∧
    (¬ fitsAcc s w ∨ olderAcc s →
      exec (.accAlloc d a) s = .next (s.modCb (fun b => { b with
        wait := .acc d w s.nonce, waitWord := s.cur.word.setWidth 32 })))) ∧
  (∀ (s : State) (d : SReg) (x : Workgroup), tget? s.wgs s.cb.wg = some x →
    exec (.accHeld d) s = .next (scalarDone s (fun b => b.setS d x.acc))) ∧
  (∀ (s : State) (a : SReg) (x : Workgroup), tget? s.wgs s.cb.wg = some x → s.cb.s a &&& x.acc = s.cb.s a →
    let named := ∃ e ∈ (s.quad s.cq).table, ∃ n ∈ e.tiles, (s.cb.s a).getLsbD n = true
    (¬ named → exec (.accFree a) s = .next ((scalarDone s id).modWg s.cb.wg (fun y =>
      { y with acc := y.acc &&& ~~~s.cb.s a }))) ∧
    (named → exec (.accFree a) s = .next (s.modCb (fun b => { b with
      wait := .accFree (s.cb.s a), waitWord := s.cur.word.setWidth 32 })))) ∧
  (∀ (s : State) (a : SReg) (x : Workgroup), tget? s.wgs s.cb.wg = some x → s.cb.s a &&& x.acc ≠ s.cb.s a →
    exec (.accFree a) s = trapScalar s 0x105) ∧
  (∀ (s : State) (d : SReg), exec (.mstat d) s = .next (scalarDone s (fun b =>
    { b.setS d (BitVec.ofNat 64 (s.cb.mxStatus.toNat * 2 ^ 48 + s.cb.mxRetired.toNat)) with mxStatus := 0 }))) ∧
  (∀ (s : State) (sc : Scope) (a : SReg), s.cb.mxPosted.toNat < (s.cb.s a).toNat →
    exec (.mwait sc a) s = trapScalar s 0x101) ∧
  (∀ (s : State) (sc : Scope) (a b : SReg) (k : Nat), let x := s.cb
    let r := (x.s b).toNat
    (x.s a).toNat % 16 = 0 → barrierPlace s x.agent (x.s a).toNat = .ok k → r < 2 ^ 48 →
    (r ≤ x.mxPosted.toNat → exec (.barrMx sc a b) s = .next { scalarDone s id with
      arrivals := s.arrivals ++ [⟨BitVec.ofNat 64 ((x.s a).toNat + 1), s.cur.band, x.wg, x.ctx, x.launch, x.tile, x.ptile,
        (mxOpen s s.cur.band).filter (fun n => decide (n < r)),
        x.mxBad.any (fun n => decide (n < r)) || x.mxDone.any (fun e => decide (e.1 < r) && e.2.status != 0)⟩] }) ∧
    (x.mxPosted.toNat < r → exec (.barrMx sc a b) s = trapScalar s 0x101))

/-- R229 to R233, R239, R245, R246: rlx.begin with good operands opens a region of one band with its first guesses, or waits for the other
bands of its workgroup; rlx.wait answers RXOUT when no region is open or held and waits otherwise; rlx.abort ends
a region.

That rlx.abort closes at once when no pass runs is the model's reading (log entry 40). -/
def Obligations.RegionCommands : Prop :=
  (∀ (s : State) (t c x : SReg), let b := s.cb
    let cfg := (b.s c).toNat
    let d := cfg % 16
    let depth : Option Nat := if (b.s c).getLsbD 56 then depthNow s b else some (b.s t).toNat
    regionOperands s (b.s t) (b.s c) (b.s x) → b.rxLate = none →
    (∀ n w v ys m, (s.band (b.wg * 16)).wait = .rxBegin n w v ys m → m < b.no) →
    (b.no = 0 → ∀ i, i < 16 → b.wg * 16 + i ≠ s.cur.band → begun s (b.wg * 16 + i) = none) →
    ∀ k, depth = some k →
    let n := min (b.s t).toNat k
    let jac := cfg / 2 ^ 4 % 4 = 2
    ∃ u r, exec (.rlxBegin t c x 0) s = .next u ∧
      u = { scalarDone s (fun y => { y with
          rx := some ⟨s.cur.band, 0, n, d, if jac then 0 else 16 * (cfg / 2 ^ 58 % 8 + 1), decide jac, false, 0, 0⟩
          rxout := BitVec.ofNat 64 (1 + n * 2 ^ 16), rxpass := 0, rxres := 0, rxpre := 0 }) with
        regions := u.regions } ∧
      (∀ j, tget? u.regions j = if j = s.cur.band then some r else tget? s.regions j) ∧
      r.cfg = b.s c ∧ r.nb = 1 ∧ r.n = n ∧ r.held = false ∧ r.y = [] ∧ r.jac = [] ∧ r.e = 0 ∧ r.pass = 0 ∧
      r.stalls = 0 ∧ r.limit = cfg / 2 ^ 8 % 2 ^ 12 ∧ r.abort = false ∧ r.stalled = false ∧ r.seqAt = none ∧
      (∀ i, i < d → r.guess 0 i = firstState s (b.s x) d i) ∧
      (∀ l i, 0 < l → l < n → i < d → r.guess l i =
        if (b.s c).getLsbD 57 ∧ l - 1 < b.rxN ∧ i < b.rxD then tget 0 b.rxX ((l - 1) * 8 + i) else 0)) ∧
  (∀ (s : State) (t c x : SReg) (nb : BitVec 4) (L : Launch) (w : Workgroup), let b := s.cb
    let d := (b.s c).toNat % 16
    regionOperands s (b.s t) (b.s c) (b.s x) → b.rxLate = none → (b.s c).getLsbD 56 = false → nb ≠ 0 →
    tget? s.launches b.launch = some L → nb.toNat ≤ (L.desc.toNat / 2 ^ 275) % 16 → b.no ≤ nb.toNat →
    tget? s.wgs b.wg = some w → (nb.toNat + 1) * 512 ≤ w.scrSize →
    exec (.rlxBegin t c x nb) s = .next (s.modCb (fun y => { y with
      wait := .rxBegin (b.s t).toNat (b.s c) (b.s x) ((List.range d).map (firstState s (b.s x) d)) nb.toNat
      waitWord := s.cur.word.setWidth 32 }))) ∧
  (∀ (s : State) (d : SReg),
    (s.cb.rx = none ∨ s.cb.held ≠ none →
      exec (.rlxWait d) s = .next (scalarDone s (fun b => b.setS d s.cb.rxout))) ∧
    (s.cb.rx ≠ none → s.cb.held = none →
      exec (.rlxWait d) s = .next (s.modCb (fun b => { b with wait := .region })))) ∧
  (∀ s : State, s.cb.rx = none → exec .rlxAbort s = .next (scalarDone s id)) ∧
  (∀ (s : State) (k : RxBand) (r : Region), s.cb.rx = some k → tget? s.regions k.leader = some r →
    let L := s.band k.leader
    let special := r.seqAt.isSome && (r.seqOvf ||
      (List.range r.nb).any (fun i => (s.band (k.leader + i)).rx.any (fun y => y.ovf != 0)))
    (r.held = true → exec .rlxAbort s =
      .next (scalarDone (closeRegion (setOverflow s L.launch L.ctx special) k.leader 8 (fun t i => r.guess (t + 1) i)) id)) ∧
    (r.held = false → (∃ i, i < r.nb ∧ (s.band (k.leader + i)).inBody = true) →
      exec .rlxAbort s = .next (scalarDone { s with regions := tset s.regions k.leader { r with abort := true } } id)))

/-! ### Traps and handlers (spec/13 R269 to R276, spec/06 R131 to R134) -/

/-- R109, R271, R274, R275: a precise cause of the scalar stream enters the handler with the elected lane alone in CAUSEV, and
changes nothing but the band's handler state.

R271, R274, R91: a precise cause of a lane instruction outside a region's body is recorded in every lane of A, or in the lowest
lane of the fragment when A is empty; the lowest of them is elected. -/
def Obligations.TrapEntry : Prop :=
  (∀ (s : State) (c : Cause), canTrap s → trapTaken s (trapScalar s c) (scalarTrap s c)) ∧
  (∀ (s : State) (c : Cause), canTrap s → s.cb.inBody = false → s.cf.mask ≠ 0 →
    trapTaken s (trapActive s c) (laneTrap s c))

/-- R131, R179, R92: trap and ltrap take their own code as a cause, precise, and an unassigned word takes ILLEGAL_ENCODING in the
stream that fetched it; an ltrap with an empty A goes on.

R276: a cause in handler mode ends the band with DOUBLE_TRAP, and one with no handler to fetch ends it with HANDLER_FETCH: the band is
gone, its launch is to be killed without a replay, and its context's fault ring takes a record of kind 1, or counts a drop; of a band
without an unretired request (R227) nothing else of the other bands changes.

Where a fault record lies is the model's choice: the ring in physical memory from FAULTBASE on (log entry 32), with a head that does
not wrap (log entry 49). -/
def Obligations.UserAndFatalTraps : Prop :=
  (∀ (s : State) (c : BitVec 14), canTrap s →
    trapTaken s (exec (.trap c) s) (scalarTrap s (c.setWidth 9))) ∧
  (∀ (s : State) (c : W32), canTrap s → s.cb.inBody = false → s.act ≠ 0 →
    trapTaken s (exec (.ltrap c) s) (laneTrap s (c.setWidth 9))) ∧
  (∀ (s : State) (c : W32), s.act = 0 → exec (.ltrap c) s = .next (laneDone s id)) ∧
  (∀ s : State, canTrap s → s.cur.lane = false → trapTaken s (exec .illegalEncoding s) (scalarTrap s 0x001)) ∧
  (∀ s : State, canTrap s → s.cur.lane = true → s.cb.inBody = false → s.cf.mask ≠ 0 →
    trapTaken s (exec .illegalEncoding s) (laneTrap s 0x001)) ∧
  (∀ (s : State) (c : Cause), (tget? s.bands s.cur.band).isSome →
    let b := s.cb
    let v := s.vif (b.ctx / 16)
    let quiet : Prop := ∀ r ∈ b.batch, r.retired = true
    let ends (cause : Cause) : Prop := ∃ u, trapScalar s c = .next u ∧ tget? u.bands s.cur.band = none ∧
      (quiet → ∀ k, k ≠ s.cur.band → tget? u.bands k = tget? s.bands k) ∧
      (∀ L, tget? s.launches b.launch = some L → ∃ M, tget? u.launches b.launch = some M ∧ M.dying = some 1) ∧
      (v.faultK ≠ 0 → v.faultHead < 2 ^ v.faultK → (u.vif (b.ctx / 16)).faultHead = v.faultHead + 1) ∧
      (quiet → v.faultK ≠ 0 → v.faultHead < 2 ^ v.faultK → v.faultBase.toNat % 32 = 0 →
        v.faultBase.toNat + 32 * v.faultHead + 32 ≤ 2 ^ 52 →
        ∀ i, i < 32 → u.peek (v.faultBase.toNat + 32 * v.faultHead + i) =
          byteAt (faultEntry (trapPcOf b.pc 0 false false).toNat (s.launchDesc b.launch) b.wgidx.toNat b.tile b.no b.ctx 1
            cause.toNat) i) ∧
      (¬ (v.faultK ≠ 0 ∧ v.faultHead < 2 ^ v.faultK) → (u.vif (b.ctx / 16)).drops = min (2 ^ 32 - 1) (v.drops + 1))
    (b.held ≠ none → ends 0x190) ∧
    (b.held = none → b.errBand.contains (.special 0x018) = false → (b.tvec = 0 ∨ fetchable s b b.tvec.toNat = false) → ends 0x191))

/-- R132, R274: leaving a handler brings s56 to s63 back and resumes the streams: tret.retry at the instruction that TRAPPC names,
tret.skip past it when it raised the cause, and at it when the cause was deferred.

R274: a trap that its handler answers with tret.retry leaves no trace in the program's registers: s1 to s63, the predicates, the
vector registers and both streams' places are as before the trap, but for the results that were under way, which have landed. A
yieldc that has issued its copy waits on; any other wait is withdrawn, and its instruction issues again.

R132, R27: exit ends the band in handler mode, and outside it once the lane stream has drained; until then the band waits. A
band that leads no region and holds no unretired request leaves nothing else changed. -/
def Obligations.HandlerReturnsAndExits : Prop :=
  (∀ (s : State) (h : Held), (tget? s.bands s.cur.band).isSome → s.cb.held = some h → h.kind ≠ .region →
      let b := s.cb
      let left (o : Out) (pc : W64) (f : Band → Band) : Prop := ∃ u, o = .next u ∧ u = { s with bands := u.bands } ∧
        (∀ k, k ≠ s.cur.band → tget? u.bands k = tget? s.bands k) ∧ bankBack b u.cb ∧
        u.cb = f { b with
          sregs := u.cb.sregs, hbank := u.cb.hbank, held := none, pc := pc, wait := h.wait
          errBand := b.errBand.map (fun e => match e with
            | .sreg n => if 56 ≤ n then .bank (n - 56) else .sreg n
            | .bank i => .sreg (56 + i)
            | e => e) }
      let ahead (sig : Option W32) (x : Band) : Band := match x.frag h.slot with
        | some g => x.setFrag h.slot (some { g with pc := g.pc + BitVec.ofNat 64 h.size, lsig := sig.getD g.lsig })
        | none => x
      left (exec .tretRetry s) h.pc id ∧
      (h.kind = .again → left (exec .tretSkip s) h.pc id) ∧
      (h.kind = .plain → h.lane = false → left (exec .tretSkip s) (h.pc + BitVec.ofNat 64 h.size) id) ∧
      (h.kind = .plain → h.lane = true → left (exec .tretSkip s) h.pc (ahead none)) ∧
      (h.kind = .sig → left (exec .tretSkip s) (h.pc + BitVec.ofNat 64 h.size) (fun x => { x with sig := 0xFFFFFFFF })) ∧
      (h.kind = .lsig → left (exec .tretSkip s) h.pc (ahead (some 0xFFFFFFFF)))) ∧
  (∀ (s u v : State) (c : Cause), canTrap s → trapScalar s c = .next u → exec .tretRetry u = .next v →
      (∀ n : SReg, v.cb.s n = s.cb.drain.s n) ∧ v.cb.pc = s.cb.pc ∧ v.cb.held = none ∧
      (∀ n, v.cb.q n = s.cb.drain.q n) ∧ v.cb.preds = s.cb.preds ∧ v.cb.vregs = s.cb.drain.vregs ∧
      v.cb.slot0 = s.cb.slot0 ∧ v.cb.slot1 = s.cb.slot1 ∧ v.cb.run = s.cb.run ∧ v.cb.queue = s.cb.queue ∧
      v.cb.sig = s.cb.sig ∧ v.mem = s.mem ∧ v.wq = s.wq ∧
      v.cb.wait = (match s.cb.wait with | .yieldc true a d => .yieldc true a d | _ => .none)) ∧
  (∀ s : State, s.cb.held ≠ none ∨ s.cb.drained = true →
    ∃ u, exec .exit s = .next u ∧ tget? u.bands s.cur.band = none ∧
      (s.cb.rx = none → (∀ r ∈ s.cb.batch, r.retired = true) →
        u = { s with bands := u.bands } ∧ ∀ k, k ≠ s.cur.band → tget? u.bands k = tget? s.bands k)) ∧
  (∀ s : State, s.cb.held = none → s.cb.drained = false →
    exec .exit s = .next (s.modCb (fun b => { b with wait := .sync })))

/-- R133, R132: in handler mode hget, hgetp and hstat answer a lane's register, predicate or state word, 0 for a dead lane; hput and
hputp write it unless the lane is dead; lflush empties the queue; hkill of a lane that is dead already does nothing.

R128, R132 to R134: what handler mode forbids, and what it alone allows, raises HANDLER_MODE; a lane or a register out of range
raises REG_RANGE.

That a lane or register out of range is found before the mode is the model's reading of the ranks (log entry 41). That bit 11 of hstat
is the fragment's mask as it stood at the trap, also of a lane that hkill has removed since, is the model's choice (log entry 67). -/
def Obligations.HandlerAccess : Prop :=
  (∀ (s : State) (d a b : SReg), laneInRange s a →
    let x := s.cb
    let l := (x.s a).toNat
    let n := (x.s b).toNat
    let alive (v : W64) : W64 := if x.dead.getLsbD l then 0 else v
    (regInRange x false n → x.errV.contains (vkey n l) = false →
      exec (.hgetN32 d a b) s = .next (scalarDone s (fun y => y.setS d (alive ((x.v n l).setWidth 64))))) ∧
    (regInRange x true n → x.errV.contains (vkey n l) = false → x.errV.contains (vkey (n + 1) l) = false →
      exec (.hgetN64 d a b) s = .next (scalarDone s (fun y => y.setS d (alive (x.v (n + 1) l ++ x.v n l))))) ∧
    (n < 8 → x.errP.contains (vkey n l) = false →
      exec (.hgetp d a b) s = .next (scalarDone s (fun y => y.setS d (alive (if x.p n l then 1 else 0))))) ∧
    (regInRange x false n → exec (.hputN32 d a b) s = .next (scalarDone s (fun y =>
      if x.dead.getLsbD l then y else y.setV n l ((x.s d).setWidth 32)))) ∧
    (regInRange x true n → exec (.hputN64 d a b) s = .next (scalarDone s (fun y =>
      if x.dead.getLsbD l then y
      else (y.setV n l ((x.s d).extractLsb' 0 32)).setV (n + 1) l ((x.s d).extractLsb' 32 32)))) ∧
    (n < 8 → exec (.hputp d a b) s = .next (scalarDone s (fun y =>
      if x.dead.getLsbD l then y
      else y.setP n (BitVec.ofNat 128 (2 ^ l)) (if (x.s d).getLsbD 0 then BitVec.ofNat 128 (2 ^ l) else 0))))) ∧
  (∀ (s : State) (d a : SReg) (h : Held), laneInRange s a → s.cb.held = some h →
    exec (.hstat d a) s = .next (scalarDone s (fun y => y.setS d (laneWord s.cb h (s.cb.s a).toNat)))) ∧
  (∀ s : State, s.cb.held ≠ none → exec .lflush s = .next (scalarDone s (fun b => { b with queue := [] }))) ∧
  (∀ s : State, laneInRange s s.cur.x.src →
    let l := (s.cb.s s.cur.x.src).toNat
    (s.cb.dead.getLsbD l = true → exec .hkill s = .next (scalarDone s id)) ∧
    (s.cb.dead.getLsbD l = false → l < 128 → ∃ u, exec .hkill s = .next u ∧
      u.cb.dead = s.cb.dead ||| BitVec.ofNat 128 (2 ^ l) ∧ u.cb.sregs = s.cb.sregs ∧ u.cb.qregs = s.cb.qregs ∧
      u.cb.vregs = s.cb.vregs ∧ u.cb.preds = s.cb.preds ∧ u.cb.exited = s.cb.exited ∧ u.cb.pc = s.cb.pc + 4)) ∧
  (∀ (s : State) (d a b : SReg), s.cb.held = none →
    exec .tretRetry s = trapScalar s 0x1C3 ∧ exec .tretSkip s = trapScalar s 0x1C3 ∧
    exec .lflush s = trapScalar s 0x1C3 ∧
    ((s.cb.s s.cur.x.src).toNat < s.cb.lanes → exec .hkill s = trapScalar s 0x1C3) ∧
    ((s.cb.s a).toNat < s.cb.lanes → exec (.hstat d a) s = trapScalar s 0x1C3 ∧
      (regInRange s.cb false (s.cb.s b).toNat →
        exec (.hgetN32 d a b) s = trapScalar s 0x1C3 ∧ exec (.hputN32 d a b) s = trapScalar s 0x1C3) ∧
      (regInRange s.cb true (s.cb.s b).toNat →
        exec (.hgetN64 d a b) s = trapScalar s 0x1C3 ∧ exec (.hputN64 d a b) s = trapScalar s 0x1C3) ∧
      ((s.cb.s b).toNat < 8 → exec (.hgetp d a b) s = trapScalar s 0x1C3 ∧ exec (.hputp d a b) s = trapScalar s 0x1C3))) ∧
  (∀ (s : State) (t c x : SReg) (nb : BitVec 4) (i j : BitVec 20) (off : BitVec 8), s.cb.held ≠ none →
    exec (.lpost i) s = trapScalar s 0x1C3 ∧ exec .lsync s = trapScalar s 0x1C3 ∧
    exec (.tgtBind j) s = trapScalar s 0x1C3 ∧ exec (.yieldc t c x off) s = trapScalar s 0x1C3 ∧
    (s.cb.rx = none → exec (.rlxBegin t c x nb) s = trapScalar s 0x1C3) ∧
    (s.cb.rx ≠ none → exec (.rlxBegin t c x nb) s = trapScalar s 0x146)) ∧
  (∀ s : State, s.cb.lanes ≤ (s.cb.s s.cur.x.src).toNat → exec .hkill s = trapScalar s 0x003) ∧
  (∀ (s : State) (d a b : SReg), let n := (s.cb.s b).toNat
    (¬ regInRange s.cb false n →
      exec (.hgetN32 d a b) s = trapScalar s 0x003 ∧ exec (.hputN32 d a b) s = trapScalar s 0x003) ∧
    (¬ regInRange s.cb true n →
      exec (.hgetN64 d a b) s = trapScalar s 0x003 ∧ exec (.hputN64 d a b) s = trapScalar s 0x003) ∧
    (8 ≤ n → exec (.hgetp d a b) s = trapScalar s 0x003 ∧ exec (.hputp d a b) s = trapScalar s 0x003)) ∧
  (∀ (s : State) (d a b : SReg), s.cb.lanes ≤ (s.cb.s a).toNat →
    exec (.hgetN32 d a b) s = trapScalar s 0x003 ∧ exec (.hgetN64 d a b) s = trapScalar s 0x003 ∧
    exec (.hgetp d a b) s = trapScalar s 0x003 ∧ exec (.hstat d a) s = trapScalar s 0x003 ∧
    exec (.hputN32 d a b) s = trapScalar s 0x003 ∧ exec (.hputN64 d a b) s = trapScalar s 0x003 ∧
    exec (.hputp d a b) s = trapScalar s 0x003)

/-! ### Lanes: arithmetic (spec/07) -/

/-- R135 to R144, R235: a lane integer, logic or bit-field instruction writes the result of its row in the lanes of A, extended
to the register, with the row's latency; the result has zero tangent. Lanes outside A, every other register, memory and
the scalar registers are as before. -/
def Obligations.LaneIntegers : Prop :=
  ∀ (s : State) (i : Instr) (r : LaneRule), i.wf = true → integerRule i = some r → r.holds s i

/-- R147 to R149, R235, R71: a lane floating instruction writes its exact result rounded once; it writes the tangents of its
rule where a region's body carries them, and a ±Inf or NaN result counts under SCALEDG. -/
def Obligations.LaneFloats : Prop :=
  ∀ (s : State) (i : Instr) (r : LaneRule), i.wf = true → floatRule i = some r → r.holds s i

/-- R145, R154, R179, R235: moves, lane numbers, random numbers and recorded causes; sel takes va where its predicate, negated or
not, reads 1, and vb elsewhere, tangents included.

R146, R150, R170: the instructions with a predicate destination write it in the lanes of A; a write to p0 is discarded. -/
def Obligations.LaneMovesAndPredicates : Prop :=
  (∀ (s : State) (i : Instr) (r : LaneRule), i.wf = true → moveRule i = some r → r.holds s i) ∧
  (∀ (s : State) (o : SelOp), (Instr.sel o).wf = true → steadyP s o.p → (selectRule o).holds s (.sel o)) ∧
  (∀ (s : State) (d : VReg) (p : PReg), steadyP s p →
    (given .n32 d (some 2) (fun b l => if b.p p.toNat l then 1 else 0)).holds s (.pget d p)) ∧
  (∀ s : State,
    let b := s.cb
    (∀ (o : CmpOp), o.ok Ty.isInt Cond.intOk = true → steady s o.ty o.a → steady s o.ty o.b → steadyP s o.p →
      ∃ t, exec (.icmp o) s = .next t ∧ predicateSet s t o.p (if o.ty.wide then 4 else 2) (fun l =>
        holdsFor o.cond (integerOf o.ty (patternOf b o.ty o.a l)) (integerOf o.ty (patternOf b o.ty o.b l)))) ∧
    (∀ (o : CmpI), o.ok Ty.isInt Cond.intOk = true → steady s o.ty o.a → steadyP s o.p →
      ∃ t, exec (.icmpImm o) s = .next t ∧ predicateSet s t o.p (if o.ty.wide then 4 else 2) (fun l =>
        holdsFor o.cond (integerOf o.ty (patternOf b o.ty o.a l)) (integerOf o.ty (immediateOf o.ty o.imm)))) ∧
    (∀ (o : CmpOp), o.ok Ty.isFp (fun _ => true) = true → steady s o.ty o.a → steady s o.ty o.b → steadyP s o.p →
      ∃ t, exec (.fcmp o) s = .next t ∧ predicateSet s t o.p (if o.ty.wide then 4 else 2) (fun l =>
        floatHolds o.ty o.cond (patternOf b o.ty o.a l) (patternOf b o.ty o.b l))) ∧
    (∀ (o : CmpI), o.ok Ty.isFp (fun _ => true) = true → steady s o.ty o.a → steadyP s o.p →
      ∃ t, exec (.fcmpImm o) s = .next t ∧ predicateSet s t o.p (if o.ty.wide then 4 else 2) (fun l =>
        floatHolds o.ty o.cond (patternOf b o.ty o.a l) (immediateOf o.ty o.imm))) ∧
    (∀ (o : PlogOp), steadyP s o.a → steadyP s o.b → steadyP s o.d →
      ∃ t, exec (.plog o) s = .next t ∧ predicateSet s t o.d 2 (fun l =>
        o.tt.getLsbD ((if b.p o.a.toNat l then 2 else 0) + (if b.p o.b.toNat l then 1 else 0)))) ∧
    (∀ (ty : Ty) (p : PReg) (a : VReg), (Instr.ptest ty p a).wf = true → steady s ty (.v a) → steadyP s p →
      ∃ t, exec (.ptest ty p a) s = .next t ∧ predicateSet s t p 2 (fun l => patternOf b ty (.v a) l != 0)))

/-! ### Lanes: memory and cross-lane (spec/08) -/

/-- R157 to R160: with every lane of A past its check, a lane load takes each lane's bytes to the scoreboard, extended as the type
says, and ends the back-off; ldy polls with the lowest lane of A; a store writes each lane's low bytes, higher lanes over
lower ones. Every other byte of memory and every other register is as before.

That an access is performed at once is one of the behaviours that the ordering rules allow, and the model's choice (log entry
5). -/
def Obligations.LaneAccesses : Prop :=
  (∀ (s : State) (o : LdOp), o.ok = true → steadyAddr s o.m → lanesOk s o.m false false (bitsOf o.ty / 8) →
    ∃ (t : State) (bs : Nat → List Byte), exec (.laneLd o) s = .next t ∧ cachesOnly s t ∧
      (∀ l, s.act.getLsbD l = true →
        loaded s s.cb.agent (pastTile o.sc) (addressOf s.cb o.m l) (bitsOf o.ty / 8) (bs l)) ∧
      (landable s o.ty o.d → laneVariable { unpolled s with tiles := t.tiles, dies := t.dies, nonce := t.nonce } t
        (laneWrites s o.ty o.d (fun l => leNat (bitsOf o.ty / 8) (bs l)) (fun _ _ => 0)) false)) ∧
  (∀ (s : State) (o : LdyOp), o.ok = true → steadyAddr s o.m → lanesOk s o.m false true 8 →
    ∃ (t : State) (bs : Nat → List Byte), exec (.laneLdy o) s = .next t ∧ cachesOnly s t ∧
      (∀ l, s.act.getLsbD l = true → loaded s s.cb.agent (pastTile o.sc) (addressOf s.cb o.m l) 8 (bs l)) ∧
      let polled : State := match activeLanes s with
        | [] => s
        | l :: _ => s.modCb (ldyPolled (BitVec.ofNat 64 (addressOf s.cb o.m l)) (BitVec.ofNat 64 (leNat 8 (bs l)))
            (isLinked s s.cb.agent (addressOf s.cb o.m l)))
      (landable s .n64 o.d → laneVariable { polled with tiles := t.tiles, dies := t.dies, nonce := t.nonce } t
        (laneWrites s .n64 o.d (fun l => leNat 8 (bs l)) (fun _ _ => 0)) false)) ∧
  (∀ (s : State) (o : StOp), o.ok Ty.isIntFp = true → steadyAddr s o.m → steady s o.ty o.data →
    lanesOk s o.m true false (bitsOf o.ty / 8) →
    ∃ t, exec (.laneSt o) s = .next t ∧ cachesOnly s t ∧
      storedLanes s t (addressOf s.cb o.m) (bitsOf o.ty / 8) (patternOf s.cb o.ty o.data) ∧
      t = withMemory (laneDone s id) t)

/-- R161, R162, R78, R71: atomics and reductions, with every lane of A past its check. The lanes' steps come one after another in
rising order; an atomic gives each lane its old value; every place that no lane names keeps its byte; an f32 ±Inf or NaN
counts under SCALEDG, of an atomic once the old value has landed.

That an access is performed at once is one of the behaviours that the ordering rules allow, and the model's choice (log entry
5). That an atomic ends a back-off, as R41 and R160 say of loads, is the model's choice too (log entry 67). -/
def Obligations.LaneAtomics : Prop :=
  (∀ (s : State) (i : Instr) (fn : AtomFn) (o : AtomOp) (k : Nat → Nat), atomicOf i = some (fn, o) → i.wf = true →
    steadyAddr s o.m → steady s o.ty (.v o.c) → steady s o.ty (.v o.d) →
    lanesOk s o.m true true (bitsOf o.ty / 8) →
    (∀ l, s.act.getLsbD l = true → placed s s.cb.agent true (addressOf s.cb o.m l) 0 (k l) ∧
      ∀ i, i < bitsOf o.ty / 8 → ¬ pooled s (k l + i)) →
    let f (l old : Nat) : Nat :=
      atomicNew o.ty old (patternOf s.cb o.ty (.v o.c) l) (patternOf s.cb o.ty (.v o.d) l) fn
    ∃ t olds, exec i s = .next t ∧ cachesOnly s t ∧ atomicsDone s t k (bitsOf o.ty / 8) f olds ∧
      let special := atomicSpecial o.ty s f olds
      (landable s o.ty o.d →
        laneVariable (withMemory (unpolled (if s.cb.inBody then flagged s special s.act else s)) t) t
          (laneWrites s o.ty o.d (fun l => (((activeLanes s).zip olds).find? (fun e => e.1 == l)).elim 0 (·.2))
            (fun _ _ => 0)) (special && !s.cb.inBody))) ∧
  (∀ (s : State) (i : Instr) (fn : AtomFn) (o : StOp) (k : Nat → Nat), reductionOf i = some (fn, o) → i.wf = true →
    steadyAddr s o.m → steady s o.ty o.data → lanesOk s o.m true true (bitsOf o.ty / 8) →
    (∀ l, s.act.getLsbD l = true → placed s s.cb.agent true (addressOf s.cb o.m l) 0 (k l) ∧
      ∀ i, i < bitsOf o.ty / 8 → ¬ pooled s (k l + i)) →
    let f (l old : Nat) : Nat := atomicNew o.ty old (patternOf s.cb o.ty o.data l) 0 fn
    ∃ t olds, exec i s = .next t ∧ cachesOnly s t ∧ atomicsDone s t k (bitsOf o.ty / 8) f olds ∧
      t = withMemory (laneDone (flagged s (atomicSpecial o.ty s f olds) s.act) id) t)

/-- R165 to R169: ballots, votes, shuffles, permutes and reductions over A. -/
def Obligations.CrossLane : Prop :=
  ∀ (s : State) (p : PReg), let b := s.cb
    let n := (pickedLanes s p).length
    (steadyP s p →
      (∀ d : VReg, (given .n32 d (some 4) (fun _ l =>
        ((List.range 32).map (fun i => if (pickedLanes s p).contains (l / 32 * 32 + i) then 2 ^ i else 0)).sum)).holds s
          (.ballot (.v d) p)) ∧
      (∀ (d : SReg) (h : Bool), exec (.ballot (.s d h) p) s = .next (laneScalar s d (BitVec.ofNat 64
        ((List.range 64).map (fun i =>
          if (pickedLanes s p).contains ((if h then 64 else 0) + i) then 2 ^ i else 0)).sum))) ∧
      (∀ d : SReg, exec (.voteCnt d p) s = .next (laneScalar s d (BitVec.ofNat 64 n))) ∧
      (∀ q : QReg, exec (.voteAny q p) s = .next (laneTruth s q (decide (0 < n)))) ∧
      (∀ q : QReg, exec (.voteAll q p) s = .next (laneTruth s q (decide (n = (activeLanes s).length))))) ∧
    (∀ o : VoteUniOp, o.ok = true → steady s o.ty (.v o.a) → exec (.voteUni o) s = .next (laneTruth s o.q
      ((activeLanes s).all (fun l => (activeLanes s).all (fun m =>
        patternOf b o.ty (.v o.a) l == patternOf b o.ty (.v o.a) m))))) ∧
    (∀ o : ShflOp, o.ok = true → steady s (elementTy o.wide) (.v o.a) → steady s .n32 o.b →
      landable s (elementTy o.wide) o.d → steadyP s o.f →
      let ty := elementTy o.wide
      let from_ (l : Nat) : Option Nat := shuffleFrom o.mode b.lanes l (patternOf b .n32 o.b l)
      ∃ t, exec (.shfl o) s = .next t ∧ elementsMoved s t o.wide o.d o.f
        (fun l => some (match from_ l with
          | none => patternOf b ty (.v o.a) l
          | some m => if b.dead.getLsbD m then 0 else patternOf b ty (.v o.a) m))
        (fun l => (from_ l).any (fun m => !b.dead.getLsbD m))) ∧
    (∀ o : PermOp, o.ok = true → steady s (elementTy o.wide) (.v o.a) → steady s .n32 o.b →
      landable s (elementTy o.wide) o.d → steadyP s o.f →
      ∃ t, exec (.perm o) s = .next t ∧ elementsMoved s t o.wide o.d o.f
        (fun l => (namedBy s o.b l).map (patternOf b (elementTy o.wide) (.v o.a)))
        (fun l => (activeLanes s).contains (patternOf b .n32 o.b l) && namedBy s o.b (patternOf b .n32 o.b l) == some l)) ∧
    (∀ (o : LredOp), o.ok = true → steady s o.ty (.v o.a) →
      let v := reduced o.fn o.ty o.rm ((activeLanes s).map (patternOf b o.ty (.v o.a)))
      let special := o.ty.isFp && (valueOf o.ty v).special
      let held (x : Bool) : State := if s.cb.inBody then flagged s x s.act else s
      (∀ d, o.d = .v d → ∃ t, exec (.lred o) s = .next t ∧ (landable s o.ty d →
        let x := special && decide (s.act ≠ 0)
        laneVariable (held x) t (laneWrites s o.ty d (fun _ => v) (fun _ _ => 0)) (x && !s.cb.inBody))) ∧
      (∀ d, o.d = .s d → exec (.lred o) s = .next (laneCounted (held special) d
        (if o.ty.signed then BitVec.ofInt 64 (integerOf o.ty v) else BitVec.ofNat 64 v) (special && !s.cb.inBody))))

/-! ### Numbers (spec/03) -/

/-- R55, R51, R54: a finite value other than 0 is rounded once by its mode: unchanged where the format holds it, else to the
neighbour of the mode, with the overflow column at the largest finite number; a zero keeps its sign, an infinity stays, and a
NaN becomes the canonical one.

R147, R56: the sums, products, quotients, roots and integral values that the floating instructions round are the exact ones,
with the signs of exact zeros and the special values of the rule. -/
def Obligations.RoundingAndExactArithmetic : Prop :=
  (∀ f ∈ formats, ∀ rm : Rm,
    (∀ (neg : Bool) (m : Nat) (e : Int), m ≠ 0 → roundsTo f rm neg m e (fround f rm (.fin neg m e))) ∧
    (∀ (neg : Bool) (e : Int), fround f rm (.fin neg 0 e) = signPattern f neg) ∧
    (∀ neg : Bool, fround f rm (.inf neg) = signPattern f neg + infPattern f) ∧
    fround f rm .nan = infPattern f + 2 ^ (f.mb - 1)) ∧
  (∀ (rm : Rm) (a b : Bool) (m n : Nat) (e k : Int), ∃ c r g, faddV rm (.fin a m e) (.fin b n k) = .fin c r g ∧
    (∀ u, u ≤ e → u ≤ k → u ≤ g → units u c r g = units u a m e + units u b n k) ∧
    (r = 0 → c = if a = b then a else decide (rm = .rdn))) ∧
  (∀ (a b : Bool) (m n : Nat) (e k : Int), ∃ r g, fmulV (.fin a m e) (.fin b n k) = .fin (xor a b) r g ∧
    ∀ u v, u ≤ e → v ≤ k → u + v ≤ g → units (u + v) (xor a b) r g = units u a m e * units v b n k) ∧
  (∀ (a b : Bool) (m n : Nat) (e k : Int), n ≠ 0 → ∃ q u, fdivV (.fin a m e) (.fin b n k) = .fin (xor a b) q u ∧
    quotientOf m e n k q u) ∧
  (∀ (m : Nat) (e : Int), 0 < m → m < 2 ^ 64 → ∃ q u, fsqrtV (.fin false m e) = .fin false q u ∧ rootOf m e q u) ∧
  (∀ (rm : Rm) (a : Bool) (m : Nat) (e : Int),
    (0 ≤ e → frndV rm (.fin a m e) = .fin a m e) ∧
    (e < 0 → ∃ r, frndV rm (.fin a m e) = .fin a r 0 ∧
      let d := 2 ^ (-e).toNat
      let p := m / d
      r = if m % d = 0 then p else
        match rm with
        | .rtz => p
        | .rup => if a then p else p + 1
        | .rdn => if a then p + 1 else p
        | .rto => if p % 2 = 1 then p else p + 1
        | .rne => if 2 * (m % d) < d then p else if d < 2 * (m % d) then p + 1 else if p % 2 = 0 then p else p + 1)) ∧
  (∀ (rm : Rm) (a b : Bool) (m : Nat) (e : Int) (x : FVal),
    faddV rm .nan x = .nan ∧ faddV rm x .nan = .nan ∧ fmulV .nan x = .nan ∧ fmulV x .nan = .nan ∧
    fdivV .nan x = .nan ∧ fdivV x .nan = .nan ∧ fsqrtV .nan = .nan ∧ frndV rm .nan = .nan ∧
    faddV rm (.inf a) (.inf b) = (if a = b then .inf a else .nan) ∧
    faddV rm (.inf a) (.fin b m e) = .inf a ∧ faddV rm (.fin b m e) (.inf a) = .inf a ∧
    fmulV (.inf a) (.inf b) = .inf (xor a b) ∧
    fmulV (.inf a) (.fin b m e) = (if m = 0 then .nan else .inf (xor a b)) ∧
    fmulV (.fin b m e) (.inf a) = (if m = 0 then .nan else .inf (xor b a)) ∧
    fdivV (.inf a) (.inf b) = .nan ∧ fdivV (.inf a) (.fin b m e) = .inf (xor a b) ∧
    (∃ k, fdivV (.fin b m e) (.inf a) = .fin (xor b a) 0 k) ∧
    (∀ k, fdivV (.fin a m e) (.fin b 0 k) = if m = 0 then .nan else .inf (xor a b)) ∧
    (∃ k, fsqrtV (.fin a 0 e) = .fin a 0 k) ∧ (m ≠ 0 → fsqrtV (.fin true m e) = .nan) ∧
    fsqrtV (.inf a) = (if a then .nan else .inf false) ∧ frndV rm (.inf a) = .inf a)

/-- R152, R153, R57, R63: a conversion rounds the exact value of its source to its destination, saturating to an integer type and
to a bit-plane number, with NaN as 0 there; a lane of A whose format word is not valid traps FORMAT_BAD and then no lane
writes.

R151: an approximated function completes with one mapping of bits to bits, which gives the exact and special results of its
row; f16 and bf16 go through f32. The values between are the model's (log entry 11). That a conversion has a variable latency when either
of its types has 64 bits is the model's choice (R139; log entry 67). -/
def Obligations.ConversionsAndApproximations : Prop :=
  (∀ (s : State) (o : CvtOp), o.ok = true →
    ((∀ f, o.fmt = some f → ∀ l, s.act.getLsbD l = true → planesOk (patternOf s.cb .n32 f l)) →
      (∀ f, o.fmt = some f → steady s .n32 f) → (convertRule o).holds s (.cvt o)) ∧
    (∀ f, o.fmt = some f → steady s .n32 f →
      ∀ bad : List Nat, (∀ l, l ∈ bad ↔ l ∈ activeLanes s ∧ ¬ planesOk (patternOf s.cb .n32 f l)) →
      bad ≠ [] → bad.Pairwise (· < ·) →
      exec (.cvt o) s = trapLanes s (bad.map (fun l => (l, (0x042 : Cause)))))) ∧
  (∀ (s : State) (i : Instr) (r : LaneRule), i.wf = true → approximated i = some r → r.holds s i) ∧
  (∀ (fn : Config.Approx) (ty : Ty) (x : Nat), ty = .f16 ∨ ty = .bf16 →
    approxB ty fn x = roundedTo ty .rne (valueOf .f32 (approxB .f32 fn (roundedTo .f32 .rne (valueOf ty x))))) ∧
  (∀ (fn : Config.Approx) (x : Nat), valueOf .f32 x = .nan → approxB .f32 fn x = nanT) ∧
  (let f (fn : Config.Approx) (x r : Nat) : Prop := approxB .f32 fn x = r
   let plusInf := 0x7F800000
   let minusInf := 0xFF800000
   f .exp 0 oneT ∧ f .exp (2 ^ 31) oneT ∧ f .exp minusInf 0 ∧ f .exp plusInf plusInf ∧
   (∀ x m e, valueOf .f32 x = .fin false m e → magLt 8872284 0 (100000 * m) e → f .exp x plusInf) ∧
   (∀ (x : Nat) (k : Int), -149 ≤ k → k ≤ 127 → x = roundedTo .f32 .rne (.fin (decide (k < 0)) k.natAbs 0) →
     f .exp2 x (roundedTo .f32 .rne (.fin false 1 k))) ∧ f .exp2 minusInf 0 ∧ f .exp2 plusInf plusInf ∧
   (∀ x m e, valueOf .f32 x = .fin false m e → magLe 128 0 m e → f .exp2 x plusInf) ∧
   f .log oneT 0 ∧ f .log 0 minusInf ∧ f .log (2 ^ 31) minusInf ∧ f .log plusInf plusInf ∧ f .log minusInf nanT ∧
   (∀ x m e, valueOf .f32 x = .fin true m e → m ≠ 0 → f .log x nanT ∧ f .log2 x nanT ∧ f .rsqrt x nanT) ∧
   (∀ k : Int, -149 ≤ k → k ≤ 127 →
     f .log2 (roundedTo .f32 .rne (.fin false 1 k)) (roundedTo .f32 .rne (.fin (decide (k < 0)) k.natAbs 0))) ∧
   f .log2 0 minusInf ∧ f .log2 (2 ^ 31) minusInf ∧ f .log2 plusInf plusInf ∧ f .log2 minusInf nanT ∧
   f .tanh 0 0 ∧ f .tanh (2 ^ 31) (2 ^ 31) ∧ f .tanh plusInf oneT ∧ f .tanh minusInf (oneT + 2 ^ 31) ∧
   (∀ x, x < 2 ^ 31 → valueOf .f32 x ≠ .nan → approxB .f32 .tanh (x + 2 ^ 31) = approxB .f32 .tanh x + 2 ^ 31) ∧
   f .sig 0 0x3F000000 ∧ f .sig (2 ^ 31) 0x3F000000 ∧ f .sig minusInf 0 ∧ f .sig plusInf oneT ∧
   f .rsqrt 0 plusInf ∧ f .rsqrt (2 ^ 31) minusInf ∧ f .rsqrt plusInf 0 ∧ f .rsqrt minusInf nanT ∧
   (∀ k : Int, -74 ≤ k → k ≤ 63 →
     f .rsqrt (roundedTo .f32 .rne (.fin false 1 (2 * k))) (roundedTo .f32 .rne (.fin false 1 (-k)))) ∧
   f .sin 0 0 ∧ f .sin (2 ^ 31) (2 ^ 31) ∧ f .cos 0 oneT ∧ f .cos (2 ^ 31) oneT ∧
   f .sin plusInf nanT ∧ f .sin minusInf nanT ∧ f .cos plusInf nanT ∧ f .cos minusInf nanT)

/-! ### Lanes: control (spec/08 R171 to R179) -/

/-- R172, R173, R175, R29: branches and calls of the lanes, direct and through the table of the block. A fragment that does not
divide moves whole; otherwise the pieces take slots and spill above the entry that the instruction pushes.

R171 to R173, R175, R29: what stops a lane transfer: a target outside the lane section, a table that the block did not
capture, an index at or beyond the count of its entries, in the lanes that hold it, and a stack that would hold more than
256 entries. Nothing has moved then. -/
def Obligations.LaneTransfers : Prop :=
  (∀ s : State, s.cf.mask ≠ 0 →
    let b := s.cb
    let f := s.cf.mask
    let rest := f &&& ~~~s.act
    let next : W64 := s.cf.pc + 12
    (∀ x : W32, s.act = 0 → exec (.bra x) s = .next (laneMoved s next) ∧ exec (.lcall x) s = .next (laneMoved s next)) ∧
    (∀ x : W32, s.act = f → s.laneOk b (laneLabel s x).toNat = true →
      exec (.bra x) s = .next (laneMoved s (laneLabel s x))) ∧
    (∀ (x : W32) (sp : Split), s.act ≠ 0 → rest ≠ 0 → s.laneOk b (laneLabel s x).toNat = true →
      readSplit s b = .ok sp →
      let u := piecesPut { sp with recs := splitEntry f :: sp.recs } s.cur.slot (goingOn s) [(rest, next), (s.act, laneLabel s x)]
      stackTakes s u → exec (.bra x) s = .next (putSplit s s.cur.band sp u)) ∧
    (∀ (x : W32) (sp : Split), s.act ≠ 0 → s.laneOk b (laneLabel s x).toNat = true → readSplit s b = .ok sp →
      let u := piecesPut { sp with recs := callEntry f rest next.toNat :: sp.recs } s.cur.slot (goingOn s)
        [(s.act, laneLabel s x)]
      stackTakes s u → exec (.lcall x) s = .next (putSplit s s.cur.band sp u)) ∧
    (∀ (a : Src) (x : W32) (t : TgtTable), steady s .n32 a → tableOf s x = some t →
      (∀ l ∈ activeLanes s, patternOf b .n32 a l < t.entries.length) →
      let ps := somePieces [(rest, next)] ++ tableGroups s a t.entries
      (∀ p, ps = [p] → exec (.bri a x) s = .next (laneMoved s p.2)) ∧
      (∀ sp : Split, ps.length ≠ 1 → readSplit s b = .ok sp →
        let u := piecesPut { sp with recs := splitEntry f :: sp.recs } s.cur.slot (goingOn s) ps
        stackTakes s u → exec (.bri a x) s = .next (putSplit s s.cur.band sp u)) ∧
      (s.act = 0 → exec (.lcalli a x) s = .next (laneMoved s next)) ∧
      (∀ sp : Split, s.act ≠ 0 → readSplit s b = .ok sp →
        let u := piecesPut { sp with recs := callEntry f rest next.toNat :: sp.recs } s.cur.slot (goingOn s)
          (tableGroups s a t.entries)
        stackTakes s u → exec (.lcalli a x) s = .next (putSplit s s.cur.band sp u)))) ∧
  (∀ s : State,
    (∀ x : W32, s.act ≠ 0 → s.laneOk s.cb (laneLabel s x).toNat = false →
      exec (.bra x) s = trapActive s 0x1C1 ∧ exec (.lcall x) s = trapActive s 0x1C1) ∧
    (∀ (a : Src) (x : W32), tableOf s x = none →
      exec (.bri a x) s = trapActive s 0x1C2 ∧ exec (.lcalli a x) s = trapActive s 0x1C2) ∧
    (∀ (a : Src) (x : W32) (t : TgtTable), steady s .n32 a → tableOf s x = some t →
      let bad := (activeLanes s).filter (fun l => decide (t.entries.length ≤ patternOf s.cb .n32 a l))
      bad ≠ [] →
      exec (.bri a x) s = trapLanes s (bad.map (fun l => (l, (0x1C1 : Cause)))) ∧
      exec (.lcalli a x) s = trapLanes s (bad.map (fun l => (l, (0x1C1 : Cause))))) ∧
    (∀ (x : W32) (sp : Split), s.act ≠ 0 → s.laneOk s.cb (laneLabel s x).toNat = true → readSplit s s.cb = .ok sp →
      let rest := s.cf.mask &&& ~~~s.act
      (256 < (sp.recs.map (fun r => if r.kind = 1 then 2 else 3)).sum + 3 → exec (.lcall x) s = trapActive s 0x0C4) ∧
      (rest ≠ 0 → 256 < (sp.recs.map (fun r => if r.kind = 1 then 2 else 3)).sum +
          (if sp.s0.isSome ∧ sp.s1.isSome then 5 else 3) →
        exec (.bra x) s = trapActive s 0x0C4)))

/-- R174 to R177, R30, R31, R324: a join or a return at the entry that matches the fragment arrives there; a join that none matches
passes; lend and lexit take their lanes out of every entry. A record with a wrong KIND that this pops raises SIG_MASK instead. -/
def Obligations.LaneArrivals : Prop :=
  (∀ (s : State) (sp : Split) (i : Nat) (r : Rec), readSplit s s.cb = .ok sp → entryFor sp s.cf.mask i r →
    (sp.frag s.cur.slot).isSome →
    (r.kind = 3 → splitChanges s s sp (arrivedAt s sp i r { r with arrived := r.arrived ||| s.cf.mask }) (exec .lret s)) ∧
    (r.kind ≠ 3 → exec .lret s = trapLanes s [(((List.range 128).filter (fun l => s.cf.mask.getLsbD l)).headD 0, 0x18A)]) ∧
    ∀ x : W32, let a := (laneLabel s x).toNat
      (r.kind = 2 → r.addrv = false ∨ r.addr = a → s.laneOk s.cb a = true →
        splitChanges s s sp (arrivedAt s sp i r { r with
          arrived := r.arrived ||| s.cf.mask
          addrv := true
          addr := a
          lim := if r.run then r.lim else (match s.cb.run with | some q => q.blk.jto | none => 0)
          run := true }) (exec (.join x) s)) ∧
      (¬ (r.kind = 2 ∧ (r.addrv = false ∨ r.addr = a)) → exec (.join x) s = .next (laneMoved s (s.cf.pc + 12)))) ∧
  (∀ (s : State) (sp : Split), readSplit s s.cb = .ok sp → (∀ i r, ¬ entryFor sp s.cf.mask i r) →
    exec .lret s = trapLanes s [(((List.range 128).filter (fun l => s.cf.mask.getLsbD l)).headD 0, 0x18A)] ∧
    ∀ x : W32, exec (.join x) s = .next (laneMoved s (s.cf.pc + 12))) ∧
  (∀ (s : State) (sp : Split), readSplit s s.cb = .ok sp →
    splitChanges s (s.modCb (fun b => { b with
        run := b.run.map (fun r => { r with atLend := r.atLend ||| s.cf.mask })
        rx := if b.inBody then b.rx.map (fun k => { k with lend := s.cf.pc }) else b.rx })) sp
      { withoutLanes sp s.cf.mask with hold := max sp.hold (goingOn s).next }.settle (exec .lend s) ∧
    let u := (laneMoved s (s.cf.pc + 12)).modCb (fun b => { b with exited := b.exited ||| s.act })
    let v : Split := { sp with s0 := u.cb.slot0, s1 := u.cb.slot1 }
    splitChanges s u v (withoutLanes v s.act).settle (exec .lexit s))

/-- R29 to R31, R289: dividing, arriving (at an entry where none of the fragment's lanes stands yet), leaving and settling keep every
lane where it stood once: in one slot, in one spilled fragment, or at one entry. After settling no entry is complete or empty, and a free slot finds no spilled fragment on top. -/
def Obligations.LanesAreConserved : Prop :=
  (∀ sp : Split, orderly sp → let t := sp.settle
    (∀ l, standing t l = standing sp l) ∧ orderly t ∧
    (∀ r ∈ t.recs, r.kind ≠ 1 → r.arrived ≠ r.expected ∧ r.expected ≠ 0) ∧
    (t.s0 = none ∨ t.s1 = none → ∀ r rs, t.recs = r :: rs → r.kind ≠ 1)) ∧
  (∀ (sp : Split) (slot : Nat) (f : Frag) (ps : List (Mask × W64)), slot < 2 → sp.frag slot = some f → ps ≠ [] →
    (∀ l, (ps.filter (fun p => p.1.getLsbD l)).length = if f.mask.getLsbD l then 1 else 0) →
    ∀ l, standing (piecesPut sp slot f ps) l = standing sp l) ∧
  (∀ (sp : Split) (m : Mask) (l : Nat), standing (withoutLanes sp m) l = if m.getLsbD l then 0 else standing sp l) ∧
  (∀ (s : State) (sp : Split) (i : Nat) (old r : Rec) (f : Frag), orderly sp → s.cur.slot < 2 → sp.frag s.cur.slot = some f →
    f.mask = s.cf.mask → entryFor sp f.mask i old → f.mask &&& old.arrived = 0 → r.kind = old.kind → r.expected = old.expected →
    r.arrived = old.arrived ||| f.mask →
    let t := arrivedAt s sp i old r
    (∀ l, standing t l = standing sp l) ∧ orderly t)

/-- R324, R325, R289, spec/02 R27: what changing a split leaves in the band and in its private area. The slots, the kinds of the
records, the timers and the places where a mask check has failed are the new split's; a block whose lanes have all reached lend or gone ends; the new records lie in the
private area from its start, and no other byte changes but the shadow pool's.

Where the kinds of the records are kept is the model's choice (log entry 33). -/
def Obligations.SplitIsStored : Prop :=
  ∀ (s : State) (b : Nat) (old new : Split), (tget? s.bands b).isSome → new.bad = none →
    let t := putSplit s b old new
    let x := s.band b
    let at_ (e : Nat × Rec) (i k : Nat) : Prop :=
      e ∈ Machine.placed new.recs ∧ i < 16 * (if e.2.kind = 1 then 2 else 3) ∧
        placed s x.agent true (x.privbase.toNat + 16 * e.1) i k
    let fresh (e : Nat × Rec) : Prop := ∀ q ∈ Machine.placed old.recs, q.1 = e.1 → { q.2 with timer := 0 } ≠ { e.2 with timer := 0 }
    cachesOnly s t ∧
    t = { s with
      bands := t.bands, mem := t.mem, wq := t.wq, poison := t.poison, launches := t.launches, tiles := t.tiles
      dies := t.dies } ∧
    (∀ k, k ≠ b → tget? t.bands k = tget? s.bands k) ∧
    (tget? t.bands b = some ({ x with
      slot0 := new.s0
      slot1 := new.s1
      kinds := new.recs.map Rec.kind
      timers := runTimers new.recs
      flawed := ((Machine.placed new.recs).filter (fun (e : Nat × Rec) => e.2.flaw)).map (fun (e : Nat × Rec) => e.1)
      firstNext := new.hold }.blockDone)) ∧
    ((∀ e i k, at_ e i k → ¬ pooled s k) →
      (∀ e ∈ Machine.placed new.recs, ∀ i, i < 16 * (if e.2.kind = 1 then 2 else 3) → ∃ k, at_ e i k) →
      (∀ e i k, at_ e i k → fresh e → (∀ q j, at_ q j k → q = e ∧ j = i) →
        t.peek k = byteAt (e.2.cells.flatMap (leBytes 16)) i) ∧
      ∀ k, ¬ pooled s k → (∀ e i, ¬ at_ e i k) → t.peek k = s.peek k)

/-! ### The matrix engine, child launches, and the body of a region -/

/-- R187, R188, R190 to R192, R196, R199: a matrix operation or acc.out whose checks hold is posted by the lowest lane of A: its entry
takes the format, the word, the records, its arrays and tiles; POSTED counts it, the fragment goes on and the arbiter
walks. A full table makes the fragment wait; an empty A posts nothing. -/
def Obligations.MatrixOperations : Prop :=
  (∀ (s : State) (i : Instr) (k : Nat) (o : MmaOp) (ra rb : Nat), matrixOf i = some (k, o) → steady s .n64 (.v o.f) →
    let b := s.cb
    let w := b.s o.op
    let pair := patternOf b .n64 (.v o.f) ((activeLanes s).headD 0)
    let a := opField w 0 6 / 16
    (s.act = 0 → exec i s = .next (laneDone s id)) ∧
    (s.act ≠ 0 → (w.getLsbD 13 = false → recordIs s (b.s o.ra).toNat ra) → (w.getLsbD 13 = true → ra = 0) →
      recordIs s (b.s o.rb).toNat rb →
      ∃ u, recordsOnly s u ∧
        (differing s .n64 o.f ≠ [] → exec i s = trapLanes u (differing s .n64 o.f)) ∧
        (differing s .n64 o.f = [] →
          let fa := pair % 2 ^ 32
          let fb := pair / 2 ^ 32
          let formats := formatGood fa ∧ formatGood fb ∧ fa % 16 = fb % 16
          let records := recordGood true rb ∧ (w.getLsbD 13 = false → recordGood false ra)
          let pairOk := k ≠ 0 → a = b.tile % 4 ∧ (s.tile (b.ptile / 4 * 4 + (a ^^^ k))).cordoned = false
          (¬ formats → exec i s = trapActive u 0x042) ∧
          (formats → ¬ opWordGood w → exec i s = trapActive u 0x101) ∧
          (formats → opWordGood w → ¬ records → exec i s = trapActive u 0x108) ∧
          (formats → opWordGood w → records → ¬ holdsTiles s (namedTiles k w) → exec i s = trapActive u 0x105) ∧
          (formats → opWordGood w → records → holdsTiles s (namedTiles k w) → ¬ pairOk → exec i s = trapActive u 0x109) ∧
          (formats → opWordGood w → records → holdsTiles s (namedTiles k w) → pairOk →
            posted s u true { postedEntry s k w with
              fa := BitVec.ofNat 32 fa, fb := BitVec.ofNat 32 fb, rm := o.rm, ra := ra, rb := rb
              arrays := if k = 0 then [a] else [a, a ^^^ k], tiles := namedTiles k w } (exec i s))))) ∧
  (∀ (s : State) (o : AccOutOp) (rc : Nat), steady s .n32 (.v o.f) →
    let b := s.cb
    let w := b.s o.op
    let f := patternOf b .n32 (.v o.f) ((activeLanes s).headD 0)
    (s.act = 0 → exec (.accOut o) s = .next (laneDone s id)) ∧
    (s.act ≠ 0 → recordIs s (b.s o.rc).toNat rc → ∃ u, recordsOnly s u ∧
      (differing s .n32 o.f ≠ [] → exec (.accOut o) s = trapLanes u (differing s .n32 o.f)) ∧
      (differing s .n32 o.f = [] →
        (¬ formatGood f → exec (.accOut o) s = trapActive u 0x042) ∧
        (formatGood f → ¬ outWordGood w → exec (.accOut o) s = trapActive u 0x101) ∧
        (formatGood f → outWordGood w → ¬ recordGood false rc → exec (.accOut o) s = trapActive u 0x108) ∧
        (formatGood f → outWordGood w → recordGood false rc → ¬ holdsTiles s [opField w 0 6] →
          exec (.accOut o) s = trapActive u 0x105) ∧
        (formatGood f → outWordGood w → recordGood false rc → holdsTiles s [opField w 0 6] →
          posted s u true { postedEntry s 5 w with
            fa := BitVec.ofNat 32 f, rm := o.rm, ra := rc, arrays := [opField w 0 6 / 16], tiles := [opField w 0 6] }
            (exec (.accOut o) s)))))

/-- R198, R205: acc.ld and acc.st enter the table of their quad; with no other entry there their elements move at once, rounded for
f16 and bf16, and the entry retires. fvote answers how the lanes' format words agree.

That acc.ld moves at its grant and counts a rounded special value is the model's reading (log entry 42). -/
def Obligations.AccumulatorMoves : Prop :=
  (∀ (s : State) (o : AccLdOp) (sel : SReg) (data : Src),
    (s.act = 0 → exec (.accLd o) s = .next (laneDone s id) ∧ exec (.accSt sel data) s = .next (laneDone s id)) ∧
    (s.act ≠ 0 → (s.cb.s o.sel).toNat / 2 ^ 14 ≠ 0 → exec (.accLd o) s = trapActive s 0x101) ∧
    (s.act ≠ 0 → (s.cb.s sel).toNat / 2 ^ 14 ≠ 0 → exec (.accSt sel data) s = trapActive s 0x101) ∧
    (s.act ≠ 0 → (s.cb.s o.sel).toNat < 2 ^ 14 → ¬ holdsTiles s [opField (s.cb.s o.sel) 0 6] →
      exec (.accLd o) s = trapActive s 0x105) ∧
    (s.act ≠ 0 → (s.cb.s sel).toNat < 2 ^ 14 → ¬ holdsTiles s [opField (s.cb.s sel) 0 6] →
      exec (.accSt sel data) s = trapActive s 0x105)) ∧
  (∀ (s : State) (o : AccLdOp), let w := s.cb.s o.sel
    let n := opField w 0 6
    let value (l : Nat) : Nat :=
      let x := ((s.quad s.cq).elem n (selectedElement w l).1 (selectedElement w l).2).toNat
      if o.ty = .f32 then x else roundedTo o.ty o.rm (valueOf .f32 x)
    let here (r l : Nat) : Prop := r = o.d.toNat ∧ s.act.getLsbD l = true
    o.ok = true → s.act ≠ 0 → w.toNat < 2 ^ 14 → holdsTiles s [n] → landable s .f32 o.d →
    posted s s false { postedEntry s 3 w with
      rm := o.rm, tiles := [n], ty := o.ty, d := o.d.toNat, vals := (activeLanes s).map (fun l => (l, 0)) }
      (exec (.accLd o) s) ∧
    ((tget? s.bands s.cur.band).isSome → (s.quad s.cq).table = [] → s.isWaking (s.cq * 4 + n / 16) (.acc (n % 16)) = false →
      s.cb.inBody = false →
      (∀ l, s.act.getLsbD l = true →
        (s.quad s.cq).bad.contains (accKey n (selectedElement w l).1 (selectedElement w l).2) = false) →
      ∃ t, exec (.accLd o) s = .next t ∧
        t = { laneDone (flagged s (o.ty != .f32 && (activeLanes s).any (fun l => (valueOf o.ty (value l)).special)) s.act)
            (fun b => { b with vregs := t.cb.vregs, errV := t.cb.errV }) with quads := t.quads } ∧
        (∀ q, t.quad q = s.quad q) ∧
        ∀ r l, l < 128 →
          (here r l → t.cb.v r l = BitVec.ofNat 32 (value l)) ∧ (¬ here r l → t.cb.v r l = s.cb.v r l) ∧
          (t.cb.errV.contains (vkey r l) = true ↔ s.cb.errV.contains (vkey r l) = true ∧ ¬ here r l))) ∧
  (∀ (s : State) (sel : SReg) (data : Src), let w := s.cb.s sel
    let n := opField w 0 6
    steady s .f32 data → s.act ≠ 0 → w.toNat < 2 ^ 14 → holdsTiles s [n] →
    posted s s false { postedEntry s 4 w with
      tiles := [n], vals := (activeLanes s).map (fun l => (l, BitVec.ofNat 32 (patternOf s.cb .f32 data l))) }
      (exec (.accSt sel data) s) ∧
    ((s.quad s.cq).table = [] → s.isWaking (s.cq * 4 + n / 16) (.acc (n % 16)) = false →
      ∃ t, exec (.accSt sel data) s = .next t ∧ t = { laneDone s id with quads := t.quads } ∧
        (∀ q, q ≠ s.cq → t.quad q = s.quad q) ∧
        t.quad s.cq = { s.quad s.cq with acc := (t.quad s.cq).acc, bad := (t.quad s.cq).bad } ∧
        ∀ m i j, i < 128 → j < 128 →
          let here (l : Nat) : Prop := m = n ∧ s.act.getLsbD l = true ∧ selectedElement w l = (i, j)
          (∀ l, here l → (t.quad s.cq).elem m i j = BitVec.ofNat 32 (patternOf s.cb .f32 data l)) ∧
          ((∀ l, ¬ here l) → (t.quad s.cq).elem m i j = (s.quad s.cq).elem m i j) ∧
          ((t.quad s.cq).bad.contains (accKey m i j) = true ↔
            (s.quad s.cq).bad.contains (accKey m i j) = true ∧ ∀ l, ¬ here l))) ∧
  (∀ (s : State) (d : SReg) (a : Src), steady s .n32 a →
    let x (l : Nat) : Nat := patternOf s.cb .n32 a l
    let low := (activeLanes s).headD 0
    (s.act = 0 → exec (.fvote d a) s = .next (laneScalar s d 3)) ∧
    (s.act ≠ 0 → (∃ l, s.act.getLsbD l = true ∧ x l ≠ x low) → exec (.fvote d a) s = .next (laneScalar s d 1)) ∧
    (s.act ≠ 0 → (∀ l, s.act.getLsbD l = true → x l = x low) →
      (formatGood (x low) → exec (.fvote d a) s = .next (laneScalar s d 0)) ∧
      (¬ formatGood (x low) → exec (.fvote d a) s = .next (laneScalar s d 2))))

/-- R178, R314, R316, R179, R288: dlaunch creates a child launch for each lane of A, lowest first, and answers its number in the
parent's sequence; while the other fragment's dlaunch stalls, it waits; lsig.chk compares the fragment's signature and starts it anew, or traps SIG_MISMATCH in its lowest lane. -/
def Obligations.ChildLaunchesAndSignatures : Prop :=
  (∀ (s u : State) (d : VReg) (a : Src) (L : Launch), steady s .n64 a → s.cb.dl = none →
    tget? s.launches s.cb.launch = some L →
    (∀ l, s.act.getLsbD l = true → let va := patternOf s.cb .n64 a l
      va % 64 = 0 ∧ (∃ k, engCheck s s.cb.agent false va 64 = .ok k) ∧
        anyPoison s (accessKeys s s.cb.agent false va 64) = false) →
    childrenMade { s.cb.agent with lane := false } s.cb.launch (patternOf s.cb .n64 a) (activeLanes s) s = some u →
    ∃ t, exec (.dlaunch d a) s = .next t ∧ (landable s .n32 d → laneVariable (u.modCb (fun b => { b with dl := none })) t
      (laneWrites s .n32 d (fun l => L.childSeq + ((activeLanes s).filter (fun m => decide (m < l))).length) (fun _ _ => 0))
      false)) ∧
  (∀ (s : State) (d : VReg) (a : Src), s.cb.stalledElse s.cur.slot = true →
    exec (.dlaunch d a) s = .next (s.modCb (fun b => { b with sleepLane := true }))) ∧
  (∀ (s : State) (d : VReg) (a : Src), steady s .n64 a → s.cb.dl = none →
    (∀ l, s.act.getLsbD l = true → patternOf s.cb .n64 a l % 64 ≠ 0) → s.act ≠ 0 →
    exec (.dlaunch d a) s = trapActive s 0x081) ∧
  (∀ (s : State) (x : W32),
    (x = ~~~s.cf.lsig → exec (.lsigChk x) s = .next ((laneMoved s (s.cf.pc + 12)).modCb (fun b =>
      match b.frag s.cur.slot with
      | some f => b.setFrag s.cur.slot (some { f with lsig := 0xFFFFFFFF })
      | none => b))) ∧
    (x ≠ ~~~s.cf.lsig → exec (.lsigChk x) s =
      trapLanesAs s [(((List.range 128).filter (fun l => s.cf.mask.getLsbD l)).headD 0, 0x188)] .lsig))

/-- R235, R236: in a region's body rlx.in gives the guess of the lane's step with its column of the identity, rlx.out delivers the
step's evaluation and its tangents, rlx.step gives the step; outside, rlx.get and rlx.res give what the last closed region
committed, and a residual of ±Inf counts under SCALEDG (R71). Out of place or out of range they raise RLX_STATE and RLX_CONFIG. -/
def Obligations.RegionBodies : Prop :=
  (∀ (s : State) (k : RxBand) (r : Region), inRegion s k r →
    let dim := r.cfg.toNat % 16
    (∀ (d : VReg) (i : BitVec 3), i.toNat < dim → (guessRule d k r i.toNat).holds s (.rlxIn d i)) ∧
    (∀ d : VReg, 0 < dim → (given .n32 d (some 2) (fun _ l => k.first + l)).holds s (.rlxStep d)) ∧
    (∀ (a : VReg) (i : BitVec 3), i.toNat < dim → dim ≤ 8 → steady s .f32 (.v a) →
      ∃ t q, exec (.rlxOut a i) s = .next t ∧ t = { laneDone s id with regions := t.regions } ∧
        tget? t.regions k.leader = some q ∧ (∀ j, j ≠ k.leader → tget? t.regions j = tget? s.regions j) ∧
        q = { r with y := q.y, jac := q.jac } ∧ (k.jacobi = true → q.jac = r.jac) ∧
        ∀ m c, c < 8 →
          let here (l : Nat) : Prop := m = k.first + l ∧ s.act.getLsbD l = true ∧ c = i.toNat
          (∀ l, here l → tget? q.y (stepKey m c) = some (BitVec.ofNat 32 (patternOf s.cb .f32 (.v a) l)) ∧
            (k.jacobi = false → ∀ j, j < dim →
              tget 0 q.jac (stepKey m c * 8 + j) = BitVec.ofNat 32 (tangentOf s.cb (.v a) l j))) ∧
          ((∀ l, ¬ here l) → tget? q.y (stepKey m c) = tget? r.y (stepKey m c) ∧
            ∀ j, j < 8 → tget 0 q.jac (stepKey m c * 8 + j) = tget 0 r.jac (stepKey m c * 8 + j))) ∧
    (∀ (d : VReg) (i : BitVec 3), dim ≤ i.toNat →
      exec (.rlxIn d i) s = trapActive s 0x145 ∧ exec (.rlxOut d i) s = trapActive s 0x145)) ∧
  (∀ (s : State) (d : VReg) (i : BitVec 3),
    (s.cb.inBody = false → exec (.rlxIn d i) s = trapActive s 0x146 ∧ exec (.rlxOut d i) s = trapActive s 0x146 ∧
      exec (.rlxStep d) s = trapActive s 0x146) ∧
    (s.cb.closed = true →
      (i.toNat < s.cb.rxD → (given .f32 d none (fun b l => if l < b.rxN then (tget 0 b.rxX (stepKey l i.toNat)).toNat else 0)).holds
        s (.rlxGet d i)) ∧
      (s.cb.rxD ≤ i.toNat → exec (.rlxGet d i) s = trapActive s 0x145) ∧
      { given .f32 d none (fun b l => (tget 0 b.rxLast l).toNat) with counts := true }.holds s (.rlxRes d)) ∧
    (s.cb.closed = false → exec (.rlxGet d i) s = trapActive s 0x146 ∧ exec (.rlxRes d) s = trapActive s 0x146))

/-! ### Steps of the device: bands -/

/-- R25, R29, R30, R39 to R41, R43, R47, R273, R289, R306, R324: what the device does in a band on its own: a block starts, a join times out, a
back-off ends, a class rises, a result lands, a budget overruns, the watchdog fires, and a deferred cause is taken.

How the watchdog and the bounds of a wait are counted, and that a raised WATCHDOG is not raised again while it waits, is the model's
reading (log entries 24 and 53). That a record with a wrong KIND at a time-out (R324) raises SIG_MASK as a deferred cause is the model's
choice (log entry 22). A step that meets a bank which still wakes comes later (R282). -/
def Obligations.BandSteps : Prop :=
  (∀ s : State, let k := s.cur.a
    let b := s.band k
    s.awake k = true →
    (b.hold = 1 → exec .backoffEnd s = .next (s.modBand k (fun x => { x with hold := 0 }))) ∧
    (s.cur.b = 0 → 64 ≤ b.waitS → exec .effectiveClassRise s =
      .next (s.modBand k (fun x => { x with clsS := min 7 (x.clsS + 1), waitS := x.waitS - 64 }))) ∧
    (s.cur.b ≠ 0 → 64 ≤ b.waitL → exec .effectiveClassRise s =
      .next (s.modBand k (fun x => { x with clsL := min 7 (x.clsL + 1), waitL := x.waitL - 64 }))) ∧
    (∀ p, b.pend[s.cur.b]? = some p → (∀ e ∈ p.sw, e.1 < 64) → (∀ e ∈ p.qw, e.1 < 8) →
      ∃ t, exec .variableLatencyResult s = .next t ∧ t = { flagLanded s b [p] with bands := t.bands } ∧
        (∀ j, j ≠ k → tget? t.bands j = tget? s.bands j) ∧ landed b (t.band k) p ∧
        (t.band k).pend = b.pend.eraseIdx s.cur.b) ∧
    (b.overrun = true →
      ((∀ i r, b.lastGiven = some i → b.batch[i]? = some r → r.retired = true) →
        exec .budgetOverrun s = .next (caused (s.modBand k (fun x => { x with overrun := false })) k 0x1C4 none)) ∧
      (∀ i r, b.lastGiven = some i → b.batch[i]? = some r → r.retired = false →
        let die := b.tile / 96
        exec .budgetOverrun s = .next (caused (signal (s.modBand k (fun x => { x with
            overrun := false, batch := x.batch.modify i (fun r => { r with retired := true }) }))
          ⟨⟨b.ctx % 1024, some r.req.launch, some r.req.ptile, false⟩, some r.req.band, 0x84000000 + (die * 1024 + b.ctx) / 1024⟩
          r.req.target r.req.rows 0x40) k 0x1C4 none)))) ∧
  (∀ s : State, let k := s.cur.a
    let b := s.band k
    s.awakeOut k = true →
    (∀ (sp : Split) (r : Rec), readSplit s b = .ok sp → sp.recs[s.cur.b]? = some r → r.kind = 2 → r.run = true →
      r.lim ≠ 0 → r.lim.toNat ≤ r.timer → r.arrived &&& ~~~r.expected = 0 → noWaking s → (b.deferred = [] ∨ s.accBusy k = false) →
      let u := ({ sp with recs := sp.recs.set s.cur.b { r with expected := r.arrived } }).settle
      exec .joinTimeout s = .next (if u.torn then caused s k 0x189 none else putSplit s k sp u)) ∧
    (∀ (blk : Block) (rest : List Block), b.queue = blk :: rest → b.run = none → b.badEnd = false → blk.bad = false →
      b.wait.parks = false →
      let now := (s.tile b.ptile).cycle.toNat
      (blk.body = false → b.live ≠ 0 → exec .blockStart s = .next (s.modBand k (fun x => { x with
        queue := rest, run := some ⟨blk, b.live, 0, false⟩
        slot0 := some ⟨b.live, blk.addr, 0xFFFFFFFF, now, b.firstNext⟩, slot1 := none, kinds := [], timers := [], flawed := [] }))) ∧
      (blk.body = false → b.live = 0 → exec .blockStart s = .next (s.modBand k (fun x => { x with
        queue := rest.filter (·.body), run := none, slot0 := none, slot1 := none, kinds := [], timers := [], flawed := [] }))) ∧
      (∀ r : RxBand, blk.body = true → b.rx = some r →
        let m := (if r.steps < 128 then BitVec.ofNat 128 (2 ^ r.steps - 1) else BitVec.allOnes 128) &&& b.live
        ∃ t, exec .blockStart s = .next t ∧ t = { s with bands := t.bands } ∧
          (∀ j, j ≠ k → tget? t.bands j = tget? s.bands j) ∧
          t.band k = { b with
            queue := rest, run := some ⟨blk, m, 0, true⟩, kinds := [], timers := [], flawed := [], slot1 := none
            slot0 := if m = 0 then none else some ⟨m, blk.addr, 0xFFFFFFFF, now, b.firstNext⟩
            rx := some { r with ovf := 0 }, vregs := (t.band k).vregs, errV := (t.band k).errV } ∧
          ∀ n l, l < 128 →
            let cleared := r.jacobi = false ∧ m.getLsbD l = true ∧ b.budget - r.d * r.rt ≤ n ∧
              n < b.budget - r.d * r.rt + r.d * r.rt
            (t.band k).v n l = (if cleared then 0 else b.v n l) ∧
            ((t.band k).errV.contains (vkey n l) = true ↔ b.errV.contains (vkey n l) = true ∧ ¬ cleared))) ∧
    (∀ (d : Deferred) (ds : List Deferred), b.deferred = d :: ds → s.accBusy k = false → mayTrap s k →
      let l := deferredLane b d.lane
      let trap (lane : Bool) (slot : Nat) (addr : W64) (m : Mask) : Trap :=
        { entries := [(l, d.cause)], lane := l, cause := d.cause, multi := false, defer := true, lstream := lane
          slot := slot, addr := addr, fragMask := m, active := 0, size := 0, kind := .again }
      (s.cur.b = 0 → ∃ u, exec .handlerEntry s = .next u ∧
        bandTrapped s u k { b with deferred := ds } (trap false 0 b.pc 0)) ∧
      (∀ f, 0 < s.cur.b → b.frag (s.cur.b - 1) = some f → ∃ u, exec .handlerEntry s = .next u ∧
        bandTrapped s u k { b with deferred := ds } (trap true (s.cur.b - 1) f.pc f.mask)))) ∧
  (∀ (s : State) (k : Nat), let p := s.cur.a
    let c := s.cur.b
    let here (e : Nat × Band) : Prop := e.2.ptile = p ∧ e.2.resident = true ∧ e.2.ctx = c
    let allOut := ∀ e ∈ s.bands, here e → e.2.external = true
    let reached (lim : W64) (n : Nat) : Prop := lim ≠ 0 ∧ lim.toNat ≤ n
    let past (lim : W64) (n : Nat) : Prop := lim ≠ 0 ∧ lim.toNat < n
    let due : Prop := past (s.ctx c).wdlim (tget 0 (s.tile p).wd c) ∨ past (s.ctx c).extlim (tget 0 (s.tile p).wdExt c) ∨
      ((∀ e ∈ s.bands, here e → e.2.parked = true) ∧
        ((allOut ∧ reached (s.ctx c).extlim (tget 0 (s.tile p).wdExt c)) ∨
          (¬ allOut ∧ reached (s.ctx c).wdlim (tget 0 (s.tile p).wd c))))
    s.up = true →
    (firstParked s p c k → (∀ e ∈ s.bands, e.1 = k → s.band k = e.2) → due →
      exec .watchdog s = .next (if (s.band k).deferred.any (fun d => d.cause == 0x0C8) then s else caused s k 0x0C8 none)) ∧
    (¬ due → exec .watchdog s = .next s))

/-- R42, R184 to R186, R201, R208, R212, R216, R226: a wait of the scalar stream ends: the result is written, the band goes on past its
instruction, and the return is a join of its scope, which empties the tile's L1 from workgroup scope on (R82; log entry 6); that of
a cwait is a load, which ends the back-off. A result does not come before one that a lane instruction still owes its register (R110), and
a return that reaches a bank which still wakes comes later (R282).

That the youngest request of a circle traps at once, precise, with TRAPPC at its acc.alloc, is the model's reading (log entry 22). -/
def Obligations.WaitsEnd : Prop :=
  (∀ (s : State), let k := s.cur.a
    let b := s.band k
    s.awake k = true →
    (∀ cont st, b.wait = .yieldc true cont (some st) →
      exec .yieldcResume s = .next ((s.modBand k (fun x => { x with
        pc := cont, wait := .none, ycstat := BitVec.ofNat 64 (1 + st * 2 ^ 48) })).modTile b.ptile (fun t => { t with l1 := [] }))) ∧
    (∀ h cont st, b.wait = .none → b.held = some h → h.wait = .yieldc true cont (some st) →
      exec .yieldcResume s = .next ((s.modBand k (fun x => { x with
        held := some { h with pc := cont, wait := .none }, ycstat := BitVec.ofNat 64 (1 + st * 2 ^ 48) })).modTile b.ptile
          (fun t => { t with l1 := [] }))) ∧
    (∀ d w sc, b.wait = .bdone d w sc → owesNone b d →
      exec .bwaitChanged s = .next (joinedAt (s.modBand k (fun x => waitOver (x.setS d w))) b.ptile sc)) ∧
    (∀ d key p sc, b.wait = .bwait d key p sc 0 true → owesNone b d → noWaking s →
      exec .bwaitTimeout s = .next (s.modBand k (fun x => waitOver (x.setS d (resultWord 5 (readBarrier s key)))))) ∧
    (∀ d va n sc left bd at_, b.wait = .cwait d va n sc left bd → accessOk s b.agent false true va.toNat 8 →
      placed s b.agent false va.toNat 0 at_ → owesNone b d → noWaking s →
      let obj := memNat s.view at_ 8
      (n ≤ obj % 2 ^ 48 ∨ obj / 2 ^ 48 ≠ 0 → exec .cwaitReturn s =
        .next (joinedAt (s.modBand k (fun x => waitOver ({ x with backoff := 0, hold := 0 }.setS d (BitVec.ofNat 64 obj)))) b.ptile sc)) ∧
      (obj % 2 ^ 48 < n → obj / 2 ^ 48 = 0 → exec .cwaitReturn s = .next s) ∧
      (left = 0 → bd = true → exec .cwaitBound s =
        .next (s.modBand k (fun x => waitOver (x.setS d (BitVec.ofNat 64 obj)))))) ∧
    (∀ sc n, b.wait = .mwait sc n →
      (n ≤ b.mxRetired.toNat → exec .mwaitReturn s = .next (joinedAt (s.modBand k waitOver) b.ptile sc)) ∧
      (b.mxRetired.toNat < n → exec .mwaitReturn s = .next s)) ∧
    (∀ m, b.wait = .accFree m →
      let named := ∃ e ∈ (s.quad (b.ptile / 4)).table, ∃ n ∈ e.tiles, m.getLsbD n = true
      (¬ named → exec .accFreeRelease s = .next ((s.modBand k waitOver).modWg b.wg (fun y => { y with acc := y.acc &&& ~~~m }))) ∧
      (named → exec .accFreeRelease s = .next s)) ∧
    (∀ d va x rest, let die := b.tile / 96 * 1024 + b.ctx
      b.wait = .bfqTake d va → (s.dctx die).formed = x :: rest → (s.dctx die).waiting = [] → owesNone b d → noWaking s →
      (∀ r ∈ b.batch, r.retired = true) →
      (∀ i, i < 1 + x.reqs.length → accessOk s b.agent true false (va.toNat + 8 * i) 8) → va.toNat + 8 + 8 * x.reqs.length ≤ 2 ^ 64 →
      let n := x.reqs.length
      ∃ t, exec .bfqTakeReturn s = .next t ∧ cachesOnly s t ∧
        stored s t b.agent va.toNat (leBytes 8 (n + (x.reqs.map (·.rows)).sum * 2 ^ 16 + x.no * 2 ^ 32) ++
          x.reqs.flatMap (fun r => leBytes 8 r.desc.toNat)) ∧
        t = { (s.modBand k (fun y => waitOver ({ y with
            batch := x.reqs.map (fun r => ⟨r, false, false⟩), lastGiven := none }.setS d (BitVec.ofNat 64 n)))).modDctx die
            (fun y => { y with formed := rest }) with
          mem := t.mem, wq := t.wq, poison := t.poison, launches := t.launches, tiles := t.tiles, dies := t.dies })) ∧
  (∀ (s : State) (k : Nat) (d : SReg) (w : W64) (age : Nat), let q := s.cur.a
    let ns := (freeIn s q 0).take (countFor w 0) ++ (freeIn s q 1).take (countFor w 1) ++
      (freeIn s q 2).take (countFor w 2) ++ (freeIn s q 3).take (countFor w 3)
    s.up = true → accWaiting s q = [(k, d, w, age)] → s.awake k = true →
    ((∀ i, i < 4 → countFor w i ≤ (freeIn s q i).length) → (∀ i, i < 4 → countFor w i ≤ 16) →
      ∃ u m, exec .accAllocGrant s = .next u ∧ (∀ n, n < 64 → (m.getLsbD n = true ↔ n ∈ ns)) ∧
        (∀ n i j, n < 64 → i < 128 → j < 128 → (u.quad q).elem n i j = if n ∈ ns then 0 else (s.quad q).elem n i j) ∧
        (∀ j, j ≠ q → u.quad j = s.quad j) ∧
        (∀ p, u.tile p = { s.tile p with gated := (u.tile p).gated, waking := (u.tile p).waking }) ∧
        u = { (s.modBand k (fun x => waitOver (x.setS d m))).modWg (s.band k).wg (fun x => { x with acc := x.acc ||| m }) with
          quads := u.quads, tiles := u.tiles }) ∧
    ((∃ i, i < 4 ∧ (freeIn s q i).length < countFor w i) → exec .accAllocGrant s = .next s)) ∧
  (∀ (s : State) (k j : Nat) (d e : SReg) (v w : W64) (a c : Nat), let q := s.cur.a
    s.up = true → accWaiting s q = [(k, d, v, a), (j, e, w, c)] → k ≠ j →
    heldUpBy s q v (s.band j).wg → heldUpBy s q w (s.band k).wg →
    let b := s.band j
    mayTrap s j →
    ∃ u, exec .accDeadlock s = .next u ∧ bandTrapped s u j b
      { entries := [(electedLane b, 0x104)], lane := electedLane b, cause := 0x104, multi := false, defer := false
        lstream := false, slot := 0, addr := b.pc, fragMask := 0, active := 0, size := 4, kind := .plain })

/-! ### Steps of the device: engines -/

/-- R59, R60, R209 to R211: a copy command that starts moves its data, whole when it meets no fault, as bytes, to bit planes or from them;
it leaves its queue later, and reports then.

That a copy moves its data at its start is the model's choice (log entry 56), and what it leaves behind a fault is free (log
entry 14). -/
def Obligations.CopySteps : Prop :=
  (∀ (s : State) (i : Nat) (c : CopyCmd) (f g : Nat → Nat), let p := s.cur.a
    s.up = true → ((s.tile p).copies.filter (fun c => c.status.isSome)).length < 4 →
    (s.tile p).copies[i]? = some c → c.status = none → (∀ j d, j < i → (s.tile p).copies[j]? = some d → d.status.isSome) →
    let fw := c.fmt
    let len := planeLen c.n
    let done (t : State) (m : Nat) (x : Nat → Byte) : Prop := exec .copyStart s = .next t ∧ copyMoved s t p i 0 c ∧
      (∀ j, j < m → t.peek (g j) = x j) ∧ ∀ k, ¬ pooled s k → (∀ j, j < m → k ≠ g j) → t.peek k = s.peek k
    (c.kind = 0 → c.src.toNat + c.n ≤ 2 ^ 64 → c.dst.toNat + c.n ≤ 2 ^ 64 → copyApart s c c.n c.n f g →
      ∃ t, done t c.n (fun j => s.peek (f j))) ∧
    (c.kind = 1 → planesOk fw → c.n ≠ 0 → c.src.toNat + 4 * c.n ≤ 2 ^ 64 → c.dst.toNat + planesStored fw * len ≤ 2 ^ 64 →
      copyApart s c (4 * c.n) (planesStored fw * len) f g →
      ∃ t, done t (planesStored fw * len) (fun j => BitVec.ofNat 8 (((List.range 8).map (fun b =>
        let e := 8 * (j % len) + b
        if e < c.n ∧ (clamped fw (wordAt s f e) % 2 ^ planesStored fw).toNat.testBit (planesStored fw - 1 - j / len) then
          2 ^ b else 0)).sum))) ∧
    (c.kind = 2 → planesOk fw → c.n ≠ 0 → c.src.toNat + planesRead fw * len ≤ 2 ^ 64 → c.dst.toNat + 4 * c.n ≤ 2 ^ 64 →
      copyApart s c (planesRead fw * len) (4 * c.n) f g →
      ∃ t, done t (4 * c.n) (fun j =>
        let e := j / 4
        let x := ((List.range (planesRead fw)).map (fun b =>
          if (s.peek (f (b * len + e / 8))).getLsbD (e % 8) then 2 ^ (planesRead fw - 1 - b) else 0)).sum
        byteAt (leBytes 4 (if fw.testBit 12 then (signedField (planesRead fw) x % 2 ^ 32).toNat else x)) (j % 4)))) ∧
  (∀ (s : State) (c : CopyCmd) (st : Nat), let p := s.cur.a
    s.up = true → (s.tile p).copies[s.cur.b]? = some c → c.status = some st →
    let u := s.modTile p (fun t => { t with copies := t.copies.eraseIdx s.cur.b })
    (c.yield = false → noWaking s → exec .copyComplete s = .next (signal u (copySource c) c.target 1 st)) ∧
    (∀ cont, c.yield = true → (s.band c.band).wait = .yieldc true cont none →
      exec .copyComplete s = .next (u.modBand c.band (fun x => { x with wait := .yieldc true cont (some st) }))))

/-- R181, R193, R196, R199, R217, R219, R223, R227, R317: the steps of the other engines: a pass of a matrix operation, the write of
an acc.out, an entry's class, a deferred arrival, a decode, a batch's wait limit, and a write that reaches the array.

That a pass, and acc.out's whole write, act in one step is the model's choice (log entry 56); the pass fault that counts is that of
log entry 39. What a stream decodes to is free (log entry 12); the status DESC_BAD on FSIG too, that OUTFMT 0 refuses a rounding code of 5 to 7,
and that the room of three planes is asked for whatever the stream holds are the model's choices (log entry 67). -/
def Obligations.EngineSteps : Prop :=
  (∀ (s : State) (e : MxEntry), let q := s.cur.a
    s.up = true → passRuns s q s.cur.b e →
    ∃ u, exec .passComplete s = .next (walk (if 4096 * (e.pass + 1) < (opField e.op 56 8 + 1) * 128 then
        u.modQuad q (fun x => { x with table := x.table.map (fun y =>
          if y.id = e.id then { y with pass := y.pass + 1, running := false, pat := none } else y) })
      else retireEntry u q e 0 0) q) ∧
      u = { s with quads := u.quads, ctxs := u.ctxs } ∧ (∀ j, j ≠ q → u.quad j = s.quad j) ∧
      u.quad q = { s.quad q with acc := (u.quad q).acc } ∧
      (∀ c, c ≠ e.ctx → u.ctx c = s.ctx c) ∧ u.ctx e.ctx = { s.ctx e.ctx with lsovf := (u.ctx e.ctx).lsovf } ∧
      ∀ n i j, n < 64 → i < 128 → j < 128 →
        (∀ h, h < (resultTiles e.kind e.op).length → (resultTiles e.kind e.op)[h]? = some n →
          i < opField e.op 14 7 + 1 → j < opField e.op 21 7 + 1 → (u.quad q).elem n i j = elementAfter s q e h n i j) ∧
        (n ∉ resultTiles e.kind e.op ∨ opField e.op 14 7 < i ∨ opField e.op 21 7 < j →
          (u.quad q).elem n i j = (s.quad q).elem n i j)) ∧
  (∀ (s : State) (e : MxEntry) (g : Nat → Nat), let q := s.cur.a
    let f := Format.ofNat e.fa.toNat
    let out (i j : Nat) : Int := downConvert f e.rm ((s.quad q).elem (opField e.op 0 6) i j)
    s.up = true → (s.quad q).table[s.cur.b]? = some e → e.running = true → e.kind = 5 → noWaking s → (s.quad q).bad = [] →
    outPlaces s e f g →
    ∃ t, exec .passComplete s = .next (walk (retireEntry t q e 0 0) q) ∧
      t.bands = s.bands ∧ t.quads = s.quads ∧ t.wgs = s.wgs ∧ t.arrivals = s.arrivals ∧
      (f.kind ≠ 3 → ∀ i j n, outInside e i j → n < outBytes f →
        t.peek (g (outAddr e f i j n)) = byteAt (leBytes (outBytes f) (out i j).toNat) n) ∧
      (f.kind = 3 → ∀ i j n, outInside e i j → n < f.pstore → let k := g (outAddr e f i j n)
        (t.peek k).getLsbD (outIndex e i j % 8) = (out i j % 2 ^ f.pstore).toNat.testBit (f.pstore - 1 - n) ∧
        ∀ c, c < 8 → (∀ x y, outInside e x y → outAddr e f x y n = outAddr e f i j n → outIndex e x y % 8 ≠ c) →
          (t.peek k).getLsbD c = (s.peek k).getLsbD c) ∧
      (∀ k, ¬ pooled s k → (∀ i j n, outInside e i j → n < outBytes f → k ≠ g (outAddr e f i j n)) → t.peek k = s.peek k) ∧
      (∀ c, t.ctx c = { s.ctx c with lsovf := (t.ctx c).lsovf } ∧
        ((t.ctx c).lsovf = true ↔ (s.ctx c).lsovf = true ∨ (c = e.ctx ∧ s.scaledG e.launch = true ∧ f.kind ≠ 3 ∧
          ∃ i j, outInside e i j ∧ (fval (kindFmt f.kind) (out i j).toNat).special = true)))) ∧
  (∀ (s : State) (e : MxEntry), let q := s.cur.a
    s.up = true → (s.quad q).table[s.cur.b]? = some e → e.running = false → 4096 ≤ e.waited →
    exec .classAging s = .next (walk (s.modQuad q (fun x => { x with table := x.table.map (fun y =>
      if y.id = e.id then { y with cls := min 7 (y.cls + 1), waited := y.waited - 4096 } else y) })) q)) ∧
  (∀ (s : State) (a : MxArrival), s.up = true → s.arrivals[s.cur.a]? = some a →
    (a.need = [] → noWaking s → exec .barrMxArrival s = .next (signal { s with arrivals := s.arrivals.eraseIdx s.cur.a }
      ⟨⟨a.ctx, some a.launch, some a.ptile, false⟩, some a.band, 0x81000000 + a.tile⟩ a.target 1 (if a.bad then 1 else 0))) ∧
    (a.need ≠ [] → exec .barrMxArrival s = .next s)) ∧
  (∀ (s : State) (c : Vdec) (rest : List Vdec), let k := s.cur.a
    let src : Source := ⟨⟨c.ctx, some c.launch, some c.ptile, false⟩, some c.band, 0x82000000 + k⟩
    s.up = true → (s.dec k).queue = c :: rest →
    (rangeWakes s src.ag c.desc.toNat 128 = true → exec .decodeStart s = .next s) ∧
    ((s.dec k).run = none → rangeWakes s src.ag c.desc.toNat 128 = false → (∃ x, engCheck s src.ag false c.desc.toNat 128 = .ok x) →
      anyPoison s (accessKeys s src.ag false c.desc.toNat 128) = false →
      let w := leNat 128 (engBytes s src.ag c.desc.toNat 128)
      (vdecOk w = true → exec .decodeStart s = .next (s.modDec k (fun d => { d with
        run := some ⟨w, 0, 0, 0, none, 0, 0, false, none⟩ }))) ∧
      (vdecOk w = false → targetOk (BitVec.ofNat 64 (w / 2 ^ 384 % 2 ^ 64)) = true → noWaking s →
        exec .decodeStart s = .next ((signal
          ((List.range (w / 2 ^ 96 % 2 ^ 8 + 1)).foldl (fun u _ => signal u src (BitVec.ofNat 64 (w / 2 ^ 384 % 2 ^ 64)) 1 1) s)
          src (BitVec.ofNat 64 (w / 2 ^ 448 % 2 ^ 64)) 1 1).modDec k (fun d => { d with queue := rest })))) ∧
    (∀ r : VRun, (s.dec k).run = some r → noWaking s →
      let frames := r.word / 2 ^ 96 % 2 ^ 8 + 1
      (r.frame < frames → ∃ t q, exec .frameOutput s = .next t ∧ (t.dec k).queue = c :: rest ∧ (t.dec k).run = some q ∧
        q.word = r.word ∧ q.frame = r.frame + 1 ∧ ∀ j, j ≠ r.frame → q.result.testBit j = r.result.testBit j) ∧
      (∀ st, r.frame < frames → r.stopped = some st → exec .frameOutput s =
        .next ((signal s src (BitVec.ofNat 64 (r.word / 2 ^ 384 % 2 ^ 64)) 1 st).modDec k (fun d => { d with
          run := some { r with frame := r.frame + 1, result := r.result ||| 2 ^ r.frame } }))) ∧
      (frames ≤ r.frame → (∀ i, i < 32 → ∃ x, placed s src.ag true (c.desc.toNat + 64) i x) → c.desc.toNat + 96 ≤ 2 ^ 64 →
        ∃ u, exec .decodeComplete s = .next (signal u src (BitVec.ofNat 64 (r.word / 2 ^ 448 % 2 ^ 64)) 1
            (r.stopped.getD (if r.result = 0 then 0 else 0x31))) ∧
          stored s u src.ag (c.desc.toNat + 64) (leBytes 32 r.result) ∧ u.decoders = tset s.decoders k ⟨rest, none⟩))) ∧
  (∀ s : State, let k := s.cur.a
    let x := s.dctx k
    s.up = true → x.formed.length < 16 →
    ∀ r rs, x.waiting = r :: rs → r.waitLim ≠ 0 → r.waitLim ≤ r.waited →
    ∃ n, 1 ≤ n ∧ n ≤ 64 ∧ n ≤ x.waiting.length ∧ (n = 1 ∨ ((x.waiting.take n).map (·.rows)).sum ≤ x.bfqmax) ∧
      (n = 64 ∨ n = x.waiting.length ∨ x.bfqmax < ((x.waiting.take (n + 1)).map (·.rows)).sum) ∧
      exec .batchWaitLimit s = .next ((s.modDctx k (fun y => { y with
        waiting := x.waiting.drop n, formed := x.formed ++ [⟨(s.die (k / 1024)).batchNo, x.waiting.take n⟩] })).modDie (k / 1024)
        (fun d => { d with batchNo := (d.batchNo + 1) % 2 ^ 32 }))) ∧
  (∀ s : State, s.up = true → ∃ t, exec .writeQueueApply s = .next t ∧ t = { s with mem := t.mem, wq := t.wq } ∧
    (∀ k, t.peek k = s.peek k) ∧
    (∀ e, s.wq.find? (fun e => s.entryPort e == s.cur.a) = some e → t.wq = s.wq.erase e))

/-- R249 to R256, R264: Cabinet commands start and complete. A command that finds its table or its order unready ends with DD_OPERAND.
dd.mk answers the node that the table holds, or makes it at the free list's head or at NEXT, in the first free bucket that its probe
meets; dd.ref and dd.deref change the REF of one node; with an operand that breaks its rules a command writes nothing. A command
that has ended writes its result and signals, and raises its cause.

That a command does its work at its start is the model's choice (log entry 15), and so is which records are live (log entry
37). -/
def Obligations.CabinetNodes : Prop :=
  (∀ (s : State) (c : DdCmd), let x := ddRegs s c
    cabinetReady s c → c.op ≠ 12 →
    (x.tableReady = false ∨ (c.op ∉ [7, 8, 11] ∧ x.orderReady = false)) → cabinetAnswers s c 0x8152 none) ∧
  (∀ (s : State) (c : DdCmd) (at_ : Nat → Nat) (w : Nat), let x := ddRegs s c
    let node := nodeAt s at_
    let size := ddSize x
    let v := w % 2 ^ 20
    let lo := w / 2 ^ 64 % 2 ^ 40
    let hi := w / 2 ^ 128 % 2 ^ 40
    let level := levelAt x node
    let free := (node 0).hi
    let next := (node 0).lo
    let live := (node 1).lo
    let n := if free ≠ 0 then free else next
    let home := v * 0x9E3779B1 + lo * 0x85EBCA77 + hi * 0xC2B2AE3D
    let bucket (k : Nat) : Nat := bucketAt s x at_ ((home + k) % size)
    let holds (k : Nat) : Prop := 2 ≤ bucket k ∧ (node (bucket k)).var = v ∧ (node (bucket k)).lo = lo ∧ (node (bucket k)).hi = hi
    let reached (k : Nat) : Prop := k < min 32 size ∧ ∀ j, j < k → bucket j ≠ 0
    cabinetReady s c → c.op = 0 → x.tableReady = true → x.orderReady = true → tableAt s c at_ →
    readsAs s c.agent c.a.toNat 32 w → (∀ k, k < min 32 size → bucket k < size) →
    (x.vocount.toNat ≤ v → cabinetAnswers s c 0x8152 none) ∧
    (v < x.vocount.toNat → ¬ (sound x node lo ∧ sound x node hi) → cabinetAnswers s c 0x8151 none) ∧
    (v < x.vocount.toNat → sound x node lo → sound x node hi →
      (¬ (tget 0 x.v2l v < level lo ∧ tget 0 x.v2l v < level hi) → cabinetAnswers s c 0x8152 none) ∧
      (tget 0 x.v2l v < level lo → tget 0 x.v2l v < level hi →
        (lo = hi → cabinetAnswers s c 0 (some (24, 8, lo))) ∧
        (∀ k, lo ≠ hi → reached k → holds k → (∀ j, j < k → ¬ holds j) → cabinetAnswers s c 0 (some (24, 8, bucket k))) ∧
        (lo ≠ hi → (∀ k, reached k → ¬ holds k) →
          ((∀ k, k < min 32 size → 2 ≤ bucket k) ∨ ddLimit x ≤ live ∨ (free = 0 ∧ size ≤ next) →
            cabinetAnswers s c 0x8150 none) ∧
          (∀ k, k < min 32 size → bucket k ≤ 1 → (∀ j, j < k → 2 ≤ bucket j) → live < ddLimit x → n < size →
            2 ≤ n → n ≠ lo → n ≠ hi → (∀ m, m ≤ 1 → (node m).ref = 0xFFFF) →
            ∃ t, cabinetEnds s t c 0 (some (24, 8, n)) (inTable x at_) ∧ ddRegs t c = { x with peak := max x.peak (live + 1) } ∧
              (∀ m, m < size → nodeAt t at_ m =
                if m = n then ⟨true, v, hi, lo, 0⟩
                else if m = 0 then { node 0 with
                  lo := if free ≠ 0 then next else next + 1, hi := if free ≠ 0 then (node n).lo else 0 }
                else if m = 1 then { node 1 with lo := live + 1 }
                else if m = lo ∨ m = hi then refUp (node m) else node m) ∧
              ∀ b, b < size → bucketAt t x at_ b = if b = (home + k) % size then n else bucketAt s x at_ b))))) ∧
  (∀ (s : State) (c : DdCmd) (at_ : Nat → Nat), let x := ddRegs s c
    let node := nodeAt s at_
    let n := c.a.toNat % 2 ^ 40
    cabinetReady s c → (c.op = 7 ∨ c.op = 8) → x.tableReady = true → tableAt s c at_ →
    (¬ named x node n → cabinetAnswers s c 0x8151 none) ∧
    (named x node n → c.op = 8 → (node n).ref = 0 → cabinetAnswers s c 0x8152 none) ∧
    (named x node n → c.op = 7 ∨ (node n).ref ≠ 0 → ∃ t, cabinetEnds s t c 0 none (inTable x at_) ∧ t.dctxs = s.dctxs ∧
      (∀ m, m < ddSize x → nodeAt t at_ m = if m = n then (if c.op = 7 then refUp (node n) else refDown (node n)) else node m) ∧
      ∀ b, b < ddSize x → bucketAt t x at_ b = bucketAt s x at_ b)) ∧
  (∀ (s : State) (c : DdCmd) (st : Nat), let d := s.cur.a
    s.up = true → (s.die d).cab[s.cur.b]? = some c → c.status = some st → noWaking s →
    (∀ off n v, st = 0 → c.result = some (off, n, v) → c.a.toNat + off + n ≤ 2 ^ 64 →
      (∀ i, i < n → ∃ k, placed s c.agent true (c.a.toNat + off) i k) →
      ∃ u, exec .cabinetComplete s = .next (signal u (c.source d) c.target 1 0) ∧
        stored s u c.agent (c.a.toNat + off) (leBytes n v) ∧ (u.die d).cab = (s.die d).cab.eraseIdx s.cur.b) ∧
    (c.op ≠ 5 → c.result = none ∨ st ≠ 0 →
      let u := signal (s.modDie d (fun x => { x with cab := x.cab.eraseIdx s.cur.b })) (c.source d) c.target 1 st
      (st = 0 ∨ st = 0x20 ∨ tget? u.bands c.band = none → exec .cabinetComplete s = .next u) ∧
      (st ≠ 0 → st ≠ 0x20 → (tget? u.bands c.band).isSome → exec .cabinetComplete s =
        .next (caused (u.modBand c.band (fun b => { b with cab := ⟨c.target, c.a, st, c.word.toNat⟩ })) c.band
          (BitVec.ofNat 9 st) none))))

/-- R252, R257 to R259: a combining command on a table that the engine alone has written. An operand that is no node of the table ends
it with DD_BAD_NODE, and a cube of another form than R258 asks for with DD_OPERAND; otherwise it ends with DONE or, where a node finds no
room, with DD_TABLE_FULL. At DONE its result is a node whose value at every assignment is the operation's on its operands. Whatever its
end, every node of the table keeps its variable and its children, and table and operation cache stay as R252 and R259 promise.

That a command does its work at its start is the model's choice (log entry 15), and which slot of the cache an operation falls on is
free (log entry 16). -/
def Obligations.CabinetCombines : Prop :=
  ∀ (s : State) (c : DdCmd) (at_ : Nat → Nat) (w : Nat), let d := s.cur.a
    let x := ddRegs s c
    let node := nodeAt s at_
    let f := w % 2 ^ 40
    let g := w / 2 ^ 64 % 2 ^ 40
    let h := if c.op = 2 then w / 2 ^ 128 % 2 ^ 40 else 0
    let cube : Prop := (c.op = 3 → cubeForm x node false g) ∧ (c.op = 4 → cubeForm x node true g)
    cabinetReady s c → c.ctx < 1024 → 1 ≤ c.op → c.op ≤ 4 → x.tableReady = true → x.orderReady = true → tableAt s c at_ →
    readsAs s c.agent c.a.toNat 32 w → goodTable s x at_ → cacheSound s d c.ctx x node →
    (¬ (named x node f ∧ named x node g ∧ named x node h) → cabinetAnswers s c 0x8151 none) ∧
    (named x node f → named x node g → named x node h → ¬ cube → cabinetAnswers s c 0x8152 none) ∧
    (named x node f → named x node g → named x node h → cube →
      ∃ t st r, cabinetEnds s t c st r (inTable x at_) ∧ (st = 0 ∨ st = 0x8150) ∧ (st ≠ 0 → r = none) ∧
        let y := ddRegs t c
        y = { x with peak := y.peak } ∧ goodTable t y at_ ∧ cacheSound t d c.ctx y (nodeAt t at_) ∧
        (∀ n, 2 ≤ n → named x node n → named y (nodeAt t at_) n ∧ nodeAt t at_ n = { node n with ref := (nodeAt t at_ n).ref }) ∧
        (st = 0 → ∃ n, r = some (24, 8, n) ∧ named y (nodeAt t at_) n ∧ combines y (nodeAt t at_) c.op c.tt f g h n))

/-- R260, R261, R265, R266: dd.gc reclaims the nodes that nothing names, directly or through other such nodes; their indices go to the
free list in rising order, their buckets become tombstones and their cache entries go. dd.satcount counts the assignments that satisfy
its operand, or ends with DD_COUNT_RANGE; dd.wcount weighs them by R260's recursion; dd.stat gives the statistics record.

That a command does its work at its start is the model's choice (log entry 15), and so is that RUNNING leaves out the command
itself (log entry 71). -/
def Obligations.CabinetCollectsAndCounts : Prop :=
  (∀ (s : State) (c : DdCmd) (at_ : Nat → Nat), let x := ddRegs s c
    let node := nodeAt s at_
    cabinetReady s c → c.ctx < 1024 → c.op = 11 → x.tableReady = true → tableAt s c at_ → goodNodes s x at_ →
    (∀ n, 2 ≤ n → named x node n → (node n).ref = 0xFFFF ∨ edgesTo node (decisions node) n ≤ (node n).ref) →
    ∃ (t : State) (taken : List Nat), cabinetEnds s t c 0 none (inTable x at_) ∧ t.dctxs = s.dctxs ∧ taken.Pairwise (· < ·) ∧
      (∀ n, n ∈ taken → 2 ≤ n ∧ named x node n ∧ (node n).ref ≠ 0xFFFF ∧ (node n).ref = edgesTo node taken n) ∧
      (∀ n, 2 ≤ n → named x node n → n ∉ taken → (nodeAt t at_ n).ref ≠ 0 ∧ nodeAt t at_ n = { node n with
        ref := if (node n).ref = 0xFFFF then 0xFFFF else (node n).ref - edgesTo node taken n }) ∧
      (∀ i n, taken[i]? = some n → nodeAt t at_ n = ⟨false, 0, 0, (taken[i + 1]?).getD (node 0).hi, 0⟩) ∧
      nodeAt t at_ 0 = { node 0 with hi := (taken.head?).getD (node 0).hi } ∧
      nodeAt t at_ 1 = { node 1 with lo := (node 1).lo - taken.length } ∧
      (∀ n, 2 ≤ n → n < ddSize x → ¬ named x node n → nodeAt t at_ n = node n) ∧
      (∀ b, b < ddSize x → bucketAt t x at_ b = if bucketAt s x at_ b ∈ taken then 1 else bucketAt s x at_ b) ∧
      (t.die s.cur.a).ops = (s.die s.cur.a).ops.filter (fun e => !(e.2.ctx == c.ctx &&
        (taken.contains e.2.f || taken.contains e.2.g || taken.contains e.2.h || taken.contains e.2.r)))) ∧
  (∀ (s : State) (c : DdCmd) (at_ : Nat → Nat) (w : Nat), let x := ddRegs s c
    let node := nodeAt s at_
    let f := w % 2 ^ 40
    cabinetReady s c → x.tableReady = true → x.orderReady = true → tableAt s c at_ → readsAs s c.agent c.a.toNat 32 w →
    goodTable s x at_ →
    ((c.op = 5 ∨ c.op = 6) → ¬ named x node f → cabinetAnswers s c 0x8151 none) ∧
    (c.op = 6 → named x node f → let n := satCount x node f
      (n < 2 ^ 128 → cabinetAnswers s c 0 (some (16, 16, n))) ∧ (2 ^ 128 ≤ n → cabinetAnswers s c 0x8153 none)) ∧
    (∀ W : Nat → Nat, c.op = 5 → named x node f →
      (∀ v, v < x.vocount.toNat → readsAs s c.agent (w / 2 ^ 64 % 2 ^ 64 + 16 * v) 16 (W v)) →
      cabinetAnswers s c 0 (some (24, 8, weightedCount x node (fun v => (W v % 2 ^ 64, W v / 2 ^ 64)) f)))) ∧
  (∀ (s : State) (c : DdCmd) (at_ : Nat → Nat) (xs : List Nat), let x := ddRegs s c
    let node := nodeAt s at_
    let b := s.band c.band
    let running := ((s.die s.cur.a).cab.filter (fun y => y.ctx == c.ctx && y.status.isSome)).length
    let rest := running * 2 ^ 128 + b.cab.cmd * 2 ^ 320 + b.cab.status * 2 ^ 352 + b.cab.blk.toNat * 2 ^ 384 + b.cab.sig.toNat * 2 ^ 448
    cabinetReady s c → c.op = 12 →
    (x.tableReady = false → cabinetAnswers s c 0 (some (0, 64, rest))) ∧
    (x.tableReady = true → tableAt s c at_ → goodNodes s x at_ → freeChain node xs (node 0).hi →
      cabinetAnswers s c 0 (some (0, 64, (node 1).lo + (node 0).lo * 2 ^ 64 + xs.length * 2 ^ 192 + x.peak * 2 ^ 256 + rest))))

/-- R262, R263: dd.swap exchanges two levels of the order, in the engine and in memory, and rewrites the nodes of the upper variable that
have a child of the lower one: every node keeps its index and its value at every assignment, in a table where equal functions have one
index (R252); with no room for two nodes each it ends with DD_TABLE_FULL and changes nothing. dd.order that ends DONE leaves
the order that it was given; it does what dd.swap does where one exchange leads there, and nothing where the order stands so already.

That a command does its work at its start is the model's choice (log entry 15). -/
def Obligations.CabinetReorders : Prop :=
  (∀ (s : State) (c : DdCmd) (at_ ot : Nat → Nat) (xs : List Nat), let x := ddRegs s c
    let node := nodeAt s at_
    let count := x.vocount.toNat
    let l := c.a.toNat % 2 ^ 20
    let v := tget 0 x.l2v l
    let w := tget 0 x.l2v (l + 1)
    let ms := toRewrite node v w
    let W (k : Nat) : Prop := inTable x at_ k ∨ ∃ i, i < 8 * count ∧ k = ot i
    let entry (u : State) (i : Nat) : Nat := leNat 4 ((List.range 4).map (fun j => u.peek (ot (4 * i + j))))
    cabinetReady s c → c.op = 9 → x.tableReady = true → x.orderReady = true →
    (count ≤ l + 1 → cabinetAnswers s c 0x8152 none) ∧
    (l + 1 < count → x.ddcap.toNat % 2 ^ 6 ≤ 34 → areaAt s c.agent x.ddbase.toNat (24 * ddSize x) W at_ →
      areaAt s c.agent x.vobase.toNat (8 * count) W ot → (∀ i j, i < 24 * ddSize x → j < 8 * count → at_ i ≠ ot j) →
      goodTable s x at_ → freeChain node xs (node 0).hi →
      (∀ m n, named x node m → named x node n → (∀ ρ, valueAt x node ρ m = valueAt x node ρ n) → m = n) →
      let full : Prop := ddLimit x < (node 1).lo + 2 * ms.length ∨ xs.length + (ddSize x - (node 0).lo) < 2 * ms.length
      (full → cabinetAnswers s c 0x8150 none) ∧
      (¬ full → ∃ t, cabinetEnds s t c 0 none W ∧
        let y := ddRegs t c
        y = { x with l2v := y.l2v, v2l := y.v2l, peak := y.peak } ∧ goodTable t y at_ ∧
        (∀ i, i < count → tget 0 y.l2v i = (if i = l then w else if i = l + 1 then v else tget 0 x.l2v i) ∧
          tget 0 y.v2l i = (if i = w then l else if i = v then l + 1 else tget 0 x.v2l i)) ∧
        (∀ i, i < 2 * count → entry t i = if i = l then w else if i = l + 1 then v else if i = count + v then l + 1
          else if i = count + w then l else entry s i) ∧
        (∀ n, named x node n → named y (nodeAt t at_) n ∧ ∀ ρ, valueAt y (nodeAt t at_) ρ n = valueAt x node ρ n) ∧
        (∀ n, n ∈ ms → (nodeAt t at_ n).var = w ∧ (nodeAt t at_ n).ref = (node n).ref) ∧
        (∀ n, 2 ≤ n → named x node n → n ∉ ms → nodeAt t at_ n = { node n with ref := (nodeAt t at_ n).ref }) ∧
        (t.die s.cur.a).ops = (s.die s.cur.a).ops))) ∧
  (∀ (s : State) (c : DdCmd) (T : Nat → Nat), let d := s.cur.a
    let x := ddRegs s c
    let count := x.vocount.toNat
    cabinetReady s c → c.op = 10 → x.tableReady = true → x.orderReady = true → count ≤ 0xFFFFE →
    (∀ i, i < count → readsAs s c.agent (c.a.toNat + 4 * i) 4 (T i)) →
    (∀ i, i < count → tget 0 x.l2v i < count ∧ tget 0 x.v2l i < count) → inverseTables count x.l2v x.v2l →
    ((∃ v, v < count ∧ ∀ i, i < count → T i ≠ v) → cabinetAnswers s c 0x8152 none) ∧
    ((∀ v, v < count → ∃ i, i < count ∧ T i = v) →
      (∀ t r, exec .cabinetStart s = .next t →
        (t.die d).cab[s.cur.b]? = some { c with status := some 0, result := r } → ∀ i, i < count →
        tget 0 (ddRegs t c).l2v i = T i ∧ tget 0 (ddRegs t c).v2l (T i) = i) ∧
      ((∀ i, i < count → T i = tget 0 x.l2v i) → cabinetAnswers s c 0 none) ∧
      (∀ l, l + 1 < count →
        (∀ i, i < count → T i = tget 0 x.l2v (if i = l then l + 1 else if i = l + 1 then l else i)) →
        let swap : DdCmd := { c with op := 9, a := BitVec.ofNat 64 l }
        ∃ t u st, exec .cabinetStart s = .next t ∧
          exec .cabinetStart (s.modDie d (fun y => { y with cab := y.cab.set s.cur.b swap })) = .next u ∧
          (t.die d).cab[s.cur.b]? = some { c with status := some st, result := none } ∧
          (u.die d).cab[s.cur.b]? = some { swap with status := some st, result := none } ∧
          t.dctxs = u.dctxs ∧ ∀ k, t.peek k = u.peek k)))

/-- R229, R237 to R239, R241 to R243, R247: a region of several bands opens once all have issued rlx.begin alike. Of two bands whose rlx.begin
differ the later traps RLX_CONFIG and the region closes ABORTED in the others.

A pass whose results are its guesses closes the region CONVERGED and commits them in every band, and one within tolerance TOLERANCE. Any
other repairs the guesses by the mode, NEWTON, DIAG or JACOBI, and the body runs again; where the stall test or PLIM asks for it, the
fallback comes: the in-order run of SEQ, BEST, or TRAP, whose handler goes on with tret.retry or closes TRAPPED with tret.skip.
A dead lane ends the region PARTIAL, after the in-order run of the steps below it.

That a region with a mismatch closes as soon as both have issued, and in a band that comes later at its rlx.begin, is the model's choice
(log entry 68). The maps of the repair take the guesses of the pass, as the model reads R238 (log entry 25). -/
def Obligations.RegionSteps : Prop :=
  (∀ (s : State) (ts : List Nat) (cfg : W64) (x0 : List W32) (m : Nat), let wg := s.cur.a
    let leader := wg * 16
    s.up = true → (∀ k ∈ bandsOf s wg, s.awakeOut k = true) → ts.length = m + 1 →
    (∀ i t, ts[i]? = some t → s.awake (leader + i) = true ∧ ∃ sb y, (s.band (leader + i)).wait = .rxBegin t cfg sb y m ∧
      (i = 0 → y = x0) ∧ (i ≠ 0 → sb = 0)) →
    (∀ i, m < i → i < 16 → ∀ t c sb y n, (s.band (leader + i)).wait ≠ .rxBegin t c sb y n) →
    ∃ u r, exec .regionOpen s = .next u ∧ tget? u.regions leader = some r ∧ r.cfg = cfg ∧ r.nb = m + 1 ∧ r.n = ts.sum ∧
      r.held = false ∧ r.pass = 0 ∧
      (r.dim ≤ 8 → ∀ i, i < r.dim → r.guess 0 i = (x0[i]?).getD 0) ∧
      ∀ i t, ts[i]? = some t → ∃ k, (u.band (leader + i)).rx = some k ∧ k.leader = leader ∧ k.first = (ts.take i).sum ∧
        k.steps = t ∧ (u.band (leader + i)).wait = .none ∧ (u.band (leader + i)).pc = (s.band (leader + i)).pc + 4) ∧
  (∀ (s : State) (i t t' m m' : Nat) (c c' sb sb' : W64) (y y' : List W32), let wg := s.cur.a
    let leader := wg * 16
    s.up = true → (∀ k ∈ bandsOf s wg, s.awakeOut k = true) → s.awake leader = true → s.awake (leader + i) = true →
    1 ≤ i → i < 16 → (s.band leader).wait = .rxBegin t c sb y m → (s.band (leader + i)).wait = .rxBegin t' c' sb' y' m' →
    (c' ≠ c ∨ m' ≠ m ∨ sb' ≠ 0) → (s.band leader).rx = none → mayTrap s (leader + i) →
    (∀ j, 0 < j → j < 16 → j ≠ i → ∀ t c sb y n, (s.band (leader + j)).wait ≠ .rxBegin t c sb y n) →
    ∃ u, exec .regionOpen s = .next u ∧ tget? u.regions leader = none ∧
      (u.band leader).rx = none ∧ (u.band leader).rxout.toNat % 16 = 8 ∧ (u.band leader).wait = .none ∧
      (u.band leader).pc = (s.band leader).pc + 4 ∧ (u.band (leader + i)).held.isSome ∧
      (u.band (leader + i)).trapcause = trapCauseOf 0x145 (electedLane (s.band (leader + i))) false false ∧
      (u.band (leader + i)).rxout = (s.band (leader + i)).rxout ∧
      ∀ j, 0 < j → j ≤ m → j ≠ i → j < 16 → (tget? s.bands (leader + j)).isSome → (u.band (leader + j)).rxLate = some (c, m)) ∧
  (∀ (s : State) (r : Region), let leader := s.cur.a
    s.awake leader = true → tget? s.regions leader = some r → bodiesOver s leader r → r.seqAt = none →
    0 < r.n → (∀ t, t < r.n → stepGone s leader r t = false) →
    ((∀ t, 1 ≤ t → t < r.n → exactAt r t) →
      ∃ u, exec .passEnd s = .next u ∧ regionClosed s u leader r 2 (delivered r)) ∧
    (¬ (∀ t, 1 ≤ t → t < r.n → exactAt r t) → tolerance (r.cfg.toNat / 2 ^ 20 % 2 ^ 16) → tolerance (r.cfg.toNat / 2 ^ 36 % 2 ^ 16) →
      (∀ t i, t + 1 < r.n → i < r.dim → within r t i) →
      ∃ u, exec .passEnd s = .next u ∧ regionClosed s u leader r 3 (delivered r))) ∧
  (∀ (s : State) (r : Region) (E : Nat), let leader := s.cur.a
    passOpen s leader r → exactPrefix r r.n E →
    (¬ (r.stalls = 1 ∧ stallsNow r) → r.pass + 1 < r.limit →
      ∃ u q, exec .passEnd s = .next u ∧ tget? u.regions leader = some q ∧ q.pass = r.pass + 1 ∧ q.e = E ∧ q.y = [] ∧ q.jac = [] ∧
        ∀ t i, t < r.n → i < r.dim → q.guess (t + 1) i = repairedTo r E t i) ∧
    (∀ c, fallsBack r c → let mode := r.cfg.toNat / 2 ^ 6 % 2 ^ 2
      (mode = 0 → ∃ u q, exec .passEnd s = .next u ∧ tget? u.regions leader = some q ∧ q.seqAt = some E ∧ q.seqEnd = r.n ∧
        q.seqOut = 4 ∧ q.y = [] ∧ q.jac = [] ∧ (∀ i, i < r.dim → q.guess E i = delivered r (E - 1) i) ∧
        ∀ t i, t < E → i < r.dim → tget 0 q.xs (stepKey t i) = delivered r t i) ∧
      (mode = 1 → mayTrap s leader → ∀ k, (s.band leader).rx = some k → k.leader = leader → 0 < r.nb →
        ∃ u q, exec .passEnd s = .next u ∧ tget? u.regions leader = some q ∧ q.held = true ∧ q.pass = r.pass + 1 ∧
          (∀ t i, t < r.n → i < r.dim → q.guess (t + 1) i = repairedTo r E t i) ∧
          (u.band leader).held.isSome ∧ (u.band leader).trapcause = trapCauseOf c
            ((((List.range 128).filter (fun l => (s.band leader).live.getLsbD l && decide (l < k.steps))).head?).getD 0) false false ∧
          (u.band leader).trappc = trapPcOf k.lend 0 false true ∧
          ∀ i, i < r.nb → ∀ k, (s.band (leader + i)).rx = some k → k.leader = leader → (u.band (leader + i)).rxout.toNat % 16 = 9) ∧
      (mode = 2 → ∃ u, exec .passEnd s = .next u ∧
        ((r.resbest = none ∨ ∃ b, r.resbest = some b ∧ ∀ t i, t + 1 < r.n → i < r.dim → residLe b (residual r t i) = false) →
          regionClosed s u leader r 5 (delivered r)) ∧
        (∀ b, r.resbest = some b → (∃ t i, t + 1 < r.n ∧ i < r.dim ∧ residLe b (residual r t i) = true) →
          regionClosed s u leader r 5 (fun t i => tget 0 r.best (stepKey t i)))))) ∧
  (∀ (s : State) (r : Region) (t : Nat), let leader := s.cur.a
    s.awake leader = true → tget? s.regions leader = some r → bodiesOver s leader r → r.seqAt = some t → r.dim ≤ 8 →
    (t + 1 < r.seqEnd → ∃ u q, exec .passEnd s = .next u ∧ tget? u.regions leader = some q ∧ q.seqAt = some (t + 1) ∧ q.pass = r.pass ∧
      q.y = [] ∧ ∀ i, i < r.dim → q.guess (t + 1) i = delivered r t i) ∧
    (r.seqEnd ≤ t + 1 → (r.seqOut = 7 → r.cfg.toNat / 2 ^ 6 % 2 ^ 2 ≠ 1) → r.seqOut < 16 → ∃ u, exec .passEnd s = .next u ∧
      regionClosed s u leader r r.seqOut (fun l i => if l = t then delivered r t i else tget 0 r.xs (stepKey l i)))) ∧
  (∀ (s : State) (r : Region) (D E : Nat), let leader := s.cur.a
    s.awake leader = true → tget? s.regions leader = some r → bodiesOver s leader r → r.seqAt = none → r.dim ≤ 8 →
    D < r.n → stepGone s leader r D = true → (∀ t, t < D → stepGone s leader r t = false) → exactPrefix r D E →
    (E < D → ∃ u q, exec .passEnd s = .next u ∧ tget? u.regions leader = some q ∧ q.seqAt = some E ∧ q.seqEnd = D ∧ q.seqOut = 7 ∧
      (∀ i, i < r.dim → q.guess E i = delivered r (E - 1) i) ∧
      (∀ t i, t < E → i < r.dim → tget 0 q.xs (stepKey t i) = delivered r t i) ∧
      ∀ t i, D ≤ t → t < r.n → i < r.dim → tget 0 q.xs (stepKey t i) = r.guess (t + 1) i) ∧
    (D ≤ E → r.cfg.toNat / 2 ^ 6 % 2 ^ 2 ≠ 1 → (∀ i k, i < r.nb → (s.band (leader + i)).rx = some k → k.first + k.steps ≤ r.n) →
      ∃ u, exec .passEnd s = .next u ∧
        regionClosed s u leader r 7 (fun t i => if t < D then delivered r t i else r.guess (t + 1) i))) ∧
  (∀ (s : State) (k : RxBand) (r : Region) (h : Held), s.cb.held = some h → h.kind = .region → s.cb.rx = some k →
    tget? s.regions k.leader = some r → r.held = true →
    (∃ u q, exec .tretRetry s = .next u ∧ tget? u.regions k.leader = some q ∧ q.held = false ∧ q.stalls = 0 ∧ q.pass = r.pass ∧
      q.limit = r.pass + r.cfg.toNat / 2 ^ 8 % 2 ^ 12 ∧ q.stalled = r.stalled ∧ q.y = [] ∧ u.cb.held = none ∧
      ∀ t i, q.guess t i = r.guess t i) ∧
    (∃ u, exec .tretSkip s = .next u ∧ u.cb.held = none ∧ tget? u.regions k.leader = none ∧
      ∀ i, i < r.nb → ∀ j, (s.band (k.leader + i)).rx = some j → j.leader = k.leader →
        let y := u.band (k.leader + i)
        y.rx = none ∧ y.rxout.toNat % 16 = 6 ∧
          ∀ l c, l < j.steps → c < r.dim → r.dim ≤ 8 → tget 0 y.rxX (stepKey l c) = r.guess (j.first + l + 1) c))

/-! ### The dispatcher -/

/-- R22 to R28, R34, R35, R37, R38, R297, R302 to R304, R312: the dispatcher places the workgroups of the launch whose turn
it is, a single one on the tile that comes first in R38's order, a gang on the rectangle that comes first in R23's; their
bands start, and their allocations read 0. A gang that fits nowhere any more completes. One that has waited long gets a
reservation.

The order among launches and interfaces, and what a reservation keeps, are the model's reading (log entry 45), and so is
that a launch accepted after a STEPEND starts once the update is made (log entry 70). Where a tile of a die lies is presumed
(log entry 31). -/
def Obligations.PlacementSteps : Prop :=
  (∀ (s : State) (l : Nat) (L : Launch) (ts : List Nat),
    s.up = true → lostGang s = none → nextLaunchOf s = some (l, L, ts) → tget? s.launches l = some L →
    let ixs := nextIndices L
    let w := s.nextWg
    let size := descField L 225 15 * 16
    (∀ e, e ∈ s.launches → e.2.prio < 8 → e.2.ctx < 1024 → pendingLaunch s e.1 e.2 = true → (tilesFor s e.1 e.2).isSome = true →
      e.2.prio ≤ L.prio) ∧
    ts.length = ixs.length ∧
    (descField L 284 4 = 0 → ∃ t, ts = [t] ∧ t < 192 ∧ roomOn s l L t ∧
      ∀ u, u < 192 → u ≠ t → roomOn s l L u → tileAhead s L.ctx t u) ∧
    (descField L 284 4 ≠ 0 → ∃ die r, die < 2 ∧ ts = r.tiles.take ixs.length ∧ rectangleOf s L.ctx die ixs.length r ∧
      rectFits s l L.ctx L.desc.toNat ixs.length r = true ∧
      ∀ d q, d < 2 → q ∈ rectsOf s L.ctx d ixs.length → rectFits s l L.ctx L.desc.toNat ixs.length q = true → ¬ rectangleAhead q r) ∧
    ∃ u, exec .workgroupPlacement s = .next u ∧ u.nextWg = w + ts.length ∧
      (∀ k i t, ixs[k]? = some i → ts[k]? = some t → ∃ slots off, memberRoom s L.ctx L.desc.toNat k t = some (slots, off) ∧
        roomGood s (s.phys L.ctx t) L slots off ∧ tget? u.wgs (w + k) = some (placedWg s l i t off L) ∧
        (∀ b c, slots[b]? = some c → tget? u.bands ((w + k) * 16 + b) = some (startedBand s l L (w + k) i b t off c)) ∧
        ∀ j, j < size → u.peek (sramKey (s.phys L.ctx t) (off + j)) = 0) ∧
      (L.again = [] → tget? u.launches l = some { L with
        next := L.next + ixs.length, window := L.window ++ ixs.map (fun i => ⟨i, false, 0⟩)
        queued := decide (L.next + ixs.length < descField L 288 32), waited := [], passed := [] }) ∧
      (L.again ≠ [] → tget? u.launches l = some { L with
        again := L.again.filter (fun i => !ixs.contains i), waited := [], passed := [] }) ∧
      tget? u.rr L.prio = some (L.ctx / 16) ∧
      (∀ d, u.die d = { s.die d with reserve := (s.die d).reserve.filter (fun r => r.launch != l) }) ∧
      (∀ j, j < w ∨ w + ts.length ≤ j → tget? u.wgs j = tget? s.wgs j) ∧
      (∀ j, j / 16 < w ∨ w + ts.length ≤ j / 16 → tget? u.bands j = tget? s.bands j) ∧
      (∀ j M, j ≠ l → tget? s.launches j = some M → ∃ p, tget? u.launches j = some { M with passed := p }) ∧
      (∀ x, (∀ k t slots off i, ts[k]? = some t → memberRoom s L.ctx L.desc.toNat k t = some (slots, off) → i < size →
        x ≠ sramKey (s.phys L.ctx t) (off + i)) → u.peek x = s.peek x) ∧
      u = { s with
        mem := u.mem, wq := u.wq, poison := u.poison, nextWg := u.nextWg, wgs := u.wgs, bands := u.bands, tiles := u.tiles
        launches := u.launches, rr := u.rr, dies := u.dies, nonce := u.nonce }) ∧
  (∀ (s : State) (l : Nat) (L : Launch), s.up = true → lostGang s = some l → tget? s.launches l = some L → L.status = none →
    L.parent = none → L.children = [] →
    ∃ u, exec .workgroupPlacement s = .next u ∧ tget? u.launches l = none ∧ ∀ j x, tget? u.wgs j = some x → x.launch ≠ l) ∧
  (∀ (s : State) (l : Nat) (L : Launch) (r : Rect), let d := s.cur.a
    let waits (M : Launch) : Nat := tget 0 M.waited d
    let gang (j : Nat) (M : Launch) : Prop := descField M 284 4 ≠ 0 ∧ pendingLaunch s j M = true ∧ 16 ≤ waits M
    s.up = true → d < 2 →
    ((s.die d).reserve ≠ none → exec .gangReservation s = .next s) ∧
    ((∀ e, e ∈ s.launches → ¬ gang e.1 e.2) → exec .gangReservation s = .next s) ∧
    ((s.die d).reserve = none → (l, L) ∈ s.launches → gang l L →
      (∀ e, e ∈ s.launches → e ≠ (l, L) → gang e.1 e.2 → waits e.2 < waits L) →
      firstBy rectBefore (rectsOf s L.ctx d (nextIndices L).length) = some r →
      rectangleOf s L.ctx d (nextIndices L).length r ∧
      (∀ q, q ∈ rectsOf s L.ctx d (nextIndices L).length → ¬ rectangleAhead q r) ∧
      exec .gangReservation s = .next (s.modDie d (fun x => { x with
        reserve := some ⟨l, (r.tiles.take (nextIndices L).length).map (s.phys L.ctx)⟩ }))))

/-- R21, R27, R34: a workgroup whose bands have ended and whose engine operations have completed leaves its tile and is reported in index
order; the launch completes with its last one.

Which operations keep a workgroup is the model's reading (log entry 46). -/
def Obligations.CompletionSteps : Prop :=
  ∀ (s : State) (x : Workgroup) (L : Launch), let w := s.cur.a
    let l := x.launch
    let c := descField L 128 64
    s.up = true → tget? s.wgs w = some x → tget? s.launches l = some L →
    x.saved = none → x.dying = false → L.status = none → L.dying = none → (s.ctx x.ctx).dying = false →
    ((∃ b, (tget? s.bands b).any (fun y => y.wg == w) = true) ∨ engineBusy s w = true → exec .workgroupComplete s = .next s) ∧
    ((∀ b y, (b, y) ∈ s.bands → y.wg ≠ w) → engineBusy s w = false → noWaking s →
      (∀ (e : WinEntry) (rest : List WinEntry), L.window = e :: rest → e.id ≠ x.index → e.done = false →
        exec .workgroupComplete s = .next (({ s with wgs := tdel s.wgs w }).modLaunch l (fun (y : Launch) => { y with
          window := y.window.map (fun (e : WinEntry) => if e.id = x.index then { e with done := true } else e) }))) ∧
      (∀ (e f : WinEntry) (rest more : List WinEntry), L.window = e :: rest → e.id = x.index → rest = f :: more → f.id ≠ x.index → f.done = false →
        L.contain.getLsbD 0 = false → (∀ g, g ∈ more → g.id ≠ x.index) →
        exec .workgroupComplete s = .next (({ s with wgs := tdel s.wgs w }).modLaunch l (fun (y : Launch) => { y with
          window := rest, reported := y.reported + 1 }))) ∧
      (∀ e : WinEntry, L.window = [e] → e.id = x.index → L.reported + 1 = descField L 288 32 → L.parent = none → L.children = [] →
        L.contain.getLsbD 0 = false →
        (c = 0 → exec .workgroupComplete s = .next { s with wgs := tdel s.wgs w, launches := tdel s.launches l }) ∧
        (∀ k, c ≠ 0 → xlAccess s ⟨L.ctx, none, none, false⟩ true true c 8 = .ok k →
          let u := ({ s with wgs := tdel s.wgs w }).modLaunch l (fun (y : Launch) => { y with
            window := [], reported := descField L 288 32, told := descField L 288 32, status := some 0, shadow := [], again := []
            queued := false, dying := none })
          let v := signal u ⟨⟨L.ctx, none, none, false⟩, none, 0x8F000000 + L.ctx / 16⟩ (BitVec.ofNat 64 c)
            (descField L 288 32 - L.told) 0
          exec .workgroupComplete s = .next { v with launches := tdel v.launches l })))

/-- R35, R37, R46, R277, R278, R302, R304, R312: an eviction takes a workgroup's bands, bytes and accumulators into its image; those that
leave a tile leave highest index first, and no more than make the room. A readmission brings them back to the same tile, at
another slot and offset perhaps, unless a gang's reservation holds the tile, work of a higher priority waits that fits there,
or an array that they need is cordoned.

When a workgroup may go, and on which tiles evictions make room, is the model's reading (log entry 47). -/
def Obligations.EvictionSteps : Prop :=
  (∀ (s : State) (x : Workgroup), let w := s.cur.a
    let q := s.quad (x.ptile / 4)
    s.up = true → tget? s.wgs w = some x →
    (mayEvict s w = false → exec .eviction s = .next s) ∧
    (mayEvict s w = true →
      (∀ y j, (j, y) ∈ s.wgs → y.launch = x.launch → y.saved = none → y.index ≤ x.index) ∧
      (∃ L j M, tget? s.launches x.launch = some L ∧ (j, M) ∈ s.launches ∧ L.prio < M.prio ∧ pendingLaunch s j M = true ∧
        tilesFor s j M = none ∧ x.ptile ∈ evictTiles s j M ∧
        ((leavers s x.ptile M.desc.toNat M.prio).head?).map (·.1) = some w) ∧
      (∀ b, b ∈ bandsOf s w → (s.band b).pend = []) ∧ (∀ e, e ∈ q.table → e.wg ≠ w) ∧
      ∃ u bytes bad, exec .eviction s = .next u ∧ bytes.length = x.scrSize ∧
        (∀ j, j < x.scrSize → byteAt bytes j = u.peek (sramKey x.ptile (x.scrOff + j))) ∧
        tget? u.wgs w = some { x with
          saved := some bytes, savedBad := bad
          savedAcc := ((List.range 64).filter (fun n => x.acc.getLsbD n)).map (fun n => (n, q.acc.filter (fun e => e.1 / 16384 == n))) } ∧
        (∀ j, j ≠ w → tget? u.wgs j = tget? s.wgs j) ∧
        (∀ b y, tget? s.bands b = some y → tget? u.bands b = some (if y.wg = w then savedBand y else y)) ∧
        u.quads = s.quads)) ∧
  (∀ (s : State) (p d prio : Nat), let vs := leavers s p d prio
    (∀ e, e ∈ vs → e ∈ s.wgs ∧ e.2.ptile = p ∧ e.2.saved = none ∧ ∃ l, tget? s.launches e.2.launch = some l ∧ l.prio < prio) ∧
    vs.Pairwise (fun a b => b.2.index ≤ a.2.index) ∧
    ((roomAt (s.without (victims s p prio)) p d (s.freeIx 0)).isSome → (roomAt (s.without vs) p d (s.freeIx 0)).isSome)) ∧
  (∀ (s : State) (x : Workgroup) (L : Launch) (bytes : List Byte) (slots : List Nat) (off : Nat) (q0 : Quad), let w := s.cur.a
    let keys := bandsOf s w
    let q := x.ptile / 4
    s.up = true → tget? s.wgs w = some x → x.saved = some bytes → bytes.length = x.scrSize → tget? s.launches x.launch = some L →
    x.dying = false → L.status = none → L.dying = none → (s.ctx x.ctx).dying = false → (s.ctx x.ctx).stopped = false →
    (s.tile x.ptile).cordoned = false → x.savedBad = false → keys.Nodup → (q0.acc.map (·.1)).Nodup →
    x.savedAcc = ((List.range 64).filter (fun n => x.acc.getLsbD n)).map (fun n => (n, q0.acc.filter (fun e => e.1 / 16384 == n))) →
    ((∃ j y, (j, y) ∈ s.wgs ∧ y.launch = x.launch ∧ y.saved ≠ none ∧ y.index < x.index) → exec .readmission s = .next s) ∧
    ((∃ n, n < 64 ∧ x.acc.getLsbD n = true ∧ ((accHolder s q n).isSome = true ∨ (s.tile (q * 4 + n / 16)).cordoned = true)) →
      exec .readmission s = .next s) ∧
    (reserved s x.launch x.ptile = true ∨ wantedAbove s L.prio x.ptile = true → exec .readmission s = .next s) ∧
    (reserved s x.launch x.ptile = false → wantedAbove s L.prio x.ptile = false →
      (∀ n, n < 64 → x.acc.getLsbD n = true → (s.tile (q * 4 + n / 16)).cordoned = false) →
      (∀ j y, (j, y) ∈ s.wgs → y.launch = x.launch → y.saved ≠ none → x.index ≤ y.index) →
      (∀ n, n < 64 → x.acc.getLsbD n = true → accHolder s q n = none) →
      pickSlots (residents s x.ptile) ((descField L 256 8 + 1) * 8 * ((descField L 264 7 + 16) / 16) * 64) (s.freeIx 0)
        keys.length [] = some slots →
      pickScratch s x.ptile x.scrSize (s.freeIx 64) = some off →
      ∃ u, exec .readmission s = .next u ∧
        (∀ j, j < x.scrSize → u.peek (sramKey x.ptile (off + j)) = byteAt bytes j) ∧
        (∀ k, (∀ j, j < x.scrSize → k ≠ sramKey x.ptile (off + j)) → u.peek k = s.peek k) ∧
        (∀ (i k c : Nat) (y : Band), keys[i]? = some k → slots[i]? = some c → tget? s.bands k = some y → tget? u.bands k = some { y with
          resident := true, slot := c, scrbase := BitVec.ofNat 64 (0xFF00000000000000 + x.tile * 0x100000 + off) }) ∧
        (∀ k, k ∉ keys → tget? u.bands k = tget? s.bands k) ∧
        tget? u.wgs w = some { x with saved := none, savedAcc := [], savedBad := false, scrOff := off } ∧
        (∀ j, j ≠ w → tget? u.wgs j = tget? s.wgs j) ∧
        (∀ n i j, n < 64 → i < 128 → j < 128 → (u.quad q).elem n i j =
          if x.acc.getLsbD n then q0.elem n i j else (s.quad q).elem n i j) ∧
        (∀ j, j ≠ q → u.quad j = s.quad j) ∧
        u = { s with
          mem := u.mem, wq := u.wq, poison := u.poison, bands := u.bands, wgs := u.wgs, quads := u.quads, tiles := u.tiles
          nonce := u.nonce }))

/-! ### Containment -/

/-- R275, R276, R281, R285 to R287, R343: a workgroup kill, a launch's replay or kill, an address-space kill, and the loss
of a link: a peer whose whole set of links has failed is lost. Work that is killed completes KILLED at once.

A gang that is relaunched counts each member once (log entry 60); which links a PEERID has is the model's choice (log entry
65), and what the loss of a peer leaves is its reading (log entry 51); which copies had granules in flight is free (log
entry 14). -/
def Obligations.ContainmentSteps : Prop :=
  (∀ (s : State) (x : Workgroup) (L : Launch), let w := s.cur.a
    let gang := gangOf s w
    let again (i : Nat) : Prop := ∃ v y, v ∈ gang ∧ tget? s.wgs v = some y ∧ y.index = i
    let relaunch : Prop := descField L 280 1 = 1 ∧ ∀ i, again i → tget 0 L.relaunches i < L.contain.toNat / 2 ^ 5 % 2 ^ 3
    s.up = true → tget? s.wgs w = some x → tget? s.launches x.launch = some L → L.status = none →
    (x.dying = false → exec .workgroupKill s = .next s) ∧
    (x.dying = true → ∃ u M, exec .workgroupKill s = .next u ∧ tget? u.launches x.launch = some M ∧
      (∀ v, v ∈ gang → tget? u.wgs v = none) ∧ (∀ v, v ∉ gang → (tget? u.wgs v).isSome = (tget? s.wgs v).isSome) ∧
      (∀ k b, tget? u.bands k = some b → b.wg ∉ gang) ∧ (∀ k r, tget? u.regions k = some r → k / 16 ∉ gang) ∧
      (∀ v y e, v ∈ gang → tget? s.wgs v = some y → e ∈ (u.quad (y.ptile / 4)).table → e.wg ≠ v) ∧
      (∀ p c, c ∈ (u.tile p).copies → c.wg ∉ gang) ∧ (∀ a, a ∈ u.arrivals → a.wg ∉ gang) ∧
      (∀ d c, c ∈ (u.die d).cab → c.wg ∈ gang → c.status.isSome = true) ∧
      (x.gang = 0 → gang = [w] ∧ (x.saved = none → ∀ j, j < x.scrSize → u.peek (sramKey x.ptile (x.scrOff + j)) = 0)) ∧
      (relaunch → M.again.Pairwise (· ≤ ·) ∧ (∀ i, i ∈ M.again ↔ i ∈ L.again ∨ again i) ∧
        (∀ i, again i → tget 0 M.relaunches i = tget 0 L.relaunches i + 1) ∧ M.status = none) ∧
      (¬ relaunch → if L.contain.getLsbD 0 = false ∧ M.replayable = true then M.dying.isSome = true else (u.ctx L.ctx).dying = true))) ∧
  (∀ (s : State) (L : Launch), let l := s.cur.a
    let v := s.vif (L.ctx / 16)
    let pool (e : Shadow) (i : Nat) : Nat := v.poolBase.toNat + e.slot * 65536 + i
    let record := v.faultBase.toNat + 32 * v.faultHead
    s.up = true → tget? s.launches l = some L → L.status = none →
    (L.dying = none → exec .launchReplay s = .next s) ∧
    (L.dying = some 0 → L.contain.getLsbD 0 = true ∨ L.replayable = false →
      exec .launchReplay s = .next (s.modCtx L.ctx (fun c => { c with dying := true }))) ∧
    (L.dying = some 1 ∨ (L.dying = some 0 ∧ L.contain.getLsbD 0 = false ∧ L.replayable = true ∧
        L.contain.toNat / 2 ^ 2 % 2 ^ 3 ≤ L.replays) → L.parent = none → L.children = [] →
      ∃ u, exec .launchReplay s = .next u ∧ tget? u.launches l = none ∧ ∀ j y, tget? u.wgs j = some y → y.launch ≠ l) ∧
    (L.dying = some 0 → L.contain.getLsbD 0 = false → L.replayable = true → L.replays < L.contain.toNat / 2 ^ 2 % 2 ^ 3 →
      (∀ j y, (j, y) ∈ s.wgs → y.launch ≠ l) → (∀ j M, (j, M) ∈ s.launches → ∀ q, M.parent ≠ some (l, q)) →
      (∀ k d, (k, d) ∈ s.dctxs → (∀ r, r ∈ d.waiting → r.launch ≠ l) ∧ ∀ b r, b ∈ d.formed → r ∈ b.reqs → r.launch ≠ l) →
      (∀ p t c, (p, t) ∈ s.tiles → c ∈ t.copies → c.launch ≠ l) → (∀ d x c, (d, x) ∈ s.dies → c ∈ x.cab → c.launch ≠ l) →
      (∀ d x c, (d, x) ∈ s.decoders → c ∈ x.queue → c.launch ≠ l) → (∀ a, a ∈ s.arrivals → a.launch ≠ l) →
      ∃ u, exec .launchReplay s = .next u ∧
        tget? u.launches l = some { L with
          next := 0, reported := 0, told := 0, window := [], childSeq := 0, childHead := 0, children := [], replays := L.replays + 1
          relaunches := [], again := [], waited := [], passed := [], queued := true, dying := none, shadow := [], ddSave := [] } ∧
        (Memory.wf s.mem = true → (L.shadow.map (·.unit)).Nodup →
          (∀ e f i j, e ∈ L.shadow → f ∈ L.shadow → i < 65536 → j < 65536 → pool e i ≠ f.unit * 65536 + j) →
          (∀ e i, e ∈ L.shadow → i < 65536 → ¬ (record ≤ pool e i ∧ pool e i < record + 32)) →
          ∀ e i, e ∈ L.shadow → i < 65536 → u.peek (e.unit * 65536 + i) = s.peek (pool e i)) ∧
        ((L.ddSave.map (·.1)).Nodup → ∀ k d, tget? L.ddSave k = some d → (u.dctx k).ddbase = d.ddbase ∧ (u.dctx k).ddcap = d.ddcap ∧
          (u.dctx k).vobase = d.vobase ∧ (u.dctx k).vocount = d.vocount))) ∧
  (∀ (s : State), let c := s.cur.a
    let v := killContext s c
    s.up = true → c < 1024 →
    ((s.ctx c).dying = false → exec .addressSpaceKill s = .next s) ∧
    ((s.ctx c).dying = true → ∃ u, exec .addressSpaceKill s = .next u ∧ (u.ctx c).stopped = true ∧ (u.ctx c).dying = false ∧
      (∀ l L, tget? u.launches l = some L → L.ctx = c → L.status.isSome = true) ∧
      (∀ j y, tget? u.wgs j = some y → y.ctx ≠ c) ∧
      (∀ k b y, tget? u.bands k = some b → tget? s.wgs b.wg = some y → y.ctx ≠ c) ∧
      (∀ p x, x ∈ (u.tile p).copies → x.ctx ≠ c) ∧ (∀ d x, x ∈ (u.die d).cab → x.ctx ≠ c) ∧
      (∀ d x, x ∈ (u.dec d).queue → x.ctx ≠ c) ∧
      (∀ a, a ∈ u.arrivals → a.ctx ≠ c) ∧ (∀ d e, d < 2 → e ∈ (u.die d).ops → e.2.ctx ≠ c) ∧
      ∀ p g n, p ∈ ctxPages v c → g ∈ v.poison → pteKey p.pte p.va ≤ 8 * g → 8 * g < pteKey p.pte p.va + p.size → n ∈ p.units →
        n ∈ u.quar)) ∧
  (∀ (s : State), let n := s.cur.a
    let cut := peersCut s n
    s.up = true →
    (12 ≤ n ∨ n ∈ s.linksLost → exec .peerLinkLoss s = .next s) ∧
    (n < 12 → n ∉ s.linksLost → ∃ u, exec .peerLinkLoss s = .next u ∧
      u = { s with linksLost := s.linksLost ++ [n], wq := u.wq, tiles := u.tiles, launches := u.launches, ctxs := u.ctxs } ∧
      u.wq.filter (fun e => !(peerOf e.gran).any cut.contains) = s.wq.filter (fun e => !(peerOf e.gran).any cut.contains) ∧
      (∀ e, e ∈ u.wq → e ∈ s.wq) ∧
      (∀ (p i : Nat) (c : CopyCmd), (s.tile p).copies[i]? = some c → (u.tile p).copies[i]? = some c ∨ (c.status = some 0 ∧
        (touchesPeers s cut c.agent c.src.toNat c.sourceBytes = true ∨ touchesPeers s cut c.agent c.dst.toNat c.destBytes = true) ∧
        (u.tile p).copies[i]? = some { c with status := some 0x8083 })) ∧
      (∀ p, (u.tile p).copies.length = (s.tile p).copies.length ∧ u.tile p = { s.tile p with copies := (u.tile p).copies }) ∧
      ∀ k b p d L, (k, b) ∈ s.bands → p ∈ b.pend → d ∈ cut → 222 + d ∈ p.ports → tget? s.launches b.launch = some L →
        if L.contain.getLsbD 0 = false ∧ L.replayable = true then ∃ M, tget? u.launches b.launch = some M ∧ M.dying.isSome = true
        else (u.ctx L.ctx).dying = true))

/-! ### Power -/

/-- R24, R311, R342: storage that has woken serves, and once in a window a die's governor sets its budget, its pass rate and
its clock from what was measured; how far it goes is the model's free choice within these bounds (log entry 50), and that a
die draws no more than the package's average leaves it is the model's reading (log entry 70).

R207, R301, R309, R332, R339, R341, R344 to R346: a ring's wait ends, a loss-scale step closes, system registers are written
and read, and the device is brought up or stays in recovery.

That bring-up is one step is the model's choice (log entry 52), what a self-test computes is a free value (log entry 30), the
layout of a key and of an image is the model's choice (log entry 13), a register for the links between peers, 0xFFF where nothing has
set it, is the model's choice (log entry 65), and how system software is answered is its reading (log entry 49). -/
def Obligations.PowerAndSystemSteps : Prop :=
  (∀ (s : State) (w : Wake), let p := s.cur.a
    s.up = true → (s.tile p).waking[s.cur.b]? = some w →
    (w.left = 0 → exec .wakeUpEnd s =
      .next (walk (s.modTile p (fun t => { t with waking := t.waking.eraseIdx s.cur.b })) (p / 4))) ∧
    (w.left ≠ 0 → exec .wakeUpEnd s = .next s)) ∧
  (∀ (s : State) (m : Measured), let d := s.cur.a
    let other := s.die (1 - d)
    let left := 64 * s.pwrceil - (((s.die d).spent.take 63).sum +
      (other.spent.take (if (s.die d).windows < other.windows then 64 else 63)).sum)
    let stackDraw := min m.stackPower (2 * left)
    let share := (s.pwrceil - stackDraw) / 2 + other.unused
    let half := (stackDraw + 1) / 2
    let own := min m.own (left - half)
    s.up = true → s.cur.inp = .measured m →
    ((s.die d).window < 256 ∨ other.windows < (s.die d).windows → exec .governorUpdate s = .next s) ∧
    (256 ≤ (s.die d).window → (s.die d).windows ≤ other.windows → own + half ≤ left ∧
      ∃ u cap, exec .governorUpdate s = .next u ∧ 32 ≤ cap ∧ cap ≤ 255 ∧
      u.die d = { s.die d with
        window := 0, budget := min 4095 (share - own), unused := share - own, windows := (s.die d).windows + 1
        spent := (own + half) :: (s.die d).spent.take 63
        energy := (s.die d).energy + BitVec.ofNat 64 m.energy, clock := (u.die d).clock } ∧
      (u.die d).clock < 16 ∧ (cap ≠ 32 → (u.die d).clock = 0) ∧ (∀ e, e ≠ d → u.die e = s.die e) ∧
      (∀ p, p < 100 → let t := (m.temps[p]?).getD 0
        (t < 85 → (u.tile (d * 100 + p)).tempcls = 0) ∧ (85 ≤ t → t < 95 → (u.tile (d * 100 + p)).tempcls = 1) ∧
        (95 ≤ t → t < 105 → (u.tile (d * 100 + p)).tempcls = 2) ∧ (105 ≤ t → (u.tile (d * 100 + p)).tempcls = 3)) ∧
      (∀ p, p < 100 → ∀ x, x ∈ (u.tile (d * 100 + p)).gated → x ∈ (s.tile (d * 100 + p)).gated ∨
        (x ∈ unused s (d * 100 + p) ∧ s.isWaking (d * 100 + p) x = false)) ∧
      (∀ p, p / 100 ≠ d → u.tile p = s.tile p) ∧
      (∀ q, q < 25 → let hot := ∃ i, i < 4 ∧ (u.tile (4 * (d * 25 + q) + i)).tempcls = 3
        u.quad (d * 25 + q) = { s.quad (d * 25 + q) with qrate := (u.quad (d * 25 + q)).qrate } ∧
        (hot → 1 ≤ (u.quad (d * 25 + q)).qrate ∧ (u.quad (d * 25 + q)).qrate ≤ cap / 2) ∧
        (¬ hot → (u.quad (d * 25 + q)).qrate = cap)) ∧
      (∀ q, q / 25 ≠ d → u.quad q = s.quad q) ∧
      (∀ l L, tget? s.launches l = some L → ∃ M, tget? u.launches l = some M ∧
        M = { L with waited := M.waited, passed := L.passed.filter (fun e => e != d) } ∧
        tget 0 M.waited d = tget 0 L.waited d + (if d ∈ L.passed then 1 else 0)) ∧
      u = { s with tiles := u.tiles, quads := u.quads, dies := u.dies, launches := u.launches })) ∧
  (∀ (s : State) (r : RingWait), let vif := s.cur.a
    s.up = true → (s.vif vif).enabled = true → (s.vif vif).waiting = some r →
    ∀ at_, noWaking s → accessOk s (hostAgent r.ctx) false true r.obj.toNat 8 → placed s (hostAgent r.ctx) false r.obj.toNat 0 at_ →
    let obj := memNat s.view at_ 8
    (obj % 2 ^ 48 < r.count → obj / 2 ^ 48 = 0 → exec .waitResume s = .next s) ∧
    (r.count ≤ obj % 2 ^ 48 ∨ obj / 2 ^ 48 ≠ 0 → exec .waitResume s =
      .next (commandSignalled (s.modVif vif (fun v => { v with waiting := none })) r.ctx (r.sig.toNat * 2 ^ 448) 0))) ∧
  (∀ s : State, let ctx := s.cur.a
    let c := s.ctx ctx
    s.up = true →
    (c.stepClosing = false ∨ (∃ l L, (l, L) ∈ s.launches ∧ L.ctx = ctx ∧ L.status = none ∧ l < c.stepMark) →
      exec .lossScaleUpdate s = .next s) ∧
    (c.stepClosing = true → noWaking s → (∀ l L, (l, L) ∈ s.launches → L.ctx = ctx → L.status = none → c.stepMark ≤ l) →
      exec .lossScaleUpdate s = .next (commandSignalled (s.modCtx ctx stepUpdated) ctx (c.stepSig.toNat * 2 ^ 448) 0))) ∧
  (∀ (s : State) (v : W64), s.up = true → s.cur.inp = .value v →
    let good := attField v 60 4 = 0 ∧ 1 ≤ attField v 56 4 ∧ 1 ≤ attField v 52 4 ∧ 4 ≤ attField v 48 4 ∧ 1 ≤ attField v 32 16 ∧
      64 ≤ attField v 20 12 ∧ 2 * attField v 20 12 < attField v 0 16 ∧ 2 ≤ attField v 16 4 ∧ 1024 ≤ attField v 0 16 ∧
      2 * (attField v 0 16 + attField v 20 12) ≤ attField v 32 16 * 256
    (good → exec .attcfgWrite s = .next (answered { s with attcfg := v } (.ok true))) ∧
    (¬ good → exec .attcfgWrite s = .next (answered s (.ok false))) ∧
    (attField v 56 8 = 0 → s.cur.a < 200 → exec .errcntWrite s = .next (answered (s.modTile s.cur.a (fun t => { t with
      errThr := attField v 48 8, errUnc := attField v 32 16, errCorr := attField v 0 32 })) (.ok true))) ∧
    (attField v 56 8 ≠ 0 ∨ 200 ≤ s.cur.a → exec .errcntWrite s = .next (answered s (.ok false)))) ∧
  (∀ (s : State) (r : SysReg) (v : W64), s.up = true → s.cur.inp = .sysReg r v →
    (r = .pwrceil → 1200 ≤ v.toNat → v.toNat ≤ 3000 →
      exec .systemRegisterWrite s = .next (answered { s with pwrceil := v.toNat } (.ok true))) ∧
    (∀ d, r = .peerLinks d → d < 64 → v.toNat < 4096 → ∃ t, exec .systemRegisterWrite s = .next (answered { s with peerLinks := t } (.ok true)) ∧
      ∀ e, tget 0xFFF#12 t e = if e = d then BitVec.ofNat 12 v.toNat else tget 0xFFF#12 s.peerLinks e) ∧
    ((r ≠ .pwrceil ∨ v.toNat < 1200 ∨ 3000 < v.toNat) → (∀ d, r = .peerLinks d → 64 ≤ d ∨ 4096 ≤ v.toNat) →
      exec .systemRegisterWrite s = .next (answered s (.ok false)))) ∧
  (∀ (s : State) (r : SysReg), s.up = true → s.cur.inp = .sysRead r →
    ∃ n, exec .systemRegisterWrite s = .next (answered s (.data (leBytes 8 n))) ∧
      match r with
      | .pwrceil => n = s.pwrceil
      | .diebudget d => n = (s.die d).budget
      | .qrate q => n = (s.quad q).qrate
      | .tempcls p => n = (s.tile p).tempcls
      | .dieenergy d => n = (s.die d).energy.toNat
      | .attcfg => n = s.attcfg.toNat
      | .errcnt p => n = (s.tile p).errCorr + (s.tile p).errUnc * 2 ^ 32 + (s.tile p).errThr * 2 ^ 48
      | .peerLinks d => n = (tget 0xFFF#12 s.peerLinks d).toNat
      | .attstat p =>
        let a := s.att p
        let lonely (d : Nat) : Prop := ∃ x, nbr p d = some x ∧ (s.watch p d).evid ≠ 0 ∧ (liveAround s x).length < 2
        n % 2 ^ 2 = a.reason % 4 ∧ (a.state < 4 → a.appeals < 4 → a.cordons < 16 → a.falseacc < 2 ^ 16 →
          n / 2 ^ 8 % 4 = a.state ∧ n / 2 ^ 10 % 4 = a.appeals ∧ n / 2 ^ 12 % 16 = a.cordons ∧ n / 2 ^ 32 = a.falseacc ∧
          ∀ d, d < 4 → (n.testBit (16 + d) = true ↔ lonely d))) ∧
  (∀ (s : State) (fw : Firmware), s.cur.inp = .firmware fw →
    let golden := Config.fwGolden fw.image
    let good := Config.fusedKey (sha512 fw.key) = true ∧ signatureGood fw.signature fw.key fw.image = true ∧
      Config.fusedVersion ≤ Config.fwVersion fw.image
    (s.up = true ∨ s.inRecovery = true → exec .bringUp s = .next s) ∧
    (s.up = false → s.inRecovery = false → ¬ good → exec .bringUp s = .next { s with inRecovery := true }) ∧
    (s.up = false → s.inRecovery = false → good → ∃ u, exec .bringUp s = .next u ∧
      u = { s with
        up := true, version := Config.fwVersion fw.image, golden := golden, governor := Config.fwGovernor fw.image, meas := u.meas, atts := u.atts
        tiles := u.tiles, spares := u.spares, noQuads := u.noQuads } ∧
      (∀ i, tget 0 u.meas i =
        if i = 0 then measuredWith s 0 (sha512 fw.image)
        else if i = 1 then measuredWith s 1 (sha512 (leBytes 4 golden.toNat))
        else if i = 2 then measuredWith s 2 (sha512 (Config.fwGovernor fw.image))
        else tget 0 s.meas i) ∧
      ∀ p, p < 200 → (u.att p).sig = Config.selfTest p 0 ∧
        (Config.selfTest p 0 = golden → u.tile p = s.tile p ∧ u.att p = { s.att p with sig := golden }) ∧
        (Config.selfTest p 0 ≠ golden → u.tile p = { s.tile p with cordoned := true } ∧ (u.att p).state = 3)))

/-! ### Attendants -/

/-- R290, R293, R294, R331, R332: heartbeats: what an attendant sends, how its neighbour judges it, and how misses and
anomalies are counted.

What a message that cannot be used counts as is the model's reading, and so is that after each step of an attendant every
tally that it changed is judged again (log entry 48). Where a tile of a die lies is presumed (log entry 31). -/
def Obligations.HeartbeatSteps : Prop :=
  (∀ p q, p < 200 → q < 200 → let m := attNo p
    let n := attNo q
    ((∃ d, d < 4 ∧ nbr p d = some q) ↔
      (m / 100 = n / 100 ∧ m % 100 / 10 = n % 100 / 10 ∧ (m % 10 + 1 = n % 10 ∨ n % 10 + 1 = m % 10)) ∨
      (m / 100 = n / 100 ∧ m % 10 = n % 10 ∧ (m % 100 / 10 + 1 = n % 100 / 10 ∨ n % 100 / 10 + 1 = m % 100 / 10)) ∨
      (m < 100 ∧ 100 ≤ n ∧ m % 100 / 10 = n % 100 / 10 ∧ m % 10 = 9 ∧ n % 10 = 0) ∨
      (n < 100 ∧ 100 ≤ m ∧ m % 100 / 10 = n % 100 / 10 ∧ n % 10 = 9 ∧ m % 10 = 0))) ∧
  (∀ s : State, let p := s.cur.a
    let a := s.att p
    let t := s.tile p
    s.up = true →
    (a.toBeat ≠ 0 → exec .heartbeatSend s = .next (settleVotes 256 s)) ∧
    (a.toBeat = 0 →
      let digest := (if a.sig = s.golden then 0 else 2 ^ 15) + t.tempcls % 4 * 2 ^ 13 +
        (if t.errThr ≠ 0 ∧ t.errThr ≤ t.corrBeat then 2 ^ 12 else 0) + min 0xFFF t.corrBeat
      let w : W64 := BitVec.ofNat 64 (1 * 2 ^ 60 + attNo p * 2 ^ 52 + (a.seq.toNat * 2 ^ 16 + digest))
      exec .heartbeatSend s = .next (settleVotes 256 (((handedAll s p ([0, 1, 2, 3].filterMap (nbr p)) w).modAtt p (fun a => { a with
        seq := a.seq + 1, toBeat := attField s.attcfg 0 16, cfg := s.attcfg })).modTile p (fun t => { t with corrBeat := 0 }))))) ∧
  (∀ (s : State) (x : Nat) (w : W64) (rest : List W64), let a := s.cur.a
    let d := s.cur.b
    let y := s.watch a d
    let c := (s.att a).cfg
    let seq : W32 := BitVec.ofNat 32 (attField w 16 32)
    s.up = true → d < 4 → nbr a d = some x → tget [] (s.att a).bufs d = w :: rest → letterType w = 1 → letterFrom w = x →
    y.msgs < attField c 48 4 → attField w 48 4 = 0 →
    let faults : Nat := match y.beat with
      | none => 0
      | some (t, q) => (if t < attField c 0 16 - attField c 20 12 then 1 else 0) + (if seq = q + 1 then 0 else 1)
    let u := letterTaken s a d rest
    (faults = 0 → y.vote ≠ .voting ∨ y.reason ≠ 1 →
      exec .heartbeat s = .next (settleVotes 256 (u.modWatch a d (fun y => { y with
        msgs := y.msgs + 1, beat := some (0, seq), since := 0, misses := 0, evid := if y.evid = 1 then 0 else y.evid })))) ∧
    (faults = 0 → y.vote = .voting → y.reason = 1 →
      exec .heartbeat s = .next (settleVotes 256 ((handedAll (u.modWatch a d (fun y => { y with
        msgs := y.msgs + 1, beat := some (0, seq), since := 0, misses := 0, evid := if y.evid = 1 then 0 else y.evid })) a (around a x)
          (letter 4 a x (1 * 2 ^ 42))).modWatch a d (fun y =>
        let t := y.tally.filter (fun v => v != a)
        if t = [] then { y with tally := [], vote := .clear, window := 0 } else { y with tally := t, vote := .pending })))) ∧
    (faults ≠ 0 →
      let z : Watch := { y with
        msgs := y.msgs + 1, beat := some (0, seq), anoms := (List.replicate faults 0 ++ y.anoms).take 15, quiet := 0 }
      let v := u.modWatch a d (fun _ => z)
      (z.anoms.countP (fun t => t ≤ voteWindow c) < attField c 52 4 ∨ y.vote = .cordoned →
        exec .heartbeat s = .next (settleVotes 256 v)) ∧
      (attField c 52 4 ≤ z.anoms.countP (fun t => t ≤ voteWindow c) → y.vote = .clear ∨ y.vote = .pending →
        ∃ t, exec .heartbeat s = .next (settleVotes 256 t) ∧ tallyJudged (evidenceGained v a d x 2) t a d x) ∧
      (attField c 52 4 ≤ z.anoms.countP (fun t => t ≤ voteWindow c) → y.vote = .voting →
        exec .heartbeat s = .next (settleVotes 256 (v.modWatch a d (fun y => { y with evid := 2 })))))) ∧
  (∀ (s : State) (x : Nat), let a := s.cur.a
    let d := s.cur.b
    let y := s.watch a d
    let c := (s.att a).cfg
    s.up = true → d < 4 → nbr a d = some x →
    (y.since < attField c 0 16 + attField c 20 12 ∨ (∃ w, w ∈ tget [] (s.att a).bufs d ∧ letterType w = 1) →
      exec .heartbeatMiss s = .next (settleVotes 256 s)) ∧
    (attField c 0 16 + attField c 20 12 ≤ y.since → (∀ w, w ∈ tget [] (s.att a).bufs d → letterType w ≠ 1) →
      let n := min 15 (y.misses + 1)
      let u := s.modWatch a d (fun y => { y with misses := n, since := 0, quiet := 0 })
      (n < attField c 16 4 ∨ y.vote = .cordoned → exec .heartbeatMiss s = .next (settleVotes 256 u)) ∧
      (attField c 16 4 ≤ n → y.vote = .clear ∨ y.vote = .pending →
        ∃ t, exec .heartbeatMiss s = .next (settleVotes 256 t) ∧ tallyJudged (evidenceGained u a d x 1) t a d x) ∧
      (attField c 16 4 ≤ n → y.vote = .voting →
        exec .heartbeatMiss s = .next (settleVotes 256 (u.modWatch a d (fun y => { y with evid := 1 })))))) ∧
  (∀ s : State, let a := s.cur.a
    let n := voteWindow (s.att a).cfg
    s.up = true → exec .evidenceLapse s = .next (settleVotes 256 (s.modWatch a s.cur.b (fun y => { y with
      anoms := if (∀ t, t ∈ y.anoms → n ≤ t) then [] else y.anoms, evid := if n ≤ y.quiet then 0 else y.evid })))) ∧
  (∀ (s : State) (w : W64) (rest : List W64), let a := s.cur.a
    let l := s.cur.b
    s.up = true → tget [] (s.att a).bufs l = w :: rest → letterType w = 0 ∨ 9 ≤ letterType w →
    let u := letterTaken s a l rest
    ((∀ e, e < 4 → nbr a e ≠ some (letterFrom w)) → exec .unassignedMessage s = .next (settleVotes 256 u)) ∧
    (∀ e, e < 4 → nbr a e = some (letterFrom w) → (s.watch a e).msgs < attField (s.att a).cfg 48 4 →
      let z := (0 :: (s.watch a e).anoms).take 15
      z.countP (fun t => t ≤ voteWindow (s.att a).cfg) < attField (s.att a).cfg 52 4 →
      exec .unassignedMessage s = .next (settleVotes 256 (u.modWatch a e (fun y => { y with msgs := y.msgs + 1, anoms := z, quiet := 0 })))))

/-- R291, R295 to R297: the vote on a neighbour: accusations and votes join the tally, withdrawals leave it, a majority cuts
the link, a cordon message that names one is followed, and a window that ends below it drops the tally. When nothing is left
to judge, judging changes nothing.

The order of a tile's windows, and that every tally is judged again after each step of an attendant, is the model's reading
(log entry 48). -/
def Obligations.VoteSteps : Prop :=
  (∀ (s : State) (x d : Nat) (w : W64) (rest : List W64) (i : Instr), let a := s.cur.a
    let l := s.cur.b
    let y := s.watch a d
    let b := letterFrom w
    s.up = true → d < 4 → nbr a d = some x → tget [] (s.att a).bufs l = w :: rest → letterAbout w = x →
    (∀ e, e < 4 → nbr a e ≠ some b) → attField w 0 42 = 0 → letterReason w = 1 ∨ letterReason w = 2 →
    let u := letterTaken s a l rest
    ((i = .accuse ∧ letterType w = 2) ∨ (i = .vote ∧ letterType w = 3) →
      ((s.tile b).cordoned = true ∨ y.vote = .cordoned → exec i s = .next (settleVotes 256 u)) ∧
      ((s.tile b).cordoned = false →
        (y.vote = .clear → exec i s = .next (settleVotes 256 (u.modWatch a d (fun y => { y with
          vote := .pending, tally := [b], window := voteWindow (s.att a).cfg })))) ∧
        (y.vote = .pending → exec i s = .next (settleVotes 256 (u.modWatch a d (fun y => { y with tally := withVoter y.tally b })))) ∧
        (y.vote = .voting → ∃ t, exec i s = .next (settleVotes 256 t) ∧
          tallyJudged (u.modWatch a d (fun y => { y with tally := withVoter y.tally b })) t a d x))) ∧
    (i = .withdraw → letterType w = 4 →
      let t := y.tally.filter (fun v => v != b)
      (y.vote = .pending → t = [] → exec i s = .next (settleVotes 256 (u.modWatch a d (fun y => { y with
        tally := [], vote := .clear, window := 0 })))) ∧
      (y.vote = .pending → t ≠ [] → exec i s = .next (settleVotes 256 (u.modWatch a d (fun y => { y with tally := t })))) ∧
      (y.vote = .voting → ∃ v, exec i s = .next (settleVotes 256 v) ∧ tallyJudged (u.modWatch a d (fun y => { y with tally := t })) v a d x) ∧
      (y.vote = .clear ∨ y.vote = .cordoned → exec i s = .next (settleVotes 256 (u.modWatch a d (fun y => y)))))) ∧
  (∀ s : State, let a := s.cur.a
    let d := s.cur.b
    let y := s.watch a d
    s.up = true →
    (y.window ≠ 0 ∨ y.vote = .clear ∨ y.vote = .cordoned → exec .voteWindowEnd s = .next (settleVotes 256 s)) ∧
    (y.window = 0 → y.vote = .pending → exec .voteWindowEnd s =
      .next (settleVotes 256 (s.modWatch a d (fun y => { y with vote := .clear, tally := [] })))) ∧
    (y.window = 0 → y.vote = .voting → (∀ x, nbr a d = some x → ¬ inMajority s x y.tally.length) →
      exec .voteWindowEnd s = .next (settleVotes 256 ((s.modWatch a d (fun y => { y with
        vote := .clear, tally := [], misses := 0, anoms := [], evid := 0, since := 0 })).modAtt a (fun z => { z with
        falseacc := min 0xFFFF (z.falseacc + 1) })))) ∧
    (∀ x, y.window = 0 → y.vote = .voting → nbr a d = some x → inMajority s x y.tally.length →
      ∃ t, exec .voteWindowEnd s = .next (settleVotes 256 t) ∧ tallyJudged s t a d x)) ∧
  (∀ (s : State) (w : W64) (rest : List W64), let a := s.cur.a
    let l := s.cur.b
    let x := letterAbout w
    s.up = true → tget [] (s.att a).bufs l = w :: rest → letterType w = 5 →
    (∀ e, e < 4 → nbr a e ≠ some (letterFrom w)) → attField w 0 38 = 0 → letterReason w = 1 ∨ letterReason w = 2 →
    let u := letterTaken s a l rest
    (¬ inMajority s x (letterMask w) ∨ (∀ d, d < 4 → nbr a d ≠ some x) → exec .cordon s = .next (settleVotes 256 u)) ∧
    (∀ d, inMajority s x (letterMask w) → d < 4 → nbr a d = some x →
      ((s.watch a d).vote = .cordoned → exec .cordon s = .next (settleVotes 256 u)) ∧
      ((s.watch a d).vote ≠ .cordoned → ∃ t, exec .cordon s = .next (settleVotes 256 t) ∧ linkCut u t a d x (letterReason w)))) ∧
  ∀ s : State, votesQuiet s → settleVotes 256 s = s

/-- R298 to R301, R331: a cordoned tile tests itself, is scrubbed and appeals; its neighbours' verdicts readmit it, or it
retires.

What a self-test computes is a free value (log entry 30); the order of a tile's windows is the model's reading (log entry
48). That the spare quad of a die is its quad 24, on which a retirement rests, is presumed (log entry 31). -/
def Obligations.AppealSteps : Prop :=
  (∀ s : State, let x := s.cur.a
    let a := s.att x
    let under := ∃ q d, nbr q d = some x ∧ d < 4 ∧ ([0, 1, 2, 3].filterMap (nbr x)).contains q = true ∧
      ((s.watch q d).verdicts ≠ none ∨ ∃ w, w ∈ tget [] (s.att q).bufs d ∧ letterType w = 6)
    s.up = true →
    ((s.tile x).cordoned = false ∨ a.testing = false ∨ a.state = 3 ∨ 3 ≤ a.appeals ∨ under →
      exec .selfTestComplete s = .next (settleVotes 256 s)) ∧
    ((s.tile x).cordoned = true → a.testing = true → a.state ≠ 3 → a.appeals < 3 → ¬ under →
      ∃ (u : State) (sig : W32), exec .selfTestComplete s = .next (settleVotes 256 (handedAll u x ([0, 1, 2, 3].filterMap (nbr x))
          (BitVec.ofNat 64 (6 * 2 ^ 60 + attNo x * 2 ^ 52 + ((a.appeals + 1) * 2 ^ 48 + sig.toNat))))) ∧
        (∀ j, j < 393216 → u.peek (sramKey x j) = 0) ∧
        (∀ k, (∀ j, j < 393216 → k ≠ sramKey x j) → u.peek k = s.peek k) ∧
        (∀ n i j, n < 64 → i < 128 → j < 128 → (u.quad (x / 4)).elem n i j =
          if n / 16 = x % 4 then 0 else (s.quad (x / 4)).elem n i j) ∧
        u.att x = { a with sig := sig, testing := false, appeals := a.appeals + 1, state := 2 } ∧
        (∀ p, p ≠ x → u.att p = s.att p ∧ u.tile p = s.tile p) ∧
        u.tile x = { s.tile x with
          l1 := [], scode := [], lcode := [], tlb := [], gated := [], gatedNow := [], waking := [] } ∧
        u = { s with mem := u.mem, wq := u.wq, poison := u.poison, quads := u.quads, tiles := u.tiles, atts := u.atts })) ∧
  (∀ (s : State) (d : Nat) (w : W64) (rest : List W64), let a := s.cur.a
    let x := letterFrom w
    let y := s.watch a d
    let good := attField w 0 32 = s.golden.toNat ∧ 1 ≤ attField w 48 4 ∧ attField w 48 4 ≤ 3
    s.up = true → s.cur.b = d → d < 4 → nbr a d = some x → tget [] (s.att a).bufs d = w :: rest → letterType w = 6 →
    attField w 32 16 = 0 → y.msgs < attField (s.att a).cfg 48 4 →
    let u := (letterTaken s a d rest).modWatch a d (fun y => { y with msgs := y.msgs + 1 })
    (y.vote ≠ .cordoned → exec .appeal s = .next (settleVotes 256 u)) ∧
    (y.vote = .cordoned → ∃ t, exec .appeal s = .next (settleVotes 256 t) ∧
      (good → verdictsJudged ((handedAll u a ((liveAround s x).filter (fun q => q != a)) (letter 7 a x (2 ^ 43))).modWatch a d
        (fun y => { y with accepts := [a], verdicts := some (voteWindow (s.att a).cfg) })) t a d x) ∧
      (¬ good → verdictsJudged ((handedAll u a ((liveAround s x).filter (fun q => q != a)) (letter 7 a x 0)).modWatch a d
        (fun y => { y with accepts := [], verdicts := some (voteWindow (s.att a).cfg) })) t a d x))) ∧
  (∀ (s : State) (d : Nat) (w : W64) (rest : List W64), let a := s.cur.a
    let l := s.cur.b
    let x := letterAbout w
    let y := s.watch a d
    s.up = true → d < 4 → nbr a d = some x → tget [] (s.att a).bufs l = w :: rest → (∀ e, e < 4 → nbr a e ≠ some (letterFrom w)) →
    let u := letterTaken s a l rest
    (letterType w = 7 → attField w 0 43 = 0 →
      (y.vote ≠ .cordoned ∨ y.verdicts = none ∨ (s.tile (letterFrom w)).cordoned = true ∨ w.getLsbD 43 = false →
        exec .verdict s = .next (settleVotes 256 u)) ∧
      (y.vote = .cordoned → y.verdicts ≠ none → (s.tile (letterFrom w)).cordoned = false → w.getLsbD 43 = true →
        ∃ t, exec .verdict s = .next (settleVotes 256 t) ∧
        verdictsJudged (u.modWatch a d (fun y => { y with accepts := withVoter y.accepts (letterFrom w) })) t a d x)) ∧
    (letterType w = 8 → attField w 0 38 = 0 → attField w 42 2 = 0 →
      (¬ inMajority s x (letterMask w) ∨ y.vote ≠ .cordoned → exec .readmit s = .next (settleVotes 256 u)) ∧
      (inMajority s x (letterMask w) → y.vote = .cordoned → exec .readmit s =
        .next (settleVotes 256 (((u.modWatch a d (fun y => { Watch.init with msgs := y.msgs, anoms := y.anoms })).modTile x
          (fun t => { t with cordoned := false })).modAtt x
          (fun z => if z.state = 3 then z else { z with state := 0, testing := false })))))) ∧
  (∀ (s : State) (x : Nat), let a := s.cur.a
    let d := s.cur.b
    s.up = true → d < 4 → nbr a d = some x →
    ((s.watch a d).verdicts ≠ some 0 → exec .appealWindowEnd s = .next (settleVotes 256 s)) ∧
    ((s.watch a d).verdicts = some 0 → inMajority s x (s.watch a d).accepts.length →
      ∃ t, exec .appealWindowEnd s = .next (settleVotes 256 t) ∧ verdictsJudged s t a d x) ∧
    ((s.watch a d).verdicts = some 0 → ¬ inMajority s x (s.watch a d).accepts.length →
      let u := s.modWatch a d (fun y => { y with verdicts := none, accepts := [] })
      let under := ∃ q e, nbr q e = some x ∧ e < 4 ∧ ([0, 1, 2, 3].filterMap (nbr x)).contains q = true ∧
        ((u.watch q e).verdicts ≠ none ∨ ∃ w, w ∈ tget [] (u.att q).bufs e ∧ letterType w = 6)
      ((s.tile x).cordoned = false ∨ under ∨ (s.att x).state = 3 → exec .appealWindowEnd s = .next (settleVotes 256 u)) ∧
      ((s.tile x).cordoned = true → ¬ under → (s.att x).state ≠ 3 →
        (3 ≤ (s.att x).appeals → ∃ t, exec .appealWindowEnd s = .next (settleVotes 256 t) ∧ tileRetired u t x) ∧
        ((s.att x).appeals < 3 → exec .appealWindowEnd s =
          .next (settleVotes 256 (u.modAtt x (fun z => { z with state := 1, testing := true })))))))

/-! ### The host -/

/-- R161, R300, R315, R336, R338, R345, R367: the host's transactions: reads, writes and atomics of device memory, the
doorbell, and management of the interfaces, of the measurements and of attestation.

How a refused transaction is answered is the model's reading (log entry 49), and the bytes of the settings that MEAS3 takes in, of a
report and of its signature are laid out as the model chooses (log entry 13). That the spare quad of a die is its quad 24, on
which the map of a new context rests, is presumed (log entry 31). -/
def Obligations.HostTransactions : Prop :=
  (∀ (s : State), let ctx := s.cur.a * 16 + s.cur.b
    let ag := hostAgent ctx
    (∀ (va : W64) (n : Nat), s.cur.inp = .mrd va n → noWaking s →
      (¬ hostReaches s ctx ∨ n = 0 ∨ 256 < n ∨ rangeFails s ag false va.toNat n → exec .mrd s = .next (answered s (.ok false))) ∧
      (hostReaches s ctx → 1 ≤ n → n ≤ 256 → rangeGood s ag false va.toNat n →
        ∃ bs, exec .mrd s = .next (answered s (.data bs)) ∧ bs.length = n ∧
          ∀ i k, i < n → placed s ag false va.toNat i k → byteAt bs i = s.peek k)) ∧
    (∀ (va : W64) (bs : List Byte), s.cur.inp = .mwr va bs → noWaking s → let n := bs.length
      (¬ hostReaches s ctx ∨ n = 0 ∨ 256 < n ∨ rangeFails s ag true va.toNat n → exec .mwr s = .next (answered s (.ok false))) ∧
      (hostReaches s ctx → 1 ≤ n → n ≤ 256 → rangeGood s ag true va.toNat n →
        ∃ u, exec .mwr s = .next (answered u (.ok true)) ∧ u = { s with mem := u.mem, wq := u.wq, poison := u.poison } ∧
          (∀ i k, i < n → placed s ag true va.toNat i k → u.peek k = byteAt bs i) ∧
          ∀ k, (∀ i, i < n → ¬ placed s ag true va.toNat i k) → u.peek k = s.peek k)) ∧
    (∀ (va : W64) (fn : AtomFn) (ty : Ty) (b c : W64), s.cur.inp = .matom va fn ty b c → noWaking s → let n := bitsOf ty / 8
      (¬ hostReaches s ctx → exec .matom s = .next (answered s (.ok false))) ∧
      (hostReaches s ctx → ¬ hostAtomic fn ty → exec .matom s = .next (answered s (.ok false))) ∧
      (hostReaches s ctx → hostAtomic fn ty →
        b.toNat < 2 ^ bitsOf ty → c.toNat < 2 ^ bitsOf ty →
        (va.toNat % n ≠ 0 → exec .matom s = .next (answered s (.ok false))) ∧
        (∀ k, va.toNat % n = 0 → rangeGood s ag true va.toNat n → placed s ag true va.toNat 0 k →
          let old := leNat n ((List.range n).map (fun i => s.peek (k + i)))
          ∃ u, exec .matom s = .next (answered u (.data (leBytes n old))) ∧ u = { s with mem := u.mem, wq := u.wq, poison := u.poison } ∧
            (∀ i, i < n → u.peek (k + i) = byteAt (leBytes n (atomicNew ty old b.toNat c.toNat fn)) i) ∧
            ∀ j, j < k ∨ k + n ≤ j → u.peek j = s.peek j)))) ∧
  (∀ (s : State) (tail : W32), let v := s.cur.a
    s.cur.inp = .dbell tail →
    (s.up = true → (s.vif v).enabled = true →
      exec .dbell s = .next (s.modVif v (fun x => { x with tail := tail.toNat % 2 ^ x.ringK }))) ∧
    (s.up = false ∨ (s.vif v).enabled = false → exec .dbell s = .next s)) ∧
  (∀ (s : State), let no := exec .mgmt s = .next (answered s (.ok false))
    (s.cur.inp = .mgmt .status → ∃ w, exec .mgmt s = .next (answered s (.data (leBytes 8 w)))) ∧
    (∀ m, s.cur.inp = .mgmt m → m ≠ .status → s.up = false ∨ s.inRecovery = true → no) ∧
    (s.up = true → s.inRecovery = false →
      (∀ v x n, s.cur.inp = .mgmt (.set v x n) →
        (64 ≤ v ∨ (s.vif v).enabled = true ∨ ¬ settingRange s v x n → no) ∧
        (v < 64 → (s.vif v).enabled = false → settingRange s v x n → (∀ c, x ≠ .root c) →
          exec .mgmt s = .next (answered (s.modVif v (fun y => withSetting y n x)) (.ok true))) ∧
        (∀ c, v < 64 → (s.vif v).enabled = false → settingRange s v x n → x = .root c →
          let serves (d : Nat) : Bool := match tget none s.spares d with
            | some q => q != 24
            | none => false
          exec .mgmt s = .next (answered (s.modCtx (v * 16 + c) (fun y =>
            if y.root = 0 ∧ BitVec.ofNat 64 n ≠ (0 : W64) ∧ (∀ e, e ∈ s.wgs → e.2.ctx ≠ v * 16 + c) ∧
                (∀ e, e ∈ s.launches → e.2.ctx ≠ v * 16 + c) then
              { y with root := BitVec.ofNat 64 n, spare0 := serves 0, spare1 := serves 1, noQuads := s.noQuads }
            else { y with root := BitVec.ofNat 64 n })) (.ok true)))) ∧
      (∀ v, s.cur.inp = .mgmt (.enable v) →
        (64 ≤ v ∨ (s.vif v).enabled = true ∨ ¬ interfaceWhole (s.vif v) → no) ∧
        (v < 64 → (s.vif v).enabled = false → interfaceWhole (s.vif v) →
          exec .mgmt s = .next (answered (({ s with
              meas := tset s.meas 3 (measuredWith s 3 (sha512 (settingBytes s v))) }).modVif v (fun y => { y with
            enabled := true, head := 0, tail := 0, waiting := none, faultHead := 0, drops := 0 })) (.ok true)))) ∧
      (∀ v, s.cur.inp = .mgmt (.disable v) →
        ((s.vif v).enabled = false → no) ∧
        ((s.vif v).enabled = true → exec .mgmt s = .next (answered (s.modVif v (fun y => { y with enabled := false })) (.ok true)))) ∧
      (∀ i d, s.cur.inp = .mgmt (.extend i d) →
        (i < 4 ∨ 7 < i → no) ∧
        (4 ≤ i → i ≤ 7 → exec .mgmt s = .next (answered { s with meas := tset s.meas i (measuredWith s i d) } (.ok true)))) ∧
      (∀ n, s.cur.inp = .mgmt (.attest n) →
        let r := leBytes 64 n.toNat ++ (List.range 8).flatMap (fun i => leBytes 64 (tget 0 s.meas i).toNat) ++ leBytes 8 s.version ++
          leBytes 8 (capDev s s.cur.b)
        ∃ em, em.length = 512 ∧ pssOk em (shaBytes r) = true ∧ exec .mgmt s = .next (answered s (.data (r ++ beBytes 512
          (powMod Config.identityModulus.toNat 4096 (beNat em) Config.identityExponent.toNat)))))))

/-- R20, R21, R207, R251, R305 to R307, R315, R316, R320, R327, R329, R339, R341: the commands of a ring, in order; each is
refused with CMD_BAD or CTX_STOPPED, or has its effect and signals.

Where the ring lies and which commands wait are the model's reading (log entry 49); the place of a saved parameter block is
free (log entry 44), and a page past the end of the device's HBM has no storage (log entry 64). That WRREG of GPATCNT takes 0 to 16 as
long as the entries stay apart from other interfaces', whatever MGMT set, is the model's reading (log entry 69). -/
def Obligations.RingCommands : Prop :=
  ∀ (s : State) (ctx w : Nat), let vif := s.cur.a
    let done (i : Instr) (u : State) (st : Nat) : Prop := exec i s = .next (commandDone u ctx w st)
    let A0 := slotA0 w
    let A1 := slotA1 w
    let A2 := slotA2 w
    let c := s.ctx ctx
    let dies := [0, 1].filter (fun d => A2.testBit d)
    (∀ i op, commandOf i = some op → slotRead s vif ctx w →
      (¬ slotFormed s ctx w → done i s 4) ∧
      (slotFormed s ctx w → slotField w 0 8 = op → c.stopped = true → op ≠ 10 → done i s 5) ∧
      (slotFormed s ctx w → slotField w 0 8 ≠ op → exec i s = .next s)) ∧
    (command s vif ctx w 1 →
      let ag := hostAgent ctx
      let l := s.nextLaunch
      (A0 % 64 ≠ 0 ∨ rangeFails s ag false A0 64 → done .launch s 1) ∧
      (∀ d, A0 % 64 = 0 → rangeGood s ag false A0 64 → d = leNat 64 (engBytes s ag A0 64) →
        (¬ descriptorFormed d → ∃ u L, done .launch u 1 ∧
          (slotField d 128 64 = 0 → u = { s with nextLaunch := l + 1, launches := tdel s.launches l }) ∧
          (slotField d 128 64 ≠ 0 → (∃ k, xlAccess s ag true true (slotField d 128 64) 8 = .ok k) →
            u = { signal { s with nextLaunch := l + 1, launches := tset s.launches l L } ⟨ag, none, 0x8F000000 + vif⟩
              (BitVec.ofNat 64 (slotField d 128 64)) 0 1 with launches := tdel s.launches l })) ∧
        (∀ img ps, admissible s ctx d = some (img, ps) →
          descriptorFormed d ∧ ps.length = slotField d 240 16 * 16 ∧
          (1024 ≤ inQueue s vif (slotField d 281 3) → exec .launch s = .next s) ∧
          (inQueue s vif (slotField d 281 3) < 1024 → ps ≠ [] → paramSlot s ctx = none → exec .launch s = .next s) ∧
          (inQueue s vif (slotField d 281 3) < 1024 → ps = [] →
            ∃ u, done .launch u 0 ∧ u = { s with
              nextLaunch := l + 1, launches := tset s.launches l (acceptedLaunch s ctx A0 d 0 img), tiles := u.tiles } ∧
              ∀ p, u.tile p = { s.tile p with l1 := (u.tile p).l1, scode := (u.tile p).scode, lcode := (u.tile p).lcode }) ∧
          (∀ va, inQueue s vif (slotField d 281 3) < 1024 → ps ≠ [] → paramSlot s ctx = some va → va + ps.length ≤ 2 ^ 64 →
            rangeGood s ag true va ps.length →
            ∃ u, done .launch u 0 ∧ u.nextLaunch = l + 1 ∧
              u.launches = tset s.launches l (acceptedLaunch s ctx A0 d va img) ∧
              (∀ i k, i < ps.length → placed s ag true va i k → u.peek k = byteAt ps i) ∧
              (∀ k, (∀ i, i < ps.length → ¬ placed s ag true va i k) → u.peek k = s.peek k) ∧
              u = { s with mem := u.mem, wq := u.wq, poison := u.poison, nextLaunch := u.nextLaunch, launches := u.launches, tiles := u.tiles })))) ∧
    (command s vif ctx w 2 →
      (¬ targetFormed A0 → done .signal s 4) ∧
      (targetFormed A0 → done .signal (signal s ⟨hostAgent ctx, none, 0x8F000000 + vif⟩ (BitVec.ofNat 64 A0) (A1 % 2 ^ 48) (A1 / 2 ^ 48)) 0)) ∧
    (command s vif ctx w 3 →
      (2 ^ 48 ≤ A1 → done .wait s 4) ∧
      (∀ at_, A1 < 2 ^ 48 → accessOk s (hostAgent ctx) false true A0 8 → placed s (hostAgent ctx) false A0 0 at_ →
        let obj := memNat s.view at_ 8
        (A1 ≤ obj % 2 ^ 48 ∨ obj / 2 ^ 48 ≠ 0 → done .wait s 0) ∧
        (obj % 2 ^ 48 < A1 → obj / 2 ^ 48 = 0 → exec .wait s = .next (ringOn (s.modVif vif (fun v => { v with
          waiting := some ⟨BitVec.ofNat 64 A0, ctx, A1, BitVec.ofNat 64 (slotField w 448 64)⟩ })) vif)))) ∧
    (command s vif ctx w 4 →
      (A0 = 0x060 → (A1 < 2 ^ 8 → done .wrreg (s.modCtx ctx (fun x => { x with contain := BitVec.ofNat 64 A1 })) 0) ∧
        (2 ^ 8 ≤ A1 → done .wrreg s 4)) ∧
      (A0 = 0x061 → (A1 < 2 ^ 48 → done .wrreg (s.modCtx ctx (fun x => { x with wdlim := BitVec.ofNat 64 A1 })) 0) ∧
        (2 ^ 48 ≤ A1 → done .wrreg s 4)) ∧
      (A0 = 0x062 → (A1 < 2 ^ 48 → done .wrreg (s.modCtx ctx (fun x => { x with extlim := BitVec.ofNat 64 A1 })) 0) ∧
        (2 ^ 48 ≤ A1 → done .wrreg s 4)) ∧
      (A0 = 0x063 → (¬ powerWord A1 → done .wrreg s 4) ∧
        (powerWord A1 → c.stepOpen = true →
          done .wrreg (s.modCtx ctx (fun x => { x with lscaleHeld := some (BitVec.ofNat 32 A1) })) 0) ∧
        (powerWord A1 → c.stepOpen = false → done .wrreg (s.modCtx ctx (fun x => { x with
          lscale := BitVec.ofNat 32 A1, lscnt := if x.lscale = BitVec.ofNat 32 A1 then x.lscnt else 0 })) 0)) ∧
      (A0 = 0x064 → (0 < A1 → A1 < 2 ^ 32 → done .wrreg (s.modCtx ctx (fun x => { x with lsn := BitVec.ofNat 32 A1 })) 0) ∧
        (A1 = 0 ∨ 2 ^ 32 ≤ A1 → done .wrreg s 4)) ∧
      (A0 = 0x067 → (settingRange s vif .gpatCnt A1 → done .wrreg (s.modVif vif (fun v => { v with gpatUse := A1 })) 0) ∧
        (¬ settingRange s vif .gpatCnt A1 → done .wrreg s 4)) ∧
      (0x040 ≤ A0 → A0 ≤ 0x046 → dies = [] ∨ 4 ≤ A2 → done .wrreg s 4) ∧
      (A0 < 0x040 ∨ (0x046 < A0 ∧ A0 < 0x060) ∨ A0 = 0x065 ∨ A0 = 0x066 ∨ 0x067 < A0 → done .wrreg s 4) ∧
      (A2 < 4 → dies ≠ [] →
        (A0 = 0x044 → (1 ≤ A1 → A1 ≤ 128 →
            done .wrreg (dies.foldl (fun s d => s.modDctx (d * 1024 + ctx) (fun x => { x with specdepth := A1 })) s) 0) ∧
          (A1 = 0 ∨ 128 < A1 → done .wrreg s 4)) ∧
        (A0 = 0x045 → (1 ≤ A1 → A1 ≤ 4096 → (∀ d, d ∈ dies → A1 ≤ (s.dctx (d * 1024 + ctx)).bfqmax) →
            (∀ d, d ∈ dies → (s.dctx (d * 1024 + ctx)).waiting = []) →
            done .wrreg (dies.foldl (fun s d => s.modDctx (d * 1024 + ctx) (fun x => { x with bfqthr := A1 })) s) 0) ∧
          (A1 = 0 ∨ 4096 < A1 ∨ (∃ d, d ∈ dies ∧ (s.dctx (d * 1024 + ctx)).bfqmax < A1) → done .wrreg s 4)) ∧
        (A0 = 0x046 → (A1 ≤ 4096 → (∀ d, d ∈ dies → (s.dctx (d * 1024 + ctx)).bfqthr ≤ A1) →
            (∀ d, d ∈ dies → (s.dctx (d * 1024 + ctx)).waiting = []) →
            done .wrreg (dies.foldl (fun s d => s.modDctx (d * 1024 + ctx) (fun x => { x with bfqmax := A1 })) s) 0) ∧
          (4096 < A1 ∨ (∃ d, d ∈ dies ∧ A1 < (s.dctx (d * 1024 + ctx)).bfqthr) → done .wrreg s 4)) ∧
        (0x040 ≤ A0 → A0 ≤ 0x043 →
          ((∃ d, d ∈ dies ∧ ringBlocked s d ctx) → ∃ u, exec .wrreg s = .next u ∧ u = { s with dies := u.dies } ∧
            ∀ d, u.die d = if d ∈ dies ∧ ∀ k, k ∈ (s.die d).cab → ringMarks ctx k = false then
              { s.die d with cab := (s.die d).cab ++ [ringMarker ctx] } else s.die d) ∧
          ((∀ d, d ∈ dies → ¬ ringBlocked s d ctx) → ∀ d, dies = [d] → let t := unmarked s ctx dies
            match writeDdReg t (d * 1024 + ctx) (hostAgent ctx) A0 (BitVec.ofNat 64 A1) with
            | .done v => done .wrreg v 0
            | .lost v => done .wrreg v 0x20
            | .cause e => if e = 0x002 ∨ e = 0x152 then done .wrreg t 4 else done .wrreg t (0x8000 + e.toNat))))) ∧
    (command s vif ctx w 5 →
      let es := (List.range 16).map (fun i => slotField (A0 + A1 * 2 ^ 64) (8 * i) 8)
      (dies = [] ∨ 4 ≤ A2 ∨ (∃ e, e ∈ es ∧ 128 < e) → done .depth s 4) ∧
      (dies ≠ [] → A2 < 4 → (∀ e, e ∈ es → e ≤ 128) →
        done .depth (dies.foldl (fun s d => s.modDctx (d * 1024 + ctx) (fun x => { x with depth := es })) s) 0)) ∧
    (command s vif ctx w 6 →
      (2 ^ 52 < A0 + A1 → done .inval s 4) ∧
      (A0 + A1 ≤ 2 ^ 52 →
        let hit (x : Nat × W64) : Bool :=
          x.1 / 2 ^ 36 == ctx && decide (x.1 % 2 ^ 36 * 65536 < A0 + A1) && decide (A0 < (x.1 % 2 ^ 36 + 1) * 65536)
        done .inval { s with
          tiles := s.tiles.map (fun e => (e.1, { e.2 with tlb := e.2.tlb.filter (fun x => !hit x) }))
          dies := s.dies.map (fun e => (e.1, { e.2 with walks := e.2.walks.filter (fun x => !hit x) })) } 0)) ∧
    (command s vif ctx w 7 →
      (c.stepOpen = true → done .stepbegin s 4) ∧
      (c.stepOpen = false → done .stepbegin (s.modCtx ctx (fun x => { x with stepOpen := true, lsovf := false })) 0)) ∧
    (command s vif ctx w 8 →
      (c.stepOpen = false → done .stepend s 4) ∧
      (c.stepOpen = true → c.stepClosing = false → exec .stepend s = .next (ringOn (s.modCtx ctx (fun x => { x with
        stepClosing := true, stepMark := s.nextLaunch, stepSig := BitVec.ofNat 64 (slotField w 448 64) })) vif))) ∧
    (command s vif ctx w 9 →
      ((ctxPages s ctx).find? (fun p => p.va == A0) = none → done .pagewr s 4) ∧
      (∀ p, (ctxPages s ctx).find? (fun p => p.va == A0) = some p →
        let dst := pteKey p.pte p.va
        let past := dst < 2 ^ 52 ∧ 687194767360 < dst + p.size
        (A1 + p.size > 2 ^ 52 ∨ past → done .pagewr s 4) ∧
        (A1 + p.size ≤ 2 ^ 52 → ¬ past → Memory.wf s.mem = true → rangeGood s (hostAgent ctx) false A1 p.size → (∀ g, g ∈ s.poison → codeOf (8 * g) = g) →
          p.at_ % 8 = 0 → (∀ j, j < 8 → ¬ (dst ≤ p.at_ + j ∧ p.at_ + j < dst + p.size)) →
          ∃ u, done .pagewr u 0 ∧
            (∀ i k, i < p.size → placed s (hostAgent ctx) false A1 i k → u.peek (dst + i) = s.peek k) ∧
            leNat 8 ((List.range 8).map (fun j => u.peek (p.at_ + j))) = p.pte % 2 ^ 64 - (if p.pte.testBit 9 then 2 ^ 9 else 0) ∧
            (∀ k, k < dst ∨ dst + p.size ≤ k → k < p.at_ ∨ p.at_ + 8 ≤ k → u.peek k = s.peek k) ∧
            (∀ n, n ∈ p.units → n ∉ u.quar) ∧ (∀ n, n ∉ p.units → (n ∈ u.quar ↔ n ∈ s.quar)) ∧
            u = { s with mem := u.mem, wq := u.wq, poison := u.poison, quar := u.quar, tiles := u.tiles, dies := u.dies }))) ∧
    (command s vif ctx w 10 → ∃ u, done .ctxreset u 0 ∧ (u.ctx ctx).stopped = false ∧ (u.ctx ctx).dying = false ∧
      (∀ l L, tget? u.launches l = some L → L.ctx = ctx → L.status.isSome = true) ∧
      ∀ j y, tget? u.wgs j = some y → y.ctx ≠ ctx)
end

