-- ==== Sys2Proof/Laws/Tbl.lean ====
section
/-!
SUPPORT. The laws of sparse tables: reading after writing, and that the writes keep the canonical form. The reading laws hold for
every table; canonical tables that read alike are equal.
-/
namespace Sys2Proof.Machine

variable {α : Type}

/-! ### Reading after writing -/

@[simp] theorem tget?_nil (k : Nat) : tget? ([] : Tbl α) k = none := rfl

@[simp] theorem tget_nil (d : α) (k : Nat) : tget d [] k = d := rfl

theorem tget?_tset (t : Tbl α) (k j : Nat) (v : α) :
    tget? (tset t k v) j = if j = k then some v else tget? t j := by
  induction t with
  | nil => simp [tset, tget?]
  | cons e t ih =>
    by_cases hj : j = k <;> by_cases hk : k < e.1 <;> by_cases he : k = e.1 <;>
      simp_all [tset, tget?] <;> (rw [if_neg (by omega)]; simp_all [tget?])

theorem tget?_tdel (t : Tbl α) (k j : Nat) :
    tget? (tdel t k) j = if j = k then none else tget? t j := by
  induction t with
  | nil => simp [tdel]
  | cons e t ih =>
    by_cases hj : j = k <;> by_cases he : k = e.1 <;> simp_all [tdel, tget?]

theorem tget_tset (d : α) (t : Tbl α) (k j : Nat) (v : α) :
    tget d (tset t k v) j = if j = k then v else tget d t j := by
  unfold tget; rw [tget?_tset]; split <;> rfl

theorem tget_tdel (d : α) (t : Tbl α) (k j : Nat) :
    tget d (tdel t k) j = if j = k then d else tget d t j := by
  unfold tget; rw [tget?_tdel]; split <;> rfl

theorem tget_tput [DecidableEq α] (d : α) (t : Tbl α) (k j : Nat) (v : α) :
    tget d (tput d t k v) j = if j = k then v else tget d t j := by
  unfold tput; split
  · rename_i h; rw [tget_tdel, h]
  · rw [tget_tset]

theorem tget_tupd (d : α) (t : Tbl α) (k j : Nat) (f : α → α) :
    tget d (tupd d t k f) j = if j = k then f (tget d t k) else tget d t j := tget_tset ..

theorem tget?_tupd (d : α) (t : Tbl α) (k j : Nat) (f : α → α) :
    tget? (tupd d t k f) j = if j = k then some (f (tget d t k)) else tget? t j := tget?_tset ..

theorem tget?_tmod (t : Tbl α) (k j : Nat) (f : α → α) :
    tget? (tmod t k f) j = if j = k then (tget? t k).map f else tget? t j := by
  unfold tmod
  split
  · rename_i v h; rw [tget?_tset]; simp [h]
  · rename_i h; split <;> simp_all

/-- A change of an entry that is there. -/
theorem tget_tmod (d : α) (t : Tbl α) (k j : Nat) (f : α → α) (h : (tget? t k).isSome) :
    tget d (tmod t k f) j = if j = k then f (tget d t k) else tget d t j := by
  obtain ⟨v, hv⟩ := Option.isSome_iff_exists.1 h
  unfold tget; rw [tget?_tmod]; split <;> simp [hv]

/-- A change that gives the default to the default. -/
theorem tget_tmod_of_default (d : α) (t : Tbl α) (k j : Nat) (f : α → α) (h : f d = d) :
    tget d (tmod t k f) j = if j = k then f (tget d t k) else tget d t j := by
  unfold tget; rw [tget?_tmod]; split
  · cases tget? t k <;> simp [h]
  · rfl

theorem tget?_tmod_ne (t : Tbl α) (k j : Nat) (f : α → α) (h : j ≠ k) :
    tget? (tmod t k f) j = tget? t j := by rw [tget?_tmod, if_neg h]

theorem tget_tmod_ne (d : α) (t : Tbl α) (k j : Nat) (f : α → α) (h : j ≠ k) :
    tget d (tmod t k f) j = tget d t j := by unfold tget; rw [tget?_tmod_ne _ _ _ _ h]

/-! ### The canonical form -/

variable [DecidableEq α] {d : α}

/-- A key below the bound of a canonical table, or equal to it, is not listed. -/
theorem tget?_le_bound {lo : Nat} {t : Tbl α} (h : tcanon d (some lo) t) {k : Nat} (hk : k ≤ lo) :
    tget? t k = none := by
  induction t generalizing lo with
  | nil => rfl
  | cons e t ih =>
    simp only [tcanon, Bool.and_eq_true, decide_eq_true_eq] at h
    obtain ⟨⟨h1, -⟩, h2⟩ := h
    have : k ≠ e.1 := by omega
    simp [tget?, this, ih h2 (by omega)]

theorem tcanon_weaken {lo : Nat} {t : Tbl α} (h : tcanon d (some lo) t) : tcanon d none t := by
  cases t with
  | nil => rfl
  | cons e t => simp_all [tcanon]

theorem tcanon_lower {lo lo' : Nat} {t : Tbl α} (h : tcanon d (some lo) t) (hl : lo' ≤ lo) :
    tcanon d (some lo') t := by
  cases t with
  | nil => rfl
  | cons e t => simp_all [tcanon]; omega

theorem tcanon_tset {lo : Option Nat} {t : Tbl α} {k : Nat} {v : α} (h : tcanon d lo t)
    (hl : ∀ l, lo = some l → l < k) (hv : v ≠ d) : tcanon d lo (tset t k v) := by
  induction t generalizing lo with
  | nil => cases lo <;> simp_all [tset, tcanon]
  | cons e t ih =>
    simp only [tcanon, Bool.and_eq_true] at h
    obtain ⟨⟨h1, h2⟩, h3⟩ := h
    unfold tset
    split
    · cases lo <;> simp_all [tcanon]
    · split
      · subst k; cases lo <;> simp_all [tcanon]
      · simp only [tcanon, Bool.and_eq_true]
        exact ⟨⟨h1, h2⟩, ih h3 (fun l hl => by cases hl; omega)⟩

theorem tcanon_tdel {lo : Option Nat} {t : Tbl α} {k : Nat} (h : tcanon d lo t) :
    tcanon d lo (tdel t k) := by
  induction t generalizing lo with
  | nil => exact h
  | cons e t ih =>
    simp only [tcanon, Bool.and_eq_true] at h
    obtain ⟨⟨h1, h2⟩, h3⟩ := h
    unfold tdel
    split
    · cases lo with
      | none => exact ih (tcanon_weaken h3)
      | some l => exact ih (tcanon_lower h3 (by simp at h1; omega))
    · simp only [tcanon, Bool.and_eq_true]
      exact ⟨⟨h1, h2⟩, ih h3⟩

/-- Writing keeps the canonical form. -/
theorem tcanon_tput {t : Tbl α} {k : Nat} {v : α} (h : tcanon d none t) : tcanon d none (tput d t k v) := by
  unfold tput; split
  · exact tcanon_tdel h
  · exact tcanon_tset h (fun _ h => nomatch h) ‹_›

/-- Canonical tables that read alike are equal. -/
theorem tcanon_ext {lo : Option Nat} {t u : Tbl α} (ht : tcanon d lo t) (hu : tcanon d lo u)
    (h : ∀ k, tget d t k = tget d u k) : t = u := by
  induction t generalizing lo u with
  | nil =>
    cases u with
    | nil => rfl
    | cons e u =>
      simp only [tcanon, Bool.and_eq_true, decide_eq_true_eq] at hu
      have := h e.1
      simp [tget, tget?] at this
      exact absurd this.symm hu.1.2
  | cons e t ih =>
    simp only [tcanon, Bool.and_eq_true, decide_eq_true_eq] at ht
    cases u with
    | nil =>
      have := h e.1
      simp [tget, tget?] at this
      exact absurd this ht.1.2
    | cons e' u =>
      simp only [tcanon, Bool.and_eq_true, decide_eq_true_eq] at hu
      have hle : ∀ (a b : Nat × α) (x y : Tbl α), tcanon d (some a.1) x → a.2 ≠ d → tcanon d (some b.1) y →
          (∀ k, tget d (a :: x) k = tget d (b :: y) k) → b.1 ≤ a.1 := by
        intro a b x y _ ha hy hh
        by_contra hlt
        have := hh a.1
        have hne : a.1 ≠ b.1 := by omega
        simp [tget, tget?, hne, tget?_le_bound hy (show a.1 ≤ b.1 by omega)] at this
        exact ha this
      have h1 := hle e e' t u ht.2 ht.1.2 hu.2 h
      have h2 := hle e' e u t hu.2 hu.1.2 ht.2 (fun k => (h k).symm)
      have hk : e.1 = e'.1 := by omega
      have hv : e.2 = e'.2 := by have := h e.1; simpa [tget, tget?, hk] using this
      have he : e = e' := Prod.ext hk hv
      subst he
      congr 1
      refine ih ht.2 hu.2 fun k => ?_
      by_cases hke : k = e.1
      · subst hke
        simp [tget, tget?_le_bound ht.2 (Nat.le_refl _), tget?_le_bound hu.2 (Nat.le_refl _)]
      · have := h k; simpa [tget, tget?, hke] using this

end Sys2Proof.Machine
end

