-- ==== Sys2Proof/Laws/Memory.lean ====
section
/-!
SUPPORT. The laws of memory: reading after writing, the canonical form, and that no agent can tell when a port applies its
write queue (spec/04 R74, R77, spec/17 R317).
-/
namespace Sys2Proof.Machine

/-! ### The array -/

@[simp] theorem memByte_memPut (m : List Host.Cell) (k j : Nat) (b : Byte) :
    memByte (memPut m k b) j = if j = k then b else memByte m j := tget_tput ..

theorem wf_memPut {m : List Host.Cell} (h : Memory.wf m) (k : Nat) (b : Byte) : Memory.wf (memPut m k b) :=
  tcanon_tput h

/-- Equal contents are equal memories. -/
theorem mem_ext {m n : List Host.Cell} (hm : Memory.wf m) (hn : Memory.wf n)
    (h : ∀ k, memByte m k = memByte n k) : m = n := tcanon_ext hm hn h

/-- The byte at a place after bytes are written from place k on. -/
theorem memByte_memPuts (m : List Host.Cell) (k : Nat) (bs : List Byte) (j : Nat) :
    memByte (memPuts m k bs) j = if k ≤ j ∧ j < k + bs.length then byteAt bs (j - k) else memByte m j := by
  induction bs generalizing m k with
  | nil => rw [memPuts, if_neg (by simp)]
  | cons b bs ih =>
    rw [memPuts, ih, memByte_memPut]
    by_cases h1 : j = k
    · subst h1; simp [byteAt]
    · by_cases h2 : k + 1 ≤ j ∧ j < k + 1 + bs.length
      · have : j - k = j - (k + 1) + 1 := by omega
        simp only [h2, List.length_cons, and_self, if_true]
        rw [if_pos (by omega), this]; simp [byteAt]
      · rw [if_neg h2, if_neg h1, if_neg (by simp; omega)]

theorem wf_memPuts {m : List Host.Cell} (h : Memory.wf m) (k : Nat) (bs : List Byte) :
    Memory.wf (memPuts m k bs) := by
  induction bs generalizing m k with
  | nil => exact h
  | cons b bs ih => exact ih (wf_memPut h k b) (k + 1)

/-- Dropping bytes keeps the canonical form. -/
theorem tcanon_filter {α : Type} [DecidableEq α] {d : α} {lo : Option Nat} {t : Tbl α} (p : Nat × α → Bool)
    (h : tcanon d lo t) : tcanon d lo (t.filter p) := by
  induction t generalizing lo with
  | nil => exact h
  | cons e t ih =>
    simp only [tcanon, Bool.and_eq_true] at h
    obtain ⟨⟨h1, h2⟩, h3⟩ := h
    rw [List.filter_cons]
    split
    · simp only [tcanon, Bool.and_eq_true]
      exact ⟨⟨h1, h2⟩, ih h3⟩
    · cases lo with
      | none => exact tcanon_weaken (ih h3)
      | some l => exact tcanon_lower (ih h3) (by simp at h1; omega)

theorem wf_filter {m : List Host.Cell} (p : Host.Cell → Bool) (h : Memory.wf m) : Memory.wf (m.filter p) :=
  tcanon_filter p h

theorem wf_foldl_put {β : Type} {m : List Host.Cell} (h : Memory.wf m) (l : List β) (k : β → Nat) (b : β → Byte) :
    Memory.wf (l.foldl (fun m c => memPut m (k c) (b c)) m) := by
  induction l generalizing m with
  | nil => exact h
  | cons c l ih => exact ih (wf_memPut h ..)

theorem wf_copyPlaces {m : List Host.Cell} (h : Memory.wf m) (src dst n : Nat) :
    Memory.wf (copyPlaces m src dst n) := wf_foldl_put (wf_filter _ h) ..

/-! ### Granules -/

theorem memByte_granPuts (base : Nat) (m : List Host.Cell) (k : Nat) (bs : List Byte) (j : Nat) :
    memByte (granPuts base m k bs) j =
      if granOf j = base ∧ k ≤ j ∧ j < k + bs.length then byteAt bs (j - k) else memByte m j := by
  induction bs generalizing m k with
  | nil => rw [granPuts, if_neg (by simp)]
  | cons b bs ih =>
    rw [granPuts, ih]
    have hput : memByte (if granOf k = base then memPut m k b else m) j =
        if granOf k = base ∧ j = k then b else memByte m j := by
      by_cases h : granOf k = base <;> simp [h]
    rw [hput]
    by_cases hg : granOf j = base
    · by_cases h1 : j = k
      · subst h1; simp [hg, byteAt]
      · by_cases h2 : k + 1 ≤ j ∧ j < k + 1 + bs.length
        · have : j - k = j - (k + 1) + 1 := by omega
          rw [if_pos ⟨hg, h2⟩, if_pos ⟨hg, by omega, by simp; omega⟩, this]; simp [byteAt]
        · rw [if_neg (fun h => h2 h.2), if_neg (fun h => h1 h.2), if_neg (fun h => by simp at h; omega)]
    · have : ¬(granOf k = base ∧ j = k) := by rintro ⟨h, rfl⟩; exact hg h
      simp [hg, this]

theorem wf_granPuts (base : Nat) {m : List Host.Cell} (h : Memory.wf m) (k : Nat) (bs : List Byte) :
    Memory.wf (granPuts base m k bs) := by
  induction bs generalizing m k with
  | nil => exact h
  | cons b bs ih =>
    rw [granPuts]; apply ih; split
    · exact wf_memPut h ..
    · exact h

/-- Two arrays that agree on a granule. -/
def AgreeOn (base : Nat) (m n : List Host.Cell) : Prop := ∀ j, granOf j = base → memByte m j = memByte n j

theorem granNat_congr {base : Nat} {m n : List Host.Cell} (h : AgreeOn base m n) (k w : Nat) :
    granNat base m k w = granNat base n k w := by
  unfold granNat
  congr 1
  apply List.map_congr_left
  intro i _
  split
  · exact h _ ‹_›
  · rfl

theorem agreeOn_applyOp {base : Nat} {m n : List Host.Cell} (h : AgreeOn base m n) (op : WqOp) :
    AgreeOn base (applyOp base m op) (applyOp base n op) := by
  intro j hj
  cases op with
  | store k bs => simp only [applyOp, memByte_granPuts, h j hj]
  | red fn ty k b => simp only [applyOp, memByte_granPuts, granNat_congr h, h j hj]

theorem applyOp_elsewhere {base : Nat} (m : List Host.Cell) (op : WqOp) {j : Nat} (hj : granOf j ≠ base) :
    memByte (applyOp base m op) j = memByte m j := by
  cases op <;> simp [applyOp, memByte_granPuts, hj]

theorem wf_applyOp {base : Nat} {m : List Host.Cell} (h : Memory.wf m) (op : WqOp) :
    Memory.wf (applyOp base m op) := by
  cases op <;> exact wf_granPuts base h ..

/-- Applying an entry changes bytes of its granule alone. -/
theorem applyEntry_elsewhere (m : List Host.Cell) (e : WqEntry) {j : Nat} (hj : granOf j ≠ e.base) :
    memByte (applyEntry m e) j = memByte m j := by
  unfold applyEntry
  induction e.ops generalizing m with
  | nil => rfl
  | cons op ops ih => rw [List.foldl_cons, ih, applyOp_elsewhere _ _ hj]

theorem agreeOn_applyEntry {m n : List Host.Cell} {e : WqEntry} (h : AgreeOn e.base m n) :
    AgreeOn e.base (applyEntry m e) (applyEntry n e) := by
  unfold applyEntry
  induction e.ops generalizing m n with
  | nil => exact h
  | cons op ops ih => exact ih (agreeOn_applyOp h op)

theorem wf_applyEntry {m : List Host.Cell} (h : Memory.wf m) (e : WqEntry) : Memory.wf (applyEntry m e) := by
  unfold applyEntry
  induction e.ops generalizing m with
  | nil => exact h
  | cons op ops ih => exact ih (wf_applyOp h op)

theorem wf_overlay {m : List Host.Cell} (h : Memory.wf m) (q : List WqEntry) : Memory.wf (overlay m q) := by
  unfold overlay
  induction q generalizing m with
  | nil => exact h
  | cons e q ih => exact ih (wf_applyEntry h e)

/-- What stands in a granule depends on its own entries alone. -/
theorem memByte_overlay (m : List Host.Cell) (q : List WqEntry) (j : Nat) :
    memByte (overlay m q) j = memByte (overlay m (q.filter (fun e => decide (e.base = granOf j)))) j := by
  suffices h : ∀ n, AgreeOn (granOf j) m n →
      AgreeOn (granOf j) (overlay m q) (overlay n (q.filter (fun e => decide (e.base = granOf j)))) from
    h m (fun _ _ => rfl) j rfl
  unfold overlay
  induction q generalizing m with
  | nil => exact fun n h => h
  | cons e q ih =>
    intro n h
    rw [List.filter_cons, List.foldl_cons]
    split
    · rename_i he
      rw [List.foldl_cons]
      have he : e.base = granOf j := by simpa using he
      exact ih _ _ (he ▸ agreeOn_applyEntry (he ▸ h))
    · rename_i he
      have he : e.base ≠ granOf j := by simpa using he
      refine ih _ _ fun i hi => ?_
      rw [applyEntry_elsewhere _ _ (by rw [hi]; exact Ne.symm he)]
      exact h i hi

theorem memByte_overlay_congr {m n : List Host.Cell} {q r : List WqEntry} {j : Nat} (hm : AgreeOn (granOf j) m n)
    (h : q.filter (fun e => decide (e.base = granOf j)) = r.filter (fun e => decide (e.base = granOf j))) :
    memByte (overlay m q) j = memByte (overlay n r) j := by
  rw [memByte_overlay, memByte_overlay n, ← h]
  generalize hf : q.filter (fun e => decide (e.base = granOf j)) = f
  have hb : ∀ e ∈ f, e.base = granOf j := by
    intro e he; rw [← hf] at he; simpa using (List.mem_filter.1 he).2
  clear hf h
  suffices AgreeOn (granOf j) (overlay m f) (overlay n f) from this j rfl
  unfold overlay
  induction f generalizing m n with
  | nil => exact hm
  | cons e f ih =>
    have he := hb e (by simp)
    exact ih (he ▸ agreeOn_applyEntry (he ▸ hm)) (fun e' h' => hb e' (by simp [h']))

theorem overlay_append (m : List Host.Cell) (q r : List WqEntry) :
    overlay m (q ++ r) = overlay (overlay m q) r := List.foldl_append ..

/-! ### The ports -/

/-- Applying a port's oldest entry changes nothing that an agent reads. -/
theorem peek_applyOldest (s : State) (p j : Nat) : (applyOldest s p).peek j = s.peek j := by
  unfold applyOldest
  split
  · rename_i e he
    obtain ⟨he1, as, bs, hq, has⟩ := List.find?_eq_some_iff_append.1 he
    have hep : s.entryPort e = p := by simpa using he1
    have hne : ∀ a ∈ as, a.base ≠ e.base := by
      intro a ha hb
      have := has a ha
      simp only [State.entryPort, hb] at this hep
      simp [hep] at this
    have hnot : e ∉ as := fun h => hne e h rfl
    have herase : s.wq.erase e = as ++ bs := by
      rw [hq, List.erase_append_right _ hnot, List.erase_cons_head]
    unfold State.peek State.view
    simp only [herase]
    rw [hq]
    by_cases hj : granOf j = e.base
    · have h0 : as.filter (fun a => decide (a.base = granOf j)) = [] := by
        rw [List.filter_eq_nil_iff]; intro a ha; simp [hj, hne a ha]
      rw [memByte_overlay, memByte_overlay s.mem]
      rw [hj] at h0 ⊢
      simp [List.filter_append, h0, overlay]
    · refine memByte_overlay_congr ?_ ?_
      · intro i hi; exact applyEntry_elsewhere _ _ (by rw [hi]; exact hj)
      · simp [List.filter_append, Ne.symm hj]
  · rfl

@[simp] theorem peek_makeRoom (s : State) (p j : Nat) : (makeRoom s p).peek j = s.peek j := by
  unfold makeRoom; split
  · rfl
  · exact peek_applyOldest ..

/-- An entry that arrives changes the bytes of its granule as it says. -/
theorem peek_append (s : State) (e : WqEntry) (j : Nat) :
    State.peek { s with wq := s.wq ++ [e] } j = memByte (applyEntry s.view e) j := by
  simp [State.peek, State.view, overlay]

/-- A store at a port: the bytes of one granule. -/
theorem peek_enqStore (s : State) (k : Nat) (bs : List Byte) (j : Nat) :
    (enqStore s k bs).peek j =
      if granOf j = granOf (granOf k) ∧ k ≤ j ∧ j < k + bs.length then byteAt bs (j - k) else s.peek j := by
  unfold enqStore
  rw [peek_append]
  simp only [applyEntry, WqEntry.base, List.foldl_cons, List.foldl_nil, applyOp, memByte_granPuts]
  split
  · rfl
  · exact peek_makeRoom ..

theorem granOf_granOf (k : Nat) : granOf (granOf k) = granOf k := by
  unfold granOf typeOf sramBase spaceStep
  repeat' split
  all_goals simp only [granSize] at *
  all_goals omega

theorem typeOf_granOf (k : Nat) : typeOf (granOf k) = typeOf k := by
  unfold granOf typeOf sramBase spaceStep
  repeat' split
  all_goals simp only [granSize] at *
  all_goals first
    | rfl
    | (exfalso; omega)

theorem portOf_granOf (sets : Tbl (BitVec 12)) (lost : List Nat) (k : Nat) : portOf sets lost (granOf k) = portOf sets lost k := by
  unfold portOf
  rw [typeOf_granOf]
  cases h : typeOf k
  case peer =>
    have h1 : granOf k / spaceStep = k / spaceStep := by simp only [granOf, h, granSize, spaceStep]; omega
    have h2 : granOf k % spaceStep / 128 = k % spaceStep / 128 := by simp only [granOf, h, granSize, spaceStep]; omega
    simp only [h1, h2]
  all_goals simp only [granOf, h, granSize, sramBase]
  all_goals unfold typeOf sramBase spaceStep at h
  all_goals repeat' split at h
  all_goals first
    | (exfalso; simp at h; done)
    | omega

@[simp] theorem peek_settle (s : State) (j : Nat) : (settle s).peek j = s.peek j := rfl

theorem wf_applyOldest {s : State} (h : Memory.wf s.mem) (p : Nat) : Memory.wf (applyOldest s p).mem := by
  unfold applyOldest; split
  · exact wf_applyEntry h _
  · exact h

theorem wf_makeRoom {s : State} (h : Memory.wf s.mem) (p : Nat) : Memory.wf (makeRoom s p).mem := by
  unfold makeRoom; split
  · exact h
  · exact wf_applyOldest h p

theorem wf_enqStore {s : State} (h : Memory.wf s.mem) (k : Nat) (bs : List Byte) :
    Memory.wf (enqStore s k bs).mem := wf_makeRoom h _

theorem wf_enqRed {s : State} (h : Memory.wf s.mem) (fn : AtomFn) (ty : Ty) (k b : Nat) :
    Memory.wf (enqRed s fn ty k b).mem := by
  unfold enqRed; split
  · exact h
  · exact wf_makeRoom h _

theorem wf_settle {s : State} (h : Memory.wf s.mem) : Memory.wf (settle s).mem := wf_overlay h _

end Sys2Proof.Machine
end

