-- ==== Sys2Proof/Laws/State.lean ====
section
/-!
SUPPORT. What each update of the state leaves in each field, true by the definitions, and the same for each update of a band.
-/
namespace Sys2Proof.Machine

variable (s : State)

/-! ### Updates of the state: every field after each -/

@[simp] theorem State.modBand_fields (k : Nat) (f : Band → Band) :
    (s.modBand k f).mem = s.mem ∧ (s.modBand k f).wq = s.wq ∧ (s.modBand k f).poison = s.poison ∧
    (s.modBand k f).quar = s.quar ∧ (s.modBand k f).bands = tmod s.bands k f ∧ (s.modBand k f).wgs = s.wgs ∧
    (s.modBand k f).launches = s.launches ∧ (s.modBand k f).nextLaunch = s.nextLaunch ∧ (s.modBand k f).nextWg = s.nextWg ∧
    (s.modBand k f).ctxs = s.ctxs ∧ (s.modBand k f).vifs = s.vifs ∧ (s.modBand k f).tiles = s.tiles ∧
    (s.modBand k f).dies = s.dies ∧ (s.modBand k f).dctxs = s.dctxs ∧ (s.modBand k f).decoders = s.decoders ∧
    (s.modBand k f).quads = s.quads ∧ (s.modBand k f).arrivals = s.arrivals ∧ (s.modBand k f).regions = s.regions ∧
    (s.modBand k f).gpat = s.gpat ∧ (s.modBand k f).agenda = s.agenda ∧ (s.modBand k f).turnNo = s.turnNo ∧
    (s.modBand k f).nonce = s.nonce ∧ (s.modBand k f).cur = s.cur ∧ (s.modBand k f).spares = s.spares ∧
    (s.modBand k f).noQuads = s.noQuads ∧ (s.modBand k f).rr = s.rr ∧ (s.modBand k f).atts = s.atts ∧
    (s.modBand k f).attcfg = s.attcfg ∧ (s.modBand k f).pwrceil = s.pwrceil ∧ (s.modBand k f).meas = s.meas ∧
    (s.modBand k f).version = s.version ∧ (s.modBand k f).golden = s.golden ∧ (s.modBand k f).governor = s.governor ∧
    (s.modBand k f).peerLinks = s.peerLinks ∧ (s.modBand k f).linksLost = s.linksLost ∧ (s.modBand k f).sent = s.sent ∧
    (s.modBand k f).up = s.up ∧ (s.modBand k f).inRecovery = s.inRecovery :=
  ⟨rfl, rfl, rfl, rfl, rfl, rfl, rfl, rfl, rfl, rfl, rfl, rfl, rfl, rfl, rfl, rfl, rfl, rfl, rfl, rfl, rfl, rfl, rfl, rfl,
    rfl, rfl, rfl, rfl, rfl, rfl, rfl, rfl, rfl, rfl, rfl, rfl, rfl, rfl⟩

@[simp] theorem State.modCb_fields (f : Band → Band) :
    (s.modCb f).mem = s.mem ∧ (s.modCb f).wq = s.wq ∧ (s.modCb f).poison = s.poison ∧ (s.modCb f).quar = s.quar ∧
    (s.modCb f).bands = tmod s.bands s.cur.band f ∧ (s.modCb f).wgs = s.wgs ∧ (s.modCb f).launches = s.launches ∧
    (s.modCb f).nextLaunch = s.nextLaunch ∧ (s.modCb f).nextWg = s.nextWg ∧ (s.modCb f).ctxs = s.ctxs ∧
    (s.modCb f).vifs = s.vifs ∧ (s.modCb f).tiles = s.tiles ∧ (s.modCb f).dies = s.dies ∧ (s.modCb f).dctxs = s.dctxs ∧
    (s.modCb f).decoders = s.decoders ∧ (s.modCb f).quads = s.quads ∧ (s.modCb f).arrivals = s.arrivals ∧
    (s.modCb f).regions = s.regions ∧ (s.modCb f).gpat = s.gpat ∧ (s.modCb f).agenda = s.agenda ∧
    (s.modCb f).turnNo = s.turnNo ∧ (s.modCb f).nonce = s.nonce ∧ (s.modCb f).cur = s.cur ∧ (s.modCb f).spares = s.spares ∧
    (s.modCb f).noQuads = s.noQuads ∧ (s.modCb f).rr = s.rr ∧ (s.modCb f).atts = s.atts ∧ (s.modCb f).attcfg = s.attcfg ∧
    (s.modCb f).pwrceil = s.pwrceil ∧ (s.modCb f).meas = s.meas ∧ (s.modCb f).version = s.version ∧
    (s.modCb f).golden = s.golden ∧ (s.modCb f).governor = s.governor ∧ (s.modCb f).peerLinks = s.peerLinks ∧
    (s.modCb f).linksLost = s.linksLost ∧ (s.modCb f).sent = s.sent ∧ (s.modCb f).up = s.up ∧
    (s.modCb f).inRecovery = s.inRecovery :=
  ⟨rfl, rfl, rfl, rfl, rfl, rfl, rfl, rfl, rfl, rfl, rfl, rfl, rfl, rfl, rfl, rfl, rfl, rfl, rfl, rfl, rfl, rfl, rfl, rfl,
    rfl, rfl, rfl, rfl, rfl, rfl, rfl, rfl, rfl, rfl, rfl, rfl, rfl, rfl⟩

@[simp] theorem State.modWg_fields (k : Nat) (f : Workgroup → Workgroup) :
    (s.modWg k f).mem = s.mem ∧ (s.modWg k f).wq = s.wq ∧ (s.modWg k f).poison = s.poison ∧ (s.modWg k f).quar = s.quar ∧
    (s.modWg k f).bands = s.bands ∧ (s.modWg k f).wgs = tmod s.wgs k f ∧ (s.modWg k f).launches = s.launches ∧
    (s.modWg k f).nextLaunch = s.nextLaunch ∧ (s.modWg k f).nextWg = s.nextWg ∧ (s.modWg k f).ctxs = s.ctxs ∧
    (s.modWg k f).vifs = s.vifs ∧ (s.modWg k f).tiles = s.tiles ∧ (s.modWg k f).dies = s.dies ∧
    (s.modWg k f).dctxs = s.dctxs ∧ (s.modWg k f).decoders = s.decoders ∧ (s.modWg k f).quads = s.quads ∧
    (s.modWg k f).arrivals = s.arrivals ∧ (s.modWg k f).regions = s.regions ∧ (s.modWg k f).gpat = s.gpat ∧
    (s.modWg k f).agenda = s.agenda ∧ (s.modWg k f).turnNo = s.turnNo ∧ (s.modWg k f).nonce = s.nonce ∧
    (s.modWg k f).cur = s.cur ∧ (s.modWg k f).spares = s.spares ∧ (s.modWg k f).noQuads = s.noQuads ∧
    (s.modWg k f).rr = s.rr ∧ (s.modWg k f).atts = s.atts ∧ (s.modWg k f).attcfg = s.attcfg ∧
    (s.modWg k f).pwrceil = s.pwrceil ∧ (s.modWg k f).meas = s.meas ∧ (s.modWg k f).version = s.version ∧
    (s.modWg k f).golden = s.golden ∧ (s.modWg k f).governor = s.governor ∧ (s.modWg k f).peerLinks = s.peerLinks ∧
    (s.modWg k f).linksLost = s.linksLost ∧ (s.modWg k f).sent = s.sent ∧ (s.modWg k f).up = s.up ∧
    (s.modWg k f).inRecovery = s.inRecovery :=
  ⟨rfl, rfl, rfl, rfl, rfl, rfl, rfl, rfl, rfl, rfl, rfl, rfl, rfl, rfl, rfl, rfl, rfl, rfl, rfl, rfl, rfl, rfl, rfl, rfl,
    rfl, rfl, rfl, rfl, rfl, rfl, rfl, rfl, rfl, rfl, rfl, rfl, rfl, rfl⟩

@[simp] theorem State.modLaunch_fields (k : Nat) (f : Launch → Launch) :
    (s.modLaunch k f).mem = s.mem ∧ (s.modLaunch k f).wq = s.wq ∧ (s.modLaunch k f).poison = s.poison ∧
    (s.modLaunch k f).quar = s.quar ∧ (s.modLaunch k f).bands = s.bands ∧ (s.modLaunch k f).wgs = s.wgs ∧
    (s.modLaunch k f).launches = tmod s.launches k f ∧ (s.modLaunch k f).nextLaunch = s.nextLaunch ∧
    (s.modLaunch k f).nextWg = s.nextWg ∧ (s.modLaunch k f).ctxs = s.ctxs ∧ (s.modLaunch k f).vifs = s.vifs ∧
    (s.modLaunch k f).tiles = s.tiles ∧ (s.modLaunch k f).dies = s.dies ∧ (s.modLaunch k f).dctxs = s.dctxs ∧
    (s.modLaunch k f).decoders = s.decoders ∧ (s.modLaunch k f).quads = s.quads ∧ (s.modLaunch k f).arrivals = s.arrivals ∧
    (s.modLaunch k f).regions = s.regions ∧ (s.modLaunch k f).gpat = s.gpat ∧ (s.modLaunch k f).agenda = s.agenda ∧
    (s.modLaunch k f).turnNo = s.turnNo ∧ (s.modLaunch k f).nonce = s.nonce ∧ (s.modLaunch k f).cur = s.cur ∧
    (s.modLaunch k f).spares = s.spares ∧ (s.modLaunch k f).noQuads = s.noQuads ∧ (s.modLaunch k f).rr = s.rr ∧
    (s.modLaunch k f).atts = s.atts ∧ (s.modLaunch k f).attcfg = s.attcfg ∧ (s.modLaunch k f).pwrceil = s.pwrceil ∧
    (s.modLaunch k f).meas = s.meas ∧ (s.modLaunch k f).version = s.version ∧ (s.modLaunch k f).golden = s.golden ∧
    (s.modLaunch k f).governor = s.governor ∧ (s.modLaunch k f).peerLinks = s.peerLinks ∧
    (s.modLaunch k f).linksLost = s.linksLost ∧ (s.modLaunch k f).sent = s.sent ∧ (s.modLaunch k f).up = s.up ∧
    (s.modLaunch k f).inRecovery = s.inRecovery :=
  ⟨rfl, rfl, rfl, rfl, rfl, rfl, rfl, rfl, rfl, rfl, rfl, rfl, rfl, rfl, rfl, rfl, rfl, rfl, rfl, rfl, rfl, rfl, rfl, rfl,
    rfl, rfl, rfl, rfl, rfl, rfl, rfl, rfl, rfl, rfl, rfl, rfl, rfl, rfl⟩

@[simp] theorem State.modCtx_fields (k : Nat) (f : Context → Context) :
    (s.modCtx k f).mem = s.mem ∧ (s.modCtx k f).wq = s.wq ∧ (s.modCtx k f).poison = s.poison ∧
    (s.modCtx k f).quar = s.quar ∧ (s.modCtx k f).bands = s.bands ∧ (s.modCtx k f).wgs = s.wgs ∧
    (s.modCtx k f).launches = s.launches ∧ (s.modCtx k f).nextLaunch = s.nextLaunch ∧ (s.modCtx k f).nextWg = s.nextWg ∧
    (s.modCtx k f).ctxs = tupd Context.init s.ctxs k f ∧ (s.modCtx k f).vifs = s.vifs ∧ (s.modCtx k f).tiles = s.tiles ∧
    (s.modCtx k f).dies = s.dies ∧ (s.modCtx k f).dctxs = s.dctxs ∧ (s.modCtx k f).decoders = s.decoders ∧
    (s.modCtx k f).quads = s.quads ∧ (s.modCtx k f).arrivals = s.arrivals ∧ (s.modCtx k f).regions = s.regions ∧
    (s.modCtx k f).gpat = s.gpat ∧ (s.modCtx k f).agenda = s.agenda ∧ (s.modCtx k f).turnNo = s.turnNo ∧
    (s.modCtx k f).nonce = s.nonce ∧ (s.modCtx k f).cur = s.cur ∧ (s.modCtx k f).spares = s.spares ∧
    (s.modCtx k f).noQuads = s.noQuads ∧ (s.modCtx k f).rr = s.rr ∧ (s.modCtx k f).atts = s.atts ∧
    (s.modCtx k f).attcfg = s.attcfg ∧ (s.modCtx k f).pwrceil = s.pwrceil ∧ (s.modCtx k f).meas = s.meas ∧
    (s.modCtx k f).version = s.version ∧ (s.modCtx k f).golden = s.golden ∧ (s.modCtx k f).governor = s.governor ∧
    (s.modCtx k f).peerLinks = s.peerLinks ∧ (s.modCtx k f).linksLost = s.linksLost ∧ (s.modCtx k f).sent = s.sent ∧
    (s.modCtx k f).up = s.up ∧ (s.modCtx k f).inRecovery = s.inRecovery :=
  ⟨rfl, rfl, rfl, rfl, rfl, rfl, rfl, rfl, rfl, rfl, rfl, rfl, rfl, rfl, rfl, rfl, rfl, rfl, rfl, rfl, rfl, rfl, rfl, rfl,
    rfl, rfl, rfl, rfl, rfl, rfl, rfl, rfl, rfl, rfl, rfl, rfl, rfl, rfl⟩

@[simp] theorem State.modVif_fields (k : Nat) (f : Vif → Vif) :
    (s.modVif k f).mem = s.mem ∧ (s.modVif k f).wq = s.wq ∧ (s.modVif k f).poison = s.poison ∧
    (s.modVif k f).quar = s.quar ∧ (s.modVif k f).bands = s.bands ∧ (s.modVif k f).wgs = s.wgs ∧
    (s.modVif k f).launches = s.launches ∧ (s.modVif k f).nextLaunch = s.nextLaunch ∧ (s.modVif k f).nextWg = s.nextWg ∧
    (s.modVif k f).ctxs = s.ctxs ∧ (s.modVif k f).vifs = tupd Vif.init s.vifs k f ∧ (s.modVif k f).tiles = s.tiles ∧
    (s.modVif k f).dies = s.dies ∧ (s.modVif k f).dctxs = s.dctxs ∧ (s.modVif k f).decoders = s.decoders ∧
    (s.modVif k f).quads = s.quads ∧ (s.modVif k f).arrivals = s.arrivals ∧ (s.modVif k f).regions = s.regions ∧
    (s.modVif k f).gpat = s.gpat ∧ (s.modVif k f).agenda = s.agenda ∧ (s.modVif k f).turnNo = s.turnNo ∧
    (s.modVif k f).nonce = s.nonce ∧ (s.modVif k f).cur = s.cur ∧ (s.modVif k f).spares = s.spares ∧
    (s.modVif k f).noQuads = s.noQuads ∧ (s.modVif k f).rr = s.rr ∧ (s.modVif k f).atts = s.atts ∧
    (s.modVif k f).attcfg = s.attcfg ∧ (s.modVif k f).pwrceil = s.pwrceil ∧ (s.modVif k f).meas = s.meas ∧
    (s.modVif k f).version = s.version ∧ (s.modVif k f).golden = s.golden ∧ (s.modVif k f).governor = s.governor ∧
    (s.modVif k f).peerLinks = s.peerLinks ∧ (s.modVif k f).linksLost = s.linksLost ∧ (s.modVif k f).sent = s.sent ∧
    (s.modVif k f).up = s.up ∧ (s.modVif k f).inRecovery = s.inRecovery :=
  ⟨rfl, rfl, rfl, rfl, rfl, rfl, rfl, rfl, rfl, rfl, rfl, rfl, rfl, rfl, rfl, rfl, rfl, rfl, rfl, rfl, rfl, rfl, rfl, rfl,
    rfl, rfl, rfl, rfl, rfl, rfl, rfl, rfl, rfl, rfl, rfl, rfl, rfl, rfl⟩

@[simp] theorem State.modTile_fields (k : Nat) (f : Tile → Tile) :
    (s.modTile k f).mem = s.mem ∧ (s.modTile k f).wq = s.wq ∧ (s.modTile k f).poison = s.poison ∧
    (s.modTile k f).quar = s.quar ∧ (s.modTile k f).bands = s.bands ∧ (s.modTile k f).wgs = s.wgs ∧
    (s.modTile k f).launches = s.launches ∧ (s.modTile k f).nextLaunch = s.nextLaunch ∧ (s.modTile k f).nextWg = s.nextWg ∧
    (s.modTile k f).ctxs = s.ctxs ∧ (s.modTile k f).vifs = s.vifs ∧ (s.modTile k f).tiles = tupd Tile.init s.tiles k f ∧
    (s.modTile k f).dies = s.dies ∧ (s.modTile k f).dctxs = s.dctxs ∧ (s.modTile k f).decoders = s.decoders ∧
    (s.modTile k f).quads = s.quads ∧ (s.modTile k f).arrivals = s.arrivals ∧ (s.modTile k f).regions = s.regions ∧
    (s.modTile k f).gpat = s.gpat ∧ (s.modTile k f).agenda = s.agenda ∧ (s.modTile k f).turnNo = s.turnNo ∧
    (s.modTile k f).nonce = s.nonce ∧ (s.modTile k f).cur = s.cur ∧ (s.modTile k f).spares = s.spares ∧
    (s.modTile k f).noQuads = s.noQuads ∧ (s.modTile k f).rr = s.rr ∧ (s.modTile k f).atts = s.atts ∧
    (s.modTile k f).attcfg = s.attcfg ∧ (s.modTile k f).pwrceil = s.pwrceil ∧ (s.modTile k f).meas = s.meas ∧
    (s.modTile k f).version = s.version ∧ (s.modTile k f).golden = s.golden ∧ (s.modTile k f).governor = s.governor ∧
    (s.modTile k f).peerLinks = s.peerLinks ∧ (s.modTile k f).linksLost = s.linksLost ∧ (s.modTile k f).sent = s.sent ∧
    (s.modTile k f).up = s.up ∧ (s.modTile k f).inRecovery = s.inRecovery :=
  ⟨rfl, rfl, rfl, rfl, rfl, rfl, rfl, rfl, rfl, rfl, rfl, rfl, rfl, rfl, rfl, rfl, rfl, rfl, rfl, rfl, rfl, rfl, rfl, rfl,
    rfl, rfl, rfl, rfl, rfl, rfl, rfl, rfl, rfl, rfl, rfl, rfl, rfl, rfl⟩

@[simp] theorem State.modDctx_fields (k : Nat) (f : DieCtx → DieCtx) :
    (s.modDctx k f).mem = s.mem ∧ (s.modDctx k f).wq = s.wq ∧ (s.modDctx k f).poison = s.poison ∧
    (s.modDctx k f).quar = s.quar ∧ (s.modDctx k f).bands = s.bands ∧ (s.modDctx k f).wgs = s.wgs ∧
    (s.modDctx k f).launches = s.launches ∧ (s.modDctx k f).nextLaunch = s.nextLaunch ∧ (s.modDctx k f).nextWg = s.nextWg ∧
    (s.modDctx k f).ctxs = s.ctxs ∧ (s.modDctx k f).vifs = s.vifs ∧ (s.modDctx k f).tiles = s.tiles ∧
    (s.modDctx k f).dies = s.dies ∧ (s.modDctx k f).dctxs = tupd DieCtx.init s.dctxs k f ∧
    (s.modDctx k f).decoders = s.decoders ∧ (s.modDctx k f).quads = s.quads ∧ (s.modDctx k f).arrivals = s.arrivals ∧
    (s.modDctx k f).regions = s.regions ∧ (s.modDctx k f).gpat = s.gpat ∧ (s.modDctx k f).agenda = s.agenda ∧
    (s.modDctx k f).turnNo = s.turnNo ∧ (s.modDctx k f).nonce = s.nonce ∧ (s.modDctx k f).cur = s.cur ∧
    (s.modDctx k f).spares = s.spares ∧ (s.modDctx k f).noQuads = s.noQuads ∧ (s.modDctx k f).rr = s.rr ∧
    (s.modDctx k f).atts = s.atts ∧ (s.modDctx k f).attcfg = s.attcfg ∧ (s.modDctx k f).pwrceil = s.pwrceil ∧
    (s.modDctx k f).meas = s.meas ∧ (s.modDctx k f).version = s.version ∧ (s.modDctx k f).golden = s.golden ∧
    (s.modDctx k f).governor = s.governor ∧ (s.modDctx k f).peerLinks = s.peerLinks ∧
    (s.modDctx k f).linksLost = s.linksLost ∧ (s.modDctx k f).sent = s.sent ∧ (s.modDctx k f).up = s.up ∧
    (s.modDctx k f).inRecovery = s.inRecovery :=
  ⟨rfl, rfl, rfl, rfl, rfl, rfl, rfl, rfl, rfl, rfl, rfl, rfl, rfl, rfl, rfl, rfl, rfl, rfl, rfl, rfl, rfl, rfl, rfl, rfl,
    rfl, rfl, rfl, rfl, rfl, rfl, rfl, rfl, rfl, rfl, rfl, rfl, rfl, rfl⟩

@[simp] theorem State.modDie_fields (k : Nat) (f : Die → Die) :
    (s.modDie k f).mem = s.mem ∧ (s.modDie k f).wq = s.wq ∧ (s.modDie k f).poison = s.poison ∧
    (s.modDie k f).quar = s.quar ∧ (s.modDie k f).bands = s.bands ∧ (s.modDie k f).wgs = s.wgs ∧
    (s.modDie k f).launches = s.launches ∧ (s.modDie k f).nextLaunch = s.nextLaunch ∧ (s.modDie k f).nextWg = s.nextWg ∧
    (s.modDie k f).ctxs = s.ctxs ∧ (s.modDie k f).vifs = s.vifs ∧ (s.modDie k f).tiles = s.tiles ∧
    (s.modDie k f).dies = tupd Die.init s.dies k f ∧ (s.modDie k f).dctxs = s.dctxs ∧ (s.modDie k f).decoders = s.decoders ∧
    (s.modDie k f).quads = s.quads ∧ (s.modDie k f).arrivals = s.arrivals ∧ (s.modDie k f).regions = s.regions ∧
    (s.modDie k f).gpat = s.gpat ∧ (s.modDie k f).agenda = s.agenda ∧ (s.modDie k f).turnNo = s.turnNo ∧
    (s.modDie k f).nonce = s.nonce ∧ (s.modDie k f).cur = s.cur ∧ (s.modDie k f).spares = s.spares ∧
    (s.modDie k f).noQuads = s.noQuads ∧ (s.modDie k f).rr = s.rr ∧ (s.modDie k f).atts = s.atts ∧
    (s.modDie k f).attcfg = s.attcfg ∧ (s.modDie k f).pwrceil = s.pwrceil ∧ (s.modDie k f).meas = s.meas ∧
    (s.modDie k f).version = s.version ∧ (s.modDie k f).golden = s.golden ∧ (s.modDie k f).governor = s.governor ∧
    (s.modDie k f).peerLinks = s.peerLinks ∧ (s.modDie k f).linksLost = s.linksLost ∧ (s.modDie k f).sent = s.sent ∧
    (s.modDie k f).up = s.up ∧ (s.modDie k f).inRecovery = s.inRecovery :=
  ⟨rfl, rfl, rfl, rfl, rfl, rfl, rfl, rfl, rfl, rfl, rfl, rfl, rfl, rfl, rfl, rfl, rfl, rfl, rfl, rfl, rfl, rfl, rfl, rfl,
    rfl, rfl, rfl, rfl, rfl, rfl, rfl, rfl, rfl, rfl, rfl, rfl, rfl, rfl⟩

@[simp] theorem State.modDec_fields (k : Nat) (f : Decoder → Decoder) :
    (s.modDec k f).mem = s.mem ∧ (s.modDec k f).wq = s.wq ∧ (s.modDec k f).poison = s.poison ∧
    (s.modDec k f).quar = s.quar ∧ (s.modDec k f).bands = s.bands ∧ (s.modDec k f).wgs = s.wgs ∧
    (s.modDec k f).launches = s.launches ∧ (s.modDec k f).nextLaunch = s.nextLaunch ∧ (s.modDec k f).nextWg = s.nextWg ∧
    (s.modDec k f).ctxs = s.ctxs ∧ (s.modDec k f).vifs = s.vifs ∧ (s.modDec k f).tiles = s.tiles ∧
    (s.modDec k f).dies = s.dies ∧ (s.modDec k f).dctxs = s.dctxs ∧
    (s.modDec k f).decoders = tupd Decoder.init s.decoders k f ∧ (s.modDec k f).quads = s.quads ∧
    (s.modDec k f).arrivals = s.arrivals ∧ (s.modDec k f).regions = s.regions ∧ (s.modDec k f).gpat = s.gpat ∧
    (s.modDec k f).agenda = s.agenda ∧ (s.modDec k f).turnNo = s.turnNo ∧ (s.modDec k f).nonce = s.nonce ∧
    (s.modDec k f).cur = s.cur ∧ (s.modDec k f).spares = s.spares ∧ (s.modDec k f).noQuads = s.noQuads ∧
    (s.modDec k f).rr = s.rr ∧ (s.modDec k f).atts = s.atts ∧ (s.modDec k f).attcfg = s.attcfg ∧
    (s.modDec k f).pwrceil = s.pwrceil ∧ (s.modDec k f).meas = s.meas ∧ (s.modDec k f).version = s.version ∧
    (s.modDec k f).golden = s.golden ∧ (s.modDec k f).governor = s.governor ∧ (s.modDec k f).peerLinks = s.peerLinks ∧
    (s.modDec k f).linksLost = s.linksLost ∧ (s.modDec k f).sent = s.sent ∧ (s.modDec k f).up = s.up ∧
    (s.modDec k f).inRecovery = s.inRecovery :=
  ⟨rfl, rfl, rfl, rfl, rfl, rfl, rfl, rfl, rfl, rfl, rfl, rfl, rfl, rfl, rfl, rfl, rfl, rfl, rfl, rfl, rfl, rfl, rfl, rfl,
    rfl, rfl, rfl, rfl, rfl, rfl, rfl, rfl, rfl, rfl, rfl, rfl, rfl, rfl⟩

@[simp] theorem State.modQuad_fields (k : Nat) (f : Quad → Quad) :
    (s.modQuad k f).mem = s.mem ∧ (s.modQuad k f).wq = s.wq ∧ (s.modQuad k f).poison = s.poison ∧
    (s.modQuad k f).quar = s.quar ∧ (s.modQuad k f).bands = s.bands ∧ (s.modQuad k f).wgs = s.wgs ∧
    (s.modQuad k f).launches = s.launches ∧ (s.modQuad k f).nextLaunch = s.nextLaunch ∧ (s.modQuad k f).nextWg = s.nextWg ∧
    (s.modQuad k f).ctxs = s.ctxs ∧ (s.modQuad k f).vifs = s.vifs ∧ (s.modQuad k f).tiles = s.tiles ∧
    (s.modQuad k f).dies = s.dies ∧ (s.modQuad k f).dctxs = s.dctxs ∧ (s.modQuad k f).decoders = s.decoders ∧
    (s.modQuad k f).quads = tupd Quad.init s.quads k f ∧ (s.modQuad k f).arrivals = s.arrivals ∧
    (s.modQuad k f).regions = s.regions ∧ (s.modQuad k f).gpat = s.gpat ∧ (s.modQuad k f).agenda = s.agenda ∧
    (s.modQuad k f).turnNo = s.turnNo ∧ (s.modQuad k f).nonce = s.nonce ∧ (s.modQuad k f).cur = s.cur ∧
    (s.modQuad k f).spares = s.spares ∧ (s.modQuad k f).noQuads = s.noQuads ∧ (s.modQuad k f).rr = s.rr ∧
    (s.modQuad k f).atts = s.atts ∧ (s.modQuad k f).attcfg = s.attcfg ∧ (s.modQuad k f).pwrceil = s.pwrceil ∧
    (s.modQuad k f).meas = s.meas ∧ (s.modQuad k f).version = s.version ∧ (s.modQuad k f).golden = s.golden ∧
    (s.modQuad k f).governor = s.governor ∧ (s.modQuad k f).peerLinks = s.peerLinks ∧
    (s.modQuad k f).linksLost = s.linksLost ∧ (s.modQuad k f).sent = s.sent ∧ (s.modQuad k f).up = s.up ∧
    (s.modQuad k f).inRecovery = s.inRecovery :=
  ⟨rfl, rfl, rfl, rfl, rfl, rfl, rfl, rfl, rfl, rfl, rfl, rfl, rfl, rfl, rfl, rfl, rfl, rfl, rfl, rfl, rfl, rfl, rfl, rfl,
    rfl, rfl, rfl, rfl, rfl, rfl, rfl, rfl, rfl, rfl, rfl, rfl, rfl, rfl⟩

@[simp] theorem State.modAtt_fields (k : Nat) (f : Attendant → Attendant) :
    (s.modAtt k f).mem = s.mem ∧ (s.modAtt k f).wq = s.wq ∧ (s.modAtt k f).poison = s.poison ∧
    (s.modAtt k f).quar = s.quar ∧ (s.modAtt k f).bands = s.bands ∧ (s.modAtt k f).wgs = s.wgs ∧
    (s.modAtt k f).launches = s.launches ∧ (s.modAtt k f).nextLaunch = s.nextLaunch ∧ (s.modAtt k f).nextWg = s.nextWg ∧
    (s.modAtt k f).ctxs = s.ctxs ∧ (s.modAtt k f).vifs = s.vifs ∧ (s.modAtt k f).tiles = s.tiles ∧
    (s.modAtt k f).dies = s.dies ∧ (s.modAtt k f).dctxs = s.dctxs ∧ (s.modAtt k f).decoders = s.decoders ∧
    (s.modAtt k f).quads = s.quads ∧ (s.modAtt k f).arrivals = s.arrivals ∧ (s.modAtt k f).regions = s.regions ∧
    (s.modAtt k f).gpat = s.gpat ∧ (s.modAtt k f).agenda = s.agenda ∧ (s.modAtt k f).turnNo = s.turnNo ∧
    (s.modAtt k f).nonce = s.nonce ∧ (s.modAtt k f).cur = s.cur ∧ (s.modAtt k f).spares = s.spares ∧
    (s.modAtt k f).noQuads = s.noQuads ∧ (s.modAtt k f).rr = s.rr ∧ (s.modAtt k f).atts = tupd Attendant.init s.atts k f ∧
    (s.modAtt k f).attcfg = s.attcfg ∧ (s.modAtt k f).pwrceil = s.pwrceil ∧ (s.modAtt k f).meas = s.meas ∧
    (s.modAtt k f).version = s.version ∧ (s.modAtt k f).golden = s.golden ∧ (s.modAtt k f).governor = s.governor ∧
    (s.modAtt k f).peerLinks = s.peerLinks ∧ (s.modAtt k f).linksLost = s.linksLost ∧ (s.modAtt k f).sent = s.sent ∧
    (s.modAtt k f).up = s.up ∧ (s.modAtt k f).inRecovery = s.inRecovery :=
  ⟨rfl, rfl, rfl, rfl, rfl, rfl, rfl, rfl, rfl, rfl, rfl, rfl, rfl, rfl, rfl, rfl, rfl, rfl, rfl, rfl, rfl, rfl, rfl, rfl,
    rfl, rfl, rfl, rfl, rfl, rfl, rfl, rfl, rfl, rfl, rfl, rfl, rfl, rfl⟩

@[simp] theorem State.issuing_fields (k : Nat) (l : Bool) (n : Nat) (w : W96) (x : Extra) :
    (s.issuing k l n w x).mem = s.mem ∧ (s.issuing k l n w x).wq = s.wq ∧ (s.issuing k l n w x).poison = s.poison ∧
    (s.issuing k l n w x).quar = s.quar ∧ (s.issuing k l n w x).bands = s.bands ∧ (s.issuing k l n w x).wgs = s.wgs ∧
    (s.issuing k l n w x).launches = s.launches ∧ (s.issuing k l n w x).nextLaunch = s.nextLaunch ∧
    (s.issuing k l n w x).nextWg = s.nextWg ∧ (s.issuing k l n w x).ctxs = s.ctxs ∧ (s.issuing k l n w x).vifs = s.vifs ∧
    (s.issuing k l n w x).tiles = s.tiles ∧ (s.issuing k l n w x).dies = s.dies ∧ (s.issuing k l n w x).dctxs = s.dctxs ∧
    (s.issuing k l n w x).decoders = s.decoders ∧ (s.issuing k l n w x).quads = s.quads ∧
    (s.issuing k l n w x).arrivals = s.arrivals ∧ (s.issuing k l n w x).regions = s.regions ∧
    (s.issuing k l n w x).gpat = s.gpat ∧ (s.issuing k l n w x).agenda = s.agenda ∧
    (s.issuing k l n w x).turnNo = s.turnNo ∧ (s.issuing k l n w x).nonce = s.nonce ∧
    (s.issuing k l n w x).cur = ⟨k, l, n, w, x, 0, 0, .none, none⟩ ∧ (s.issuing k l n w x).spares = s.spares ∧
    (s.issuing k l n w x).noQuads = s.noQuads ∧ (s.issuing k l n w x).rr = s.rr ∧ (s.issuing k l n w x).atts = s.atts ∧
    (s.issuing k l n w x).attcfg = s.attcfg ∧ (s.issuing k l n w x).pwrceil = s.pwrceil ∧
    (s.issuing k l n w x).meas = s.meas ∧ (s.issuing k l n w x).version = s.version ∧
    (s.issuing k l n w x).golden = s.golden ∧ (s.issuing k l n w x).governor = s.governor ∧
    (s.issuing k l n w x).peerLinks = s.peerLinks ∧ (s.issuing k l n w x).linksLost = s.linksLost ∧
    (s.issuing k l n w x).sent = s.sent ∧ (s.issuing k l n w x).up = s.up ∧
    (s.issuing k l n w x).inRecovery = s.inRecovery :=
  ⟨rfl, rfl, rfl, rfl, rfl, rfl, rfl, rfl, rfl, rfl, rfl, rfl, rfl, rfl, rfl, rfl, rfl, rfl, rfl, rfl, rfl, rfl, rfl, rfl,
    rfl, rfl, rfl, rfl, rfl, rfl, rfl, rfl, rfl, rfl, rfl, rfl, rfl, rfl⟩

/-! ### Updates of a band: every field that each leaves -/

variable (b : Band)

@[simp] theorem Band.setS_fields (d : SReg) (v : W64) :
    (b.setS d v).wg = b.wg ∧ (b.setS d v).no = b.no ∧ (b.setS d v).launch = b.launch ∧ (b.setS d v).ctx = b.ctx ∧
    (b.setS d v).tile = b.tile ∧ (b.setS d v).ptile = b.ptile ∧ (b.setS d v).slot = b.slot ∧
    (b.setS d v).resident = b.resident ∧ (b.setS d v).prio = b.prio ∧ (b.setS d v).lanes = b.lanes ∧
    (b.setS d v).budget = b.budget ∧ (b.setS d v).qregs = b.qregs ∧ (b.setS d v).vregs = b.vregs ∧
    (b.setS d v).preds = b.preds ∧ (b.setS d v).hbank = b.hbank ∧ (b.setS d v).pc = b.pc ∧ (b.setS d v).ret = b.ret ∧
    (b.setS d v).kparam = b.kparam ∧ (b.setS d v).scrbase = b.scrbase ∧ (b.setS d v).privbase = b.privbase ∧
    (b.setS d v).wgidx = b.wgidx ∧ (b.setS d v).jto = b.jto ∧ (b.setS d v).stallchk = b.stallchk ∧
    (b.setS d v).sig = b.sig ∧ (b.setS d v).budleft = b.budleft ∧ (b.setS d v).ycstat = b.ycstat ∧
    (b.setS d v).mxStatus = b.mxStatus ∧ (b.setS d v).mxRetired = b.mxRetired ∧ (b.setS d v).mxPosted = b.mxPosted ∧
    (b.setS d v).mxBad = b.mxBad ∧ (b.setS d v).mxDone = b.mxDone ∧ (b.setS d v).tvec = b.tvec ∧
    (b.setS d v).trapcause = b.trapcause ∧ (b.setS d v).trappc = b.trappc ∧ (b.setS d v).causes = b.causes ∧
    (b.setS d v).dead = b.dead ∧ (b.setS d v).exited = b.exited ∧ (b.setS d v).rxout = b.rxout ∧
    (b.setS d v).rxpass = b.rxpass ∧ (b.setS d v).rxres = b.rxres ∧ (b.setS d v).rxpre = b.rxpre ∧
    (b.setS d v).rxseq = b.rxseq ∧ (b.setS d v).queue = b.queue ∧ (b.setS d v).run = b.run ∧
    (b.setS d v).copies = b.copies ∧ (b.setS d v).bound = b.bound ∧ (b.setS d v).slot0 = b.slot0 ∧
    (b.setS d v).slot1 = b.slot1 ∧ (b.setS d v).kinds = b.kinds ∧ (b.setS d v).timers = b.timers ∧
    (b.setS d v).flawed = b.flawed ∧ (b.setS d v).badEnd = b.badEnd ∧ (b.setS d v).firstNext = b.firstNext ∧
    (b.setS d v).sleepLane = b.sleepLane ∧ (b.setS d v).dl = b.dl ∧ (b.setS d v).pend = b.pend ∧
    (b.setS d v).ready = b.ready ∧ (b.setS d v).held = b.held ∧ (b.setS d v).deferred = b.deferred ∧
    (b.setS d v).wait = b.wait ∧ (b.setS d v).waitWord = b.waitWord ∧ (b.setS d v).ldy = b.ldy ∧
    (b.setS d v).backoff = b.backoff ∧ (b.setS d v).hold = b.hold ∧ (b.setS d v).backExt = b.backExt ∧
    (b.setS d v).clsS = b.clsS ∧ (b.setS d v).clsL = b.clsL ∧ (b.setS d v).waitS = b.waitS ∧ (b.setS d v).waitL = b.waitL ∧
    (b.setS d v).agedS = b.agedS ∧ (b.setS d v).agedL = b.agedL ∧ (b.setS d v).issuedS = b.issuedS ∧
    (b.setS d v).issuedL = b.issuedL ∧ (b.setS d v).rx = b.rx ∧ (b.setS d v).rxLate = b.rxLate ∧ (b.setS d v).rxX = b.rxX ∧
    (b.setS d v).rxN = b.rxN ∧ (b.setS d v).rxD = b.rxD ∧ (b.setS d v).rxLast = b.rxLast ∧ (b.setS d v).closed = b.closed ∧
    (b.setS d v).batch = b.batch ∧ (b.setS d v).lastGiven = b.lastGiven ∧ (b.setS d v).cab = b.cab ∧
    (b.setS d v).errV = b.errV ∧ (b.setS d v).errP = b.errP ∧ (b.setS d v).overrun = b.overrun := by
  unfold Band.setS; split <;> exact ⟨rfl, rfl, rfl, rfl, rfl, rfl, rfl, rfl, rfl, rfl, rfl, rfl, rfl, rfl, rfl, rfl, rfl, rfl, rfl, rfl, rfl, rfl, rfl, rfl,
    rfl, rfl, rfl, rfl, rfl, rfl, rfl, rfl, rfl, rfl, rfl, rfl, rfl, rfl, rfl, rfl, rfl, rfl, rfl, rfl, rfl, rfl, rfl, rfl,
    rfl, rfl, rfl, rfl, rfl, rfl, rfl, rfl, rfl, rfl, rfl, rfl, rfl, rfl, rfl, rfl, rfl, rfl, rfl, rfl, rfl, rfl, rfl, rfl,
    rfl, rfl, rfl, rfl, rfl, rfl, rfl, rfl, rfl, rfl, rfl, rfl, rfl, rfl⟩

@[simp] theorem Band.setQ_fields (d : QReg) (v : Bool) :
    (b.setQ d v).wg = b.wg ∧ (b.setQ d v).no = b.no ∧ (b.setQ d v).launch = b.launch ∧ (b.setQ d v).ctx = b.ctx ∧
    (b.setQ d v).tile = b.tile ∧ (b.setQ d v).ptile = b.ptile ∧ (b.setQ d v).slot = b.slot ∧
    (b.setQ d v).resident = b.resident ∧ (b.setQ d v).prio = b.prio ∧ (b.setQ d v).lanes = b.lanes ∧
    (b.setQ d v).budget = b.budget ∧ (b.setQ d v).sregs = b.sregs ∧ (b.setQ d v).vregs = b.vregs ∧
    (b.setQ d v).preds = b.preds ∧ (b.setQ d v).hbank = b.hbank ∧ (b.setQ d v).pc = b.pc ∧ (b.setQ d v).ret = b.ret ∧
    (b.setQ d v).kparam = b.kparam ∧ (b.setQ d v).scrbase = b.scrbase ∧ (b.setQ d v).privbase = b.privbase ∧
    (b.setQ d v).wgidx = b.wgidx ∧ (b.setQ d v).jto = b.jto ∧ (b.setQ d v).stallchk = b.stallchk ∧
    (b.setQ d v).sig = b.sig ∧ (b.setQ d v).budleft = b.budleft ∧ (b.setQ d v).ycstat = b.ycstat ∧
    (b.setQ d v).mxStatus = b.mxStatus ∧ (b.setQ d v).mxRetired = b.mxRetired ∧ (b.setQ d v).mxPosted = b.mxPosted ∧
    (b.setQ d v).mxBad = b.mxBad ∧ (b.setQ d v).mxDone = b.mxDone ∧ (b.setQ d v).tvec = b.tvec ∧
    (b.setQ d v).trapcause = b.trapcause ∧ (b.setQ d v).trappc = b.trappc ∧ (b.setQ d v).causes = b.causes ∧
    (b.setQ d v).dead = b.dead ∧ (b.setQ d v).exited = b.exited ∧ (b.setQ d v).rxout = b.rxout ∧
    (b.setQ d v).rxpass = b.rxpass ∧ (b.setQ d v).rxres = b.rxres ∧ (b.setQ d v).rxpre = b.rxpre ∧
    (b.setQ d v).rxseq = b.rxseq ∧ (b.setQ d v).queue = b.queue ∧ (b.setQ d v).run = b.run ∧
    (b.setQ d v).copies = b.copies ∧ (b.setQ d v).bound = b.bound ∧ (b.setQ d v).slot0 = b.slot0 ∧
    (b.setQ d v).slot1 = b.slot1 ∧ (b.setQ d v).kinds = b.kinds ∧ (b.setQ d v).timers = b.timers ∧
    (b.setQ d v).flawed = b.flawed ∧ (b.setQ d v).badEnd = b.badEnd ∧ (b.setQ d v).firstNext = b.firstNext ∧
    (b.setQ d v).sleepLane = b.sleepLane ∧ (b.setQ d v).dl = b.dl ∧ (b.setQ d v).pend = b.pend ∧
    (b.setQ d v).ready = b.ready ∧ (b.setQ d v).held = b.held ∧ (b.setQ d v).deferred = b.deferred ∧
    (b.setQ d v).wait = b.wait ∧ (b.setQ d v).waitWord = b.waitWord ∧ (b.setQ d v).ldy = b.ldy ∧
    (b.setQ d v).backoff = b.backoff ∧ (b.setQ d v).hold = b.hold ∧ (b.setQ d v).backExt = b.backExt ∧
    (b.setQ d v).clsS = b.clsS ∧ (b.setQ d v).clsL = b.clsL ∧ (b.setQ d v).waitS = b.waitS ∧ (b.setQ d v).waitL = b.waitL ∧
    (b.setQ d v).agedS = b.agedS ∧ (b.setQ d v).agedL = b.agedL ∧ (b.setQ d v).issuedS = b.issuedS ∧
    (b.setQ d v).issuedL = b.issuedL ∧ (b.setQ d v).rx = b.rx ∧ (b.setQ d v).rxLate = b.rxLate ∧ (b.setQ d v).rxX = b.rxX ∧
    (b.setQ d v).rxN = b.rxN ∧ (b.setQ d v).rxD = b.rxD ∧ (b.setQ d v).rxLast = b.rxLast ∧ (b.setQ d v).closed = b.closed ∧
    (b.setQ d v).batch = b.batch ∧ (b.setQ d v).lastGiven = b.lastGiven ∧ (b.setQ d v).cab = b.cab ∧
    (b.setQ d v).errV = b.errV ∧ (b.setQ d v).errP = b.errP ∧ (b.setQ d v).overrun = b.overrun := by
  unfold Band.setQ; split <;> exact ⟨rfl, rfl, rfl, rfl, rfl, rfl, rfl, rfl, rfl, rfl, rfl, rfl, rfl, rfl, rfl, rfl, rfl, rfl, rfl, rfl, rfl, rfl, rfl, rfl,
    rfl, rfl, rfl, rfl, rfl, rfl, rfl, rfl, rfl, rfl, rfl, rfl, rfl, rfl, rfl, rfl, rfl, rfl, rfl, rfl, rfl, rfl, rfl, rfl,
    rfl, rfl, rfl, rfl, rfl, rfl, rfl, rfl, rfl, rfl, rfl, rfl, rfl, rfl, rfl, rfl, rfl, rfl, rfl, rfl, rfl, rfl, rfl, rfl,
    rfl, rfl, rfl, rfl, rfl, rfl, rfl, rfl, rfl, rfl, rfl, rfl, rfl, rfl⟩

@[simp] theorem Band.putReg_fields (k : Nat) (x : W32) :
    (b.putReg k x).wg = b.wg ∧ (b.putReg k x).no = b.no ∧ (b.putReg k x).launch = b.launch ∧ (b.putReg k x).ctx = b.ctx ∧
    (b.putReg k x).tile = b.tile ∧ (b.putReg k x).ptile = b.ptile ∧ (b.putReg k x).slot = b.slot ∧
    (b.putReg k x).resident = b.resident ∧ (b.putReg k x).prio = b.prio ∧ (b.putReg k x).lanes = b.lanes ∧
    (b.putReg k x).budget = b.budget ∧ (b.putReg k x).sregs = b.sregs ∧ (b.putReg k x).qregs = b.qregs ∧
    (b.putReg k x).preds = b.preds ∧ (b.putReg k x).hbank = b.hbank ∧ (b.putReg k x).pc = b.pc ∧
    (b.putReg k x).ret = b.ret ∧ (b.putReg k x).kparam = b.kparam ∧ (b.putReg k x).scrbase = b.scrbase ∧
    (b.putReg k x).privbase = b.privbase ∧ (b.putReg k x).wgidx = b.wgidx ∧ (b.putReg k x).jto = b.jto ∧
    (b.putReg k x).stallchk = b.stallchk ∧ (b.putReg k x).sig = b.sig ∧ (b.putReg k x).budleft = b.budleft ∧
    (b.putReg k x).ycstat = b.ycstat ∧ (b.putReg k x).mxStatus = b.mxStatus ∧ (b.putReg k x).mxRetired = b.mxRetired ∧
    (b.putReg k x).mxPosted = b.mxPosted ∧ (b.putReg k x).mxBad = b.mxBad ∧ (b.putReg k x).mxDone = b.mxDone ∧
    (b.putReg k x).tvec = b.tvec ∧ (b.putReg k x).trapcause = b.trapcause ∧ (b.putReg k x).trappc = b.trappc ∧
    (b.putReg k x).causes = b.causes ∧ (b.putReg k x).dead = b.dead ∧ (b.putReg k x).exited = b.exited ∧
    (b.putReg k x).rxout = b.rxout ∧ (b.putReg k x).rxpass = b.rxpass ∧ (b.putReg k x).rxres = b.rxres ∧
    (b.putReg k x).rxpre = b.rxpre ∧ (b.putReg k x).rxseq = b.rxseq ∧ (b.putReg k x).queue = b.queue ∧
    (b.putReg k x).run = b.run ∧ (b.putReg k x).copies = b.copies ∧ (b.putReg k x).bound = b.bound ∧
    (b.putReg k x).slot0 = b.slot0 ∧ (b.putReg k x).slot1 = b.slot1 ∧ (b.putReg k x).kinds = b.kinds ∧
    (b.putReg k x).timers = b.timers ∧ (b.putReg k x).flawed = b.flawed ∧ (b.putReg k x).badEnd = b.badEnd ∧
    (b.putReg k x).firstNext = b.firstNext ∧ (b.putReg k x).sleepLane = b.sleepLane ∧ (b.putReg k x).dl = b.dl ∧
    (b.putReg k x).pend = b.pend ∧ (b.putReg k x).ready = b.ready ∧ (b.putReg k x).held = b.held ∧
    (b.putReg k x).deferred = b.deferred ∧ (b.putReg k x).wait = b.wait ∧ (b.putReg k x).waitWord = b.waitWord ∧
    (b.putReg k x).ldy = b.ldy ∧ (b.putReg k x).backoff = b.backoff ∧ (b.putReg k x).hold = b.hold ∧
    (b.putReg k x).backExt = b.backExt ∧ (b.putReg k x).clsS = b.clsS ∧ (b.putReg k x).clsL = b.clsL ∧
    (b.putReg k x).waitS = b.waitS ∧ (b.putReg k x).waitL = b.waitL ∧ (b.putReg k x).agedS = b.agedS ∧
    (b.putReg k x).agedL = b.agedL ∧ (b.putReg k x).issuedS = b.issuedS ∧ (b.putReg k x).issuedL = b.issuedL ∧
    (b.putReg k x).rx = b.rx ∧ (b.putReg k x).rxLate = b.rxLate ∧ (b.putReg k x).rxX = b.rxX ∧ (b.putReg k x).rxN = b.rxN ∧
    (b.putReg k x).rxD = b.rxD ∧ (b.putReg k x).rxLast = b.rxLast ∧ (b.putReg k x).closed = b.closed ∧
    (b.putReg k x).batch = b.batch ∧ (b.putReg k x).lastGiven = b.lastGiven ∧ (b.putReg k x).cab = b.cab ∧
    (b.putReg k x).errP = b.errP ∧ (b.putReg k x).errBand = b.errBand ∧ (b.putReg k x).overrun = b.overrun :=
  ⟨rfl, rfl, rfl, rfl, rfl, rfl, rfl, rfl, rfl, rfl, rfl, rfl, rfl, rfl, rfl, rfl, rfl, rfl, rfl, rfl, rfl, rfl, rfl, rfl,
    rfl, rfl, rfl, rfl, rfl, rfl, rfl, rfl, rfl, rfl, rfl, rfl, rfl, rfl, rfl, rfl, rfl, rfl, rfl, rfl, rfl, rfl, rfl, rfl,
    rfl, rfl, rfl, rfl, rfl, rfl, rfl, rfl, rfl, rfl, rfl, rfl, rfl, rfl, rfl, rfl, rfl, rfl, rfl, rfl, rfl, rfl, rfl, rfl,
    rfl, rfl, rfl, rfl, rfl, rfl, rfl, rfl, rfl, rfl, rfl, rfl, rfl, rfl⟩

@[simp] theorem Band.setP_fields (n : Nat) (m v : Mask) :
    (b.setP n m v).wg = b.wg ∧ (b.setP n m v).no = b.no ∧ (b.setP n m v).launch = b.launch ∧ (b.setP n m v).ctx = b.ctx ∧
    (b.setP n m v).tile = b.tile ∧ (b.setP n m v).ptile = b.ptile ∧ (b.setP n m v).slot = b.slot ∧
    (b.setP n m v).resident = b.resident ∧ (b.setP n m v).prio = b.prio ∧ (b.setP n m v).lanes = b.lanes ∧
    (b.setP n m v).budget = b.budget ∧ (b.setP n m v).sregs = b.sregs ∧ (b.setP n m v).qregs = b.qregs ∧
    (b.setP n m v).vregs = b.vregs ∧ (b.setP n m v).hbank = b.hbank ∧ (b.setP n m v).pc = b.pc ∧
    (b.setP n m v).ret = b.ret ∧ (b.setP n m v).kparam = b.kparam ∧ (b.setP n m v).scrbase = b.scrbase ∧
    (b.setP n m v).privbase = b.privbase ∧ (b.setP n m v).wgidx = b.wgidx ∧ (b.setP n m v).jto = b.jto ∧
    (b.setP n m v).stallchk = b.stallchk ∧ (b.setP n m v).sig = b.sig ∧ (b.setP n m v).budleft = b.budleft ∧
    (b.setP n m v).ycstat = b.ycstat ∧ (b.setP n m v).mxStatus = b.mxStatus ∧ (b.setP n m v).mxRetired = b.mxRetired ∧
    (b.setP n m v).mxPosted = b.mxPosted ∧ (b.setP n m v).mxBad = b.mxBad ∧ (b.setP n m v).mxDone = b.mxDone ∧
    (b.setP n m v).tvec = b.tvec ∧ (b.setP n m v).trapcause = b.trapcause ∧ (b.setP n m v).trappc = b.trappc ∧
    (b.setP n m v).causes = b.causes ∧ (b.setP n m v).dead = b.dead ∧ (b.setP n m v).exited = b.exited ∧
    (b.setP n m v).rxout = b.rxout ∧ (b.setP n m v).rxpass = b.rxpass ∧ (b.setP n m v).rxres = b.rxres ∧
    (b.setP n m v).rxpre = b.rxpre ∧ (b.setP n m v).rxseq = b.rxseq ∧ (b.setP n m v).queue = b.queue ∧
    (b.setP n m v).run = b.run ∧ (b.setP n m v).copies = b.copies ∧ (b.setP n m v).bound = b.bound ∧
    (b.setP n m v).slot0 = b.slot0 ∧ (b.setP n m v).slot1 = b.slot1 ∧ (b.setP n m v).kinds = b.kinds ∧
    (b.setP n m v).timers = b.timers ∧ (b.setP n m v).flawed = b.flawed ∧ (b.setP n m v).badEnd = b.badEnd ∧
    (b.setP n m v).firstNext = b.firstNext ∧ (b.setP n m v).sleepLane = b.sleepLane ∧ (b.setP n m v).dl = b.dl ∧
    (b.setP n m v).pend = b.pend ∧ (b.setP n m v).ready = b.ready ∧ (b.setP n m v).held = b.held ∧
    (b.setP n m v).deferred = b.deferred ∧ (b.setP n m v).wait = b.wait ∧ (b.setP n m v).waitWord = b.waitWord ∧
    (b.setP n m v).ldy = b.ldy ∧ (b.setP n m v).backoff = b.backoff ∧ (b.setP n m v).hold = b.hold ∧
    (b.setP n m v).backExt = b.backExt ∧ (b.setP n m v).clsS = b.clsS ∧ (b.setP n m v).clsL = b.clsL ∧
    (b.setP n m v).waitS = b.waitS ∧ (b.setP n m v).waitL = b.waitL ∧ (b.setP n m v).agedS = b.agedS ∧
    (b.setP n m v).agedL = b.agedL ∧ (b.setP n m v).issuedS = b.issuedS ∧ (b.setP n m v).issuedL = b.issuedL ∧
    (b.setP n m v).rx = b.rx ∧ (b.setP n m v).rxLate = b.rxLate ∧ (b.setP n m v).rxX = b.rxX ∧ (b.setP n m v).rxN = b.rxN ∧
    (b.setP n m v).rxD = b.rxD ∧ (b.setP n m v).rxLast = b.rxLast ∧ (b.setP n m v).closed = b.closed ∧
    (b.setP n m v).batch = b.batch ∧ (b.setP n m v).lastGiven = b.lastGiven ∧ (b.setP n m v).cab = b.cab ∧
    (b.setP n m v).errV = b.errV ∧ (b.setP n m v).errBand = b.errBand ∧ (b.setP n m v).overrun = b.overrun := by
  unfold Band.setP; split <;> exact ⟨rfl, rfl, rfl, rfl, rfl, rfl, rfl, rfl, rfl, rfl, rfl, rfl, rfl, rfl, rfl, rfl, rfl, rfl, rfl, rfl, rfl, rfl, rfl, rfl,
    rfl, rfl, rfl, rfl, rfl, rfl, rfl, rfl, rfl, rfl, rfl, rfl, rfl, rfl, rfl, rfl, rfl, rfl, rfl, rfl, rfl, rfl, rfl, rfl,
    rfl, rfl, rfl, rfl, rfl, rfl, rfl, rfl, rfl, rfl, rfl, rfl, rfl, rfl, rfl, rfl, rfl, rfl, rfl, rfl, rfl, rfl, rfl, rfl,
    rfl, rfl, rfl, rfl, rfl, rfl, rfl, rfl, rfl, rfl, rfl, rfl, rfl, rfl⟩

@[simp] theorem Band.countS_fields (n w : Nat) :
    (b.countS n w).wg = b.wg ∧ (b.countS n w).no = b.no ∧ (b.countS n w).launch = b.launch ∧ (b.countS n w).ctx = b.ctx ∧
    (b.countS n w).tile = b.tile ∧ (b.countS n w).ptile = b.ptile ∧ (b.countS n w).slot = b.slot ∧
    (b.countS n w).resident = b.resident ∧ (b.countS n w).prio = b.prio ∧ (b.countS n w).lanes = b.lanes ∧
    (b.countS n w).budget = b.budget ∧ (b.countS n w).sregs = b.sregs ∧ (b.countS n w).qregs = b.qregs ∧
    (b.countS n w).vregs = b.vregs ∧ (b.countS n w).preds = b.preds ∧ (b.countS n w).hbank = b.hbank ∧
    (b.countS n w).pc = b.pc ∧ (b.countS n w).ret = b.ret ∧ (b.countS n w).kparam = b.kparam ∧
    (b.countS n w).scrbase = b.scrbase ∧ (b.countS n w).privbase = b.privbase ∧ (b.countS n w).wgidx = b.wgidx ∧
    (b.countS n w).jto = b.jto ∧ (b.countS n w).stallchk = b.stallchk ∧ (b.countS n w).budleft = b.budleft ∧
    (b.countS n w).ycstat = b.ycstat ∧ (b.countS n w).mxStatus = b.mxStatus ∧ (b.countS n w).mxRetired = b.mxRetired ∧
    (b.countS n w).mxPosted = b.mxPosted ∧ (b.countS n w).mxBad = b.mxBad ∧ (b.countS n w).mxDone = b.mxDone ∧
    (b.countS n w).tvec = b.tvec ∧ (b.countS n w).trapcause = b.trapcause ∧ (b.countS n w).trappc = b.trappc ∧
    (b.countS n w).causes = b.causes ∧ (b.countS n w).dead = b.dead ∧ (b.countS n w).exited = b.exited ∧
    (b.countS n w).rxout = b.rxout ∧ (b.countS n w).rxpass = b.rxpass ∧ (b.countS n w).rxres = b.rxres ∧
    (b.countS n w).rxpre = b.rxpre ∧ (b.countS n w).rxseq = b.rxseq ∧ (b.countS n w).queue = b.queue ∧
    (b.countS n w).run = b.run ∧ (b.countS n w).copies = b.copies ∧ (b.countS n w).bound = b.bound ∧
    (b.countS n w).slot0 = b.slot0 ∧ (b.countS n w).slot1 = b.slot1 ∧ (b.countS n w).kinds = b.kinds ∧
    (b.countS n w).timers = b.timers ∧ (b.countS n w).flawed = b.flawed ∧ (b.countS n w).badEnd = b.badEnd ∧
    (b.countS n w).firstNext = b.firstNext ∧ (b.countS n w).sleepLane = b.sleepLane ∧ (b.countS n w).dl = b.dl ∧
    (b.countS n w).pend = b.pend ∧ (b.countS n w).ready = b.ready ∧ (b.countS n w).held = b.held ∧
    (b.countS n w).deferred = b.deferred ∧ (b.countS n w).wait = b.wait ∧ (b.countS n w).waitWord = b.waitWord ∧
    (b.countS n w).ldy = b.ldy ∧ (b.countS n w).backoff = b.backoff ∧ (b.countS n w).hold = b.hold ∧
    (b.countS n w).backExt = b.backExt ∧ (b.countS n w).clsS = b.clsS ∧ (b.countS n w).clsL = b.clsL ∧
    (b.countS n w).waitS = b.waitS ∧ (b.countS n w).waitL = b.waitL ∧ (b.countS n w).agedS = b.agedS ∧
    (b.countS n w).agedL = b.agedL ∧ (b.countS n w).issuedS = b.issuedS ∧ (b.countS n w).issuedL = b.issuedL ∧
    (b.countS n w).rx = b.rx ∧ (b.countS n w).rxLate = b.rxLate ∧ (b.countS n w).rxX = b.rxX ∧ (b.countS n w).rxN = b.rxN ∧
    (b.countS n w).rxD = b.rxD ∧ (b.countS n w).rxLast = b.rxLast ∧ (b.countS n w).closed = b.closed ∧
    (b.countS n w).batch = b.batch ∧ (b.countS n w).lastGiven = b.lastGiven ∧ (b.countS n w).cab = b.cab ∧
    (b.countS n w).errV = b.errV ∧ (b.countS n w).errP = b.errP ∧ (b.countS n w).errBand = b.errBand ∧
    (b.countS n w).overrun = b.overrun := by
  unfold Band.countS; split <;> exact ⟨rfl, rfl, rfl, rfl, rfl, rfl, rfl, rfl, rfl, rfl, rfl, rfl, rfl, rfl, rfl, rfl, rfl, rfl, rfl, rfl, rfl, rfl, rfl, rfl,
    rfl, rfl, rfl, rfl, rfl, rfl, rfl, rfl, rfl, rfl, rfl, rfl, rfl, rfl, rfl, rfl, rfl, rfl, rfl, rfl, rfl, rfl, rfl, rfl,
    rfl, rfl, rfl, rfl, rfl, rfl, rfl, rfl, rfl, rfl, rfl, rfl, rfl, rfl, rfl, rfl, rfl, rfl, rfl, rfl, rfl, rfl, rfl, rfl,
    rfl, rfl, rfl, rfl, rfl, rfl, rfl, rfl, rfl, rfl, rfl, rfl, rfl, rfl, rfl⟩

@[simp] theorem Band.skipS_fields (n : Nat) :
    (b.skipS n).wg = b.wg ∧ (b.skipS n).no = b.no ∧ (b.skipS n).launch = b.launch ∧ (b.skipS n).ctx = b.ctx ∧
    (b.skipS n).tile = b.tile ∧ (b.skipS n).ptile = b.ptile ∧ (b.skipS n).slot = b.slot ∧
    (b.skipS n).resident = b.resident ∧ (b.skipS n).prio = b.prio ∧ (b.skipS n).lanes = b.lanes ∧
    (b.skipS n).budget = b.budget ∧ (b.skipS n).sregs = b.sregs ∧ (b.skipS n).qregs = b.qregs ∧
    (b.skipS n).vregs = b.vregs ∧ (b.skipS n).preds = b.preds ∧ (b.skipS n).hbank = b.hbank ∧ (b.skipS n).ret = b.ret ∧
    (b.skipS n).kparam = b.kparam ∧ (b.skipS n).scrbase = b.scrbase ∧ (b.skipS n).privbase = b.privbase ∧
    (b.skipS n).wgidx = b.wgidx ∧ (b.skipS n).jto = b.jto ∧ (b.skipS n).stallchk = b.stallchk ∧ (b.skipS n).sig = b.sig ∧
    (b.skipS n).budleft = b.budleft ∧ (b.skipS n).ycstat = b.ycstat ∧ (b.skipS n).mxStatus = b.mxStatus ∧
    (b.skipS n).mxRetired = b.mxRetired ∧ (b.skipS n).mxPosted = b.mxPosted ∧ (b.skipS n).mxBad = b.mxBad ∧
    (b.skipS n).mxDone = b.mxDone ∧ (b.skipS n).tvec = b.tvec ∧ (b.skipS n).trapcause = b.trapcause ∧
    (b.skipS n).trappc = b.trappc ∧ (b.skipS n).causes = b.causes ∧ (b.skipS n).dead = b.dead ∧
    (b.skipS n).exited = b.exited ∧ (b.skipS n).rxout = b.rxout ∧ (b.skipS n).rxpass = b.rxpass ∧
    (b.skipS n).rxres = b.rxres ∧ (b.skipS n).rxpre = b.rxpre ∧ (b.skipS n).rxseq = b.rxseq ∧ (b.skipS n).queue = b.queue ∧
    (b.skipS n).run = b.run ∧ (b.skipS n).copies = b.copies ∧ (b.skipS n).bound = b.bound ∧ (b.skipS n).slot0 = b.slot0 ∧
    (b.skipS n).slot1 = b.slot1 ∧ (b.skipS n).kinds = b.kinds ∧ (b.skipS n).timers = b.timers ∧
    (b.skipS n).flawed = b.flawed ∧ (b.skipS n).badEnd = b.badEnd ∧ (b.skipS n).firstNext = b.firstNext ∧
    (b.skipS n).sleepLane = b.sleepLane ∧ (b.skipS n).dl = b.dl ∧ (b.skipS n).pend = b.pend ∧ (b.skipS n).ready = b.ready ∧
    (b.skipS n).held = b.held ∧ (b.skipS n).deferred = b.deferred ∧ (b.skipS n).waitWord = b.waitWord ∧
    (b.skipS n).ldy = b.ldy ∧ (b.skipS n).backoff = b.backoff ∧ (b.skipS n).hold = b.hold ∧
    (b.skipS n).backExt = b.backExt ∧ (b.skipS n).clsS = b.clsS ∧ (b.skipS n).clsL = b.clsL ∧ (b.skipS n).waitS = b.waitS ∧
    (b.skipS n).waitL = b.waitL ∧ (b.skipS n).agedS = b.agedS ∧ (b.skipS n).agedL = b.agedL ∧
    (b.skipS n).issuedS = b.issuedS ∧ (b.skipS n).issuedL = b.issuedL ∧ (b.skipS n).rx = b.rx ∧
    (b.skipS n).rxLate = b.rxLate ∧ (b.skipS n).rxX = b.rxX ∧ (b.skipS n).rxN = b.rxN ∧ (b.skipS n).rxD = b.rxD ∧
    (b.skipS n).rxLast = b.rxLast ∧ (b.skipS n).closed = b.closed ∧ (b.skipS n).batch = b.batch ∧
    (b.skipS n).lastGiven = b.lastGiven ∧ (b.skipS n).cab = b.cab ∧ (b.skipS n).errV = b.errV ∧ (b.skipS n).errP = b.errP ∧
    (b.skipS n).errBand = b.errBand ∧ (b.skipS n).overrun = b.overrun :=
  ⟨rfl, rfl, rfl, rfl, rfl, rfl, rfl, rfl, rfl, rfl, rfl, rfl, rfl, rfl, rfl, rfl, rfl, rfl, rfl, rfl, rfl, rfl, rfl, rfl,
    rfl, rfl, rfl, rfl, rfl, rfl, rfl, rfl, rfl, rfl, rfl, rfl, rfl, rfl, rfl, rfl, rfl, rfl, rfl, rfl, rfl, rfl, rfl, rfl,
    rfl, rfl, rfl, rfl, rfl, rfl, rfl, rfl, rfl, rfl, rfl, rfl, rfl, rfl, rfl, rfl, rfl, rfl, rfl, rfl, rfl, rfl, rfl, rfl,
    rfl, rfl, rfl, rfl, rfl, rfl, rfl, rfl, rfl, rfl, rfl, rfl, rfl, rfl⟩

@[simp] theorem Band.nextS_fields (w : Nat) :
    (b.nextS w).wg = b.wg ∧ (b.nextS w).no = b.no ∧ (b.nextS w).launch = b.launch ∧ (b.nextS w).ctx = b.ctx ∧
    (b.nextS w).tile = b.tile ∧ (b.nextS w).ptile = b.ptile ∧ (b.nextS w).slot = b.slot ∧
    (b.nextS w).resident = b.resident ∧ (b.nextS w).prio = b.prio ∧ (b.nextS w).lanes = b.lanes ∧
    (b.nextS w).budget = b.budget ∧ (b.nextS w).sregs = b.sregs ∧ (b.nextS w).qregs = b.qregs ∧
    (b.nextS w).vregs = b.vregs ∧ (b.nextS w).preds = b.preds ∧ (b.nextS w).hbank = b.hbank ∧ (b.nextS w).ret = b.ret ∧
    (b.nextS w).kparam = b.kparam ∧ (b.nextS w).scrbase = b.scrbase ∧ (b.nextS w).privbase = b.privbase ∧
    (b.nextS w).wgidx = b.wgidx ∧ (b.nextS w).jto = b.jto ∧ (b.nextS w).stallchk = b.stallchk ∧
    (b.nextS w).budleft = b.budleft ∧ (b.nextS w).ycstat = b.ycstat ∧ (b.nextS w).mxStatus = b.mxStatus ∧
    (b.nextS w).mxRetired = b.mxRetired ∧ (b.nextS w).mxPosted = b.mxPosted ∧ (b.nextS w).mxBad = b.mxBad ∧
    (b.nextS w).mxDone = b.mxDone ∧ (b.nextS w).tvec = b.tvec ∧ (b.nextS w).trapcause = b.trapcause ∧
    (b.nextS w).trappc = b.trappc ∧ (b.nextS w).causes = b.causes ∧ (b.nextS w).dead = b.dead ∧
    (b.nextS w).exited = b.exited ∧ (b.nextS w).rxout = b.rxout ∧ (b.nextS w).rxpass = b.rxpass ∧
    (b.nextS w).rxres = b.rxres ∧ (b.nextS w).rxpre = b.rxpre ∧ (b.nextS w).rxseq = b.rxseq ∧ (b.nextS w).queue = b.queue ∧
    (b.nextS w).run = b.run ∧ (b.nextS w).copies = b.copies ∧ (b.nextS w).bound = b.bound ∧ (b.nextS w).slot0 = b.slot0 ∧
    (b.nextS w).slot1 = b.slot1 ∧ (b.nextS w).kinds = b.kinds ∧ (b.nextS w).timers = b.timers ∧
    (b.nextS w).flawed = b.flawed ∧ (b.nextS w).badEnd = b.badEnd ∧ (b.nextS w).firstNext = b.firstNext ∧
    (b.nextS w).sleepLane = b.sleepLane ∧ (b.nextS w).dl = b.dl ∧ (b.nextS w).pend = b.pend ∧ (b.nextS w).ready = b.ready ∧
    (b.nextS w).held = b.held ∧ (b.nextS w).deferred = b.deferred ∧ (b.nextS w).waitWord = b.waitWord ∧
    (b.nextS w).ldy = b.ldy ∧ (b.nextS w).backoff = b.backoff ∧ (b.nextS w).hold = b.hold ∧
    (b.nextS w).backExt = b.backExt ∧ (b.nextS w).clsS = b.clsS ∧ (b.nextS w).clsL = b.clsL ∧ (b.nextS w).waitS = b.waitS ∧
    (b.nextS w).waitL = b.waitL ∧ (b.nextS w).agedS = b.agedS ∧ (b.nextS w).agedL = b.agedL ∧
    (b.nextS w).issuedS = b.issuedS ∧ (b.nextS w).issuedL = b.issuedL ∧ (b.nextS w).rx = b.rx ∧
    (b.nextS w).rxLate = b.rxLate ∧ (b.nextS w).rxX = b.rxX ∧ (b.nextS w).rxN = b.rxN ∧ (b.nextS w).rxD = b.rxD ∧
    (b.nextS w).rxLast = b.rxLast ∧ (b.nextS w).closed = b.closed ∧ (b.nextS w).batch = b.batch ∧
    (b.nextS w).lastGiven = b.lastGiven ∧ (b.nextS w).cab = b.cab ∧ (b.nextS w).errV = b.errV ∧ (b.nextS w).errP = b.errP ∧
    (b.nextS w).errBand = b.errBand ∧ (b.nextS w).overrun = b.overrun := by
  unfold Band.nextS; simp

@[simp] theorem Band.setFrag_fields (n : Nat) (f : Option Frag) :
    (b.setFrag n f).wg = b.wg ∧ (b.setFrag n f).no = b.no ∧ (b.setFrag n f).launch = b.launch ∧
    (b.setFrag n f).ctx = b.ctx ∧ (b.setFrag n f).tile = b.tile ∧ (b.setFrag n f).ptile = b.ptile ∧
    (b.setFrag n f).slot = b.slot ∧ (b.setFrag n f).resident = b.resident ∧ (b.setFrag n f).prio = b.prio ∧
    (b.setFrag n f).lanes = b.lanes ∧ (b.setFrag n f).budget = b.budget ∧ (b.setFrag n f).sregs = b.sregs ∧
    (b.setFrag n f).qregs = b.qregs ∧ (b.setFrag n f).vregs = b.vregs ∧ (b.setFrag n f).preds = b.preds ∧
    (b.setFrag n f).hbank = b.hbank ∧ (b.setFrag n f).pc = b.pc ∧ (b.setFrag n f).ret = b.ret ∧
    (b.setFrag n f).kparam = b.kparam ∧ (b.setFrag n f).scrbase = b.scrbase ∧ (b.setFrag n f).privbase = b.privbase ∧
    (b.setFrag n f).wgidx = b.wgidx ∧ (b.setFrag n f).jto = b.jto ∧ (b.setFrag n f).stallchk = b.stallchk ∧
    (b.setFrag n f).sig = b.sig ∧ (b.setFrag n f).budleft = b.budleft ∧ (b.setFrag n f).ycstat = b.ycstat ∧
    (b.setFrag n f).mxStatus = b.mxStatus ∧ (b.setFrag n f).mxRetired = b.mxRetired ∧
    (b.setFrag n f).mxPosted = b.mxPosted ∧ (b.setFrag n f).mxBad = b.mxBad ∧ (b.setFrag n f).mxDone = b.mxDone ∧
    (b.setFrag n f).tvec = b.tvec ∧ (b.setFrag n f).trapcause = b.trapcause ∧ (b.setFrag n f).trappc = b.trappc ∧
    (b.setFrag n f).causes = b.causes ∧ (b.setFrag n f).dead = b.dead ∧ (b.setFrag n f).exited = b.exited ∧
    (b.setFrag n f).rxout = b.rxout ∧ (b.setFrag n f).rxpass = b.rxpass ∧ (b.setFrag n f).rxres = b.rxres ∧
    (b.setFrag n f).rxpre = b.rxpre ∧ (b.setFrag n f).rxseq = b.rxseq ∧ (b.setFrag n f).queue = b.queue ∧
    (b.setFrag n f).run = b.run ∧ (b.setFrag n f).copies = b.copies ∧ (b.setFrag n f).bound = b.bound ∧
    (b.setFrag n f).kinds = b.kinds ∧ (b.setFrag n f).timers = b.timers ∧ (b.setFrag n f).flawed = b.flawed ∧
    (b.setFrag n f).badEnd = b.badEnd ∧ (b.setFrag n f).firstNext = b.firstNext ∧ (b.setFrag n f).sleepLane = b.sleepLane ∧
    (b.setFrag n f).dl = b.dl ∧ (b.setFrag n f).pend = b.pend ∧ (b.setFrag n f).ready = b.ready ∧
    (b.setFrag n f).held = b.held ∧ (b.setFrag n f).deferred = b.deferred ∧ (b.setFrag n f).wait = b.wait ∧
    (b.setFrag n f).waitWord = b.waitWord ∧ (b.setFrag n f).ldy = b.ldy ∧ (b.setFrag n f).backoff = b.backoff ∧
    (b.setFrag n f).hold = b.hold ∧ (b.setFrag n f).backExt = b.backExt ∧ (b.setFrag n f).clsS = b.clsS ∧
    (b.setFrag n f).clsL = b.clsL ∧ (b.setFrag n f).waitS = b.waitS ∧ (b.setFrag n f).waitL = b.waitL ∧
    (b.setFrag n f).agedS = b.agedS ∧ (b.setFrag n f).agedL = b.agedL ∧ (b.setFrag n f).issuedS = b.issuedS ∧
    (b.setFrag n f).issuedL = b.issuedL ∧ (b.setFrag n f).rx = b.rx ∧ (b.setFrag n f).rxLate = b.rxLate ∧
    (b.setFrag n f).rxX = b.rxX ∧ (b.setFrag n f).rxN = b.rxN ∧ (b.setFrag n f).rxD = b.rxD ∧
    (b.setFrag n f).rxLast = b.rxLast ∧ (b.setFrag n f).closed = b.closed ∧ (b.setFrag n f).batch = b.batch ∧
    (b.setFrag n f).lastGiven = b.lastGiven ∧ (b.setFrag n f).cab = b.cab ∧ (b.setFrag n f).errV = b.errV ∧
    (b.setFrag n f).errP = b.errP ∧ (b.setFrag n f).errBand = b.errBand ∧ (b.setFrag n f).overrun = b.overrun := by
  unfold Band.setFrag; split <;> exact ⟨rfl, rfl, rfl, rfl, rfl, rfl, rfl, rfl, rfl, rfl, rfl, rfl, rfl, rfl, rfl, rfl, rfl, rfl, rfl, rfl, rfl, rfl, rfl, rfl,
    rfl, rfl, rfl, rfl, rfl, rfl, rfl, rfl, rfl, rfl, rfl, rfl, rfl, rfl, rfl, rfl, rfl, rfl, rfl, rfl, rfl, rfl, rfl, rfl,
    rfl, rfl, rfl, rfl, rfl, rfl, rfl, rfl, rfl, rfl, rfl, rfl, rfl, rfl, rfl, rfl, rfl, rfl, rfl, rfl, rfl, rfl, rfl, rfl,
    rfl, rfl, rfl, rfl, rfl, rfl, rfl, rfl, rfl, rfl, rfl, rfl, rfl, rfl⟩

@[simp] theorem Band.due_fields (p : Bool) (r : Nat) (m : Mask) (c : Nat) (o : List (Nat × W32)) :
    (b.due p r m c o).wg = b.wg ∧ (b.due p r m c o).no = b.no ∧ (b.due p r m c o).launch = b.launch ∧
    (b.due p r m c o).ctx = b.ctx ∧ (b.due p r m c o).tile = b.tile ∧ (b.due p r m c o).ptile = b.ptile ∧
    (b.due p r m c o).slot = b.slot ∧ (b.due p r m c o).resident = b.resident ∧ (b.due p r m c o).prio = b.prio ∧
    (b.due p r m c o).lanes = b.lanes ∧ (b.due p r m c o).budget = b.budget ∧ (b.due p r m c o).sregs = b.sregs ∧
    (b.due p r m c o).qregs = b.qregs ∧ (b.due p r m c o).vregs = b.vregs ∧ (b.due p r m c o).preds = b.preds ∧
    (b.due p r m c o).hbank = b.hbank ∧ (b.due p r m c o).pc = b.pc ∧ (b.due p r m c o).ret = b.ret ∧
    (b.due p r m c o).kparam = b.kparam ∧ (b.due p r m c o).scrbase = b.scrbase ∧ (b.due p r m c o).privbase = b.privbase ∧
    (b.due p r m c o).wgidx = b.wgidx ∧ (b.due p r m c o).jto = b.jto ∧ (b.due p r m c o).stallchk = b.stallchk ∧
    (b.due p r m c o).sig = b.sig ∧ (b.due p r m c o).budleft = b.budleft ∧ (b.due p r m c o).ycstat = b.ycstat ∧
    (b.due p r m c o).mxStatus = b.mxStatus ∧ (b.due p r m c o).mxRetired = b.mxRetired ∧
    (b.due p r m c o).mxPosted = b.mxPosted ∧ (b.due p r m c o).mxBad = b.mxBad ∧ (b.due p r m c o).mxDone = b.mxDone ∧
    (b.due p r m c o).tvec = b.tvec ∧ (b.due p r m c o).trapcause = b.trapcause ∧ (b.due p r m c o).trappc = b.trappc ∧
    (b.due p r m c o).causes = b.causes ∧ (b.due p r m c o).dead = b.dead ∧ (b.due p r m c o).exited = b.exited ∧
    (b.due p r m c o).rxout = b.rxout ∧ (b.due p r m c o).rxpass = b.rxpass ∧ (b.due p r m c o).rxres = b.rxres ∧
    (b.due p r m c o).rxpre = b.rxpre ∧ (b.due p r m c o).rxseq = b.rxseq ∧ (b.due p r m c o).queue = b.queue ∧
    (b.due p r m c o).run = b.run ∧ (b.due p r m c o).copies = b.copies ∧ (b.due p r m c o).bound = b.bound ∧
    (b.due p r m c o).slot0 = b.slot0 ∧ (b.due p r m c o).slot1 = b.slot1 ∧ (b.due p r m c o).kinds = b.kinds ∧
    (b.due p r m c o).timers = b.timers ∧ (b.due p r m c o).flawed = b.flawed ∧ (b.due p r m c o).badEnd = b.badEnd ∧
    (b.due p r m c o).firstNext = b.firstNext ∧ (b.due p r m c o).sleepLane = b.sleepLane ∧ (b.due p r m c o).dl = b.dl ∧
    (b.due p r m c o).pend = b.pend ∧ (b.due p r m c o).held = b.held ∧ (b.due p r m c o).deferred = b.deferred ∧
    (b.due p r m c o).wait = b.wait ∧ (b.due p r m c o).waitWord = b.waitWord ∧ (b.due p r m c o).ldy = b.ldy ∧
    (b.due p r m c o).backoff = b.backoff ∧ (b.due p r m c o).hold = b.hold ∧ (b.due p r m c o).backExt = b.backExt ∧
    (b.due p r m c o).clsS = b.clsS ∧ (b.due p r m c o).clsL = b.clsL ∧ (b.due p r m c o).waitS = b.waitS ∧
    (b.due p r m c o).waitL = b.waitL ∧ (b.due p r m c o).agedS = b.agedS ∧ (b.due p r m c o).agedL = b.agedL ∧
    (b.due p r m c o).issuedS = b.issuedS ∧ (b.due p r m c o).issuedL = b.issuedL ∧ (b.due p r m c o).rx = b.rx ∧
    (b.due p r m c o).rxLate = b.rxLate ∧ (b.due p r m c o).rxX = b.rxX ∧ (b.due p r m c o).rxN = b.rxN ∧
    (b.due p r m c o).rxD = b.rxD ∧ (b.due p r m c o).rxLast = b.rxLast ∧ (b.due p r m c o).closed = b.closed ∧
    (b.due p r m c o).batch = b.batch ∧ (b.due p r m c o).lastGiven = b.lastGiven ∧ (b.due p r m c o).cab = b.cab ∧
    (b.due p r m c o).errV = b.errV ∧ (b.due p r m c o).errP = b.errP ∧ (b.due p r m c o).errBand = b.errBand ∧
    (b.due p r m c o).overrun = b.overrun := by
  unfold Band.due; split <;> exact ⟨rfl, rfl, rfl, rfl, rfl, rfl, rfl, rfl, rfl, rfl, rfl, rfl, rfl, rfl, rfl, rfl, rfl, rfl, rfl, rfl, rfl, rfl, rfl, rfl,
    rfl, rfl, rfl, rfl, rfl, rfl, rfl, rfl, rfl, rfl, rfl, rfl, rfl, rfl, rfl, rfl, rfl, rfl, rfl, rfl, rfl, rfl, rfl, rfl,
    rfl, rfl, rfl, rfl, rfl, rfl, rfl, rfl, rfl, rfl, rfl, rfl, rfl, rfl, rfl, rfl, rfl, rfl, rfl, rfl, rfl, rfl, rfl, rfl,
    rfl, rfl, rfl, rfl, rfl, rfl, rfl, rfl, rfl, rfl, rfl, rfl, rfl, rfl, rfl⟩

@[simp] theorem Band.later_fields (p : Pend) :
    (b.later p).wg = b.wg ∧ (b.later p).no = b.no ∧ (b.later p).launch = b.launch ∧ (b.later p).ctx = b.ctx ∧
    (b.later p).tile = b.tile ∧ (b.later p).ptile = b.ptile ∧ (b.later p).slot = b.slot ∧
    (b.later p).resident = b.resident ∧ (b.later p).prio = b.prio ∧ (b.later p).lanes = b.lanes ∧
    (b.later p).budget = b.budget ∧ (b.later p).sregs = b.sregs ∧ (b.later p).qregs = b.qregs ∧
    (b.later p).vregs = b.vregs ∧ (b.later p).preds = b.preds ∧ (b.later p).hbank = b.hbank ∧ (b.later p).pc = b.pc ∧
    (b.later p).ret = b.ret ∧ (b.later p).kparam = b.kparam ∧ (b.later p).scrbase = b.scrbase ∧
    (b.later p).privbase = b.privbase ∧ (b.later p).wgidx = b.wgidx ∧ (b.later p).jto = b.jto ∧
    (b.later p).stallchk = b.stallchk ∧ (b.later p).sig = b.sig ∧ (b.later p).budleft = b.budleft ∧
    (b.later p).ycstat = b.ycstat ∧ (b.later p).mxStatus = b.mxStatus ∧ (b.later p).mxRetired = b.mxRetired ∧
    (b.later p).mxPosted = b.mxPosted ∧ (b.later p).mxBad = b.mxBad ∧ (b.later p).mxDone = b.mxDone ∧
    (b.later p).tvec = b.tvec ∧ (b.later p).trapcause = b.trapcause ∧ (b.later p).trappc = b.trappc ∧
    (b.later p).causes = b.causes ∧ (b.later p).dead = b.dead ∧ (b.later p).exited = b.exited ∧
    (b.later p).rxout = b.rxout ∧ (b.later p).rxpass = b.rxpass ∧ (b.later p).rxres = b.rxres ∧
    (b.later p).rxpre = b.rxpre ∧ (b.later p).rxseq = b.rxseq ∧ (b.later p).queue = b.queue ∧ (b.later p).run = b.run ∧
    (b.later p).copies = b.copies ∧ (b.later p).bound = b.bound ∧ (b.later p).slot0 = b.slot0 ∧
    (b.later p).slot1 = b.slot1 ∧ (b.later p).kinds = b.kinds ∧ (b.later p).timers = b.timers ∧
    (b.later p).flawed = b.flawed ∧ (b.later p).badEnd = b.badEnd ∧ (b.later p).firstNext = b.firstNext ∧
    (b.later p).sleepLane = b.sleepLane ∧ (b.later p).dl = b.dl ∧ (b.later p).ready = b.ready ∧ (b.later p).held = b.held ∧
    (b.later p).deferred = b.deferred ∧ (b.later p).wait = b.wait ∧ (b.later p).waitWord = b.waitWord ∧
    (b.later p).ldy = b.ldy ∧ (b.later p).backoff = b.backoff ∧ (b.later p).hold = b.hold ∧
    (b.later p).backExt = b.backExt ∧ (b.later p).clsS = b.clsS ∧ (b.later p).clsL = b.clsL ∧ (b.later p).waitS = b.waitS ∧
    (b.later p).waitL = b.waitL ∧ (b.later p).agedS = b.agedS ∧ (b.later p).agedL = b.agedL ∧
    (b.later p).issuedS = b.issuedS ∧ (b.later p).issuedL = b.issuedL ∧ (b.later p).rx = b.rx ∧
    (b.later p).rxLate = b.rxLate ∧ (b.later p).rxX = b.rxX ∧ (b.later p).rxN = b.rxN ∧ (b.later p).rxD = b.rxD ∧
    (b.later p).rxLast = b.rxLast ∧ (b.later p).closed = b.closed ∧ (b.later p).batch = b.batch ∧
    (b.later p).lastGiven = b.lastGiven ∧ (b.later p).cab = b.cab ∧ (b.later p).errV = b.errV ∧ (b.later p).errP = b.errP ∧
    (b.later p).errBand = b.errBand ∧ (b.later p).overrun = b.overrun :=
  ⟨rfl, rfl, rfl, rfl, rfl, rfl, rfl, rfl, rfl, rfl, rfl, rfl, rfl, rfl, rfl, rfl, rfl, rfl, rfl, rfl, rfl, rfl, rfl, rfl,
    rfl, rfl, rfl, rfl, rfl, rfl, rfl, rfl, rfl, rfl, rfl, rfl, rfl, rfl, rfl, rfl, rfl, rfl, rfl, rfl, rfl, rfl, rfl, rfl,
    rfl, rfl, rfl, rfl, rfl, rfl, rfl, rfl, rfl, rfl, rfl, rfl, rfl, rfl, rfl, rfl, rfl, rfl, rfl, rfl, rfl, rfl, rfl, rfl,
    rfl, rfl, rfl, rfl, rfl, rfl, rfl, rfl, rfl, rfl, rfl, rfl, rfl, rfl, rfl⟩

@[simp] theorem Band.moveL_fields (c : Cur) (n : Nat) (a : W64) (k : Bool) :
    (b.moveL c n a k).wg = b.wg ∧ (b.moveL c n a k).no = b.no ∧ (b.moveL c n a k).launch = b.launch ∧
    (b.moveL c n a k).ctx = b.ctx ∧ (b.moveL c n a k).tile = b.tile ∧ (b.moveL c n a k).ptile = b.ptile ∧
    (b.moveL c n a k).slot = b.slot ∧ (b.moveL c n a k).resident = b.resident ∧ (b.moveL c n a k).prio = b.prio ∧
    (b.moveL c n a k).lanes = b.lanes ∧ (b.moveL c n a k).budget = b.budget ∧ (b.moveL c n a k).sregs = b.sregs ∧
    (b.moveL c n a k).qregs = b.qregs ∧ (b.moveL c n a k).vregs = b.vregs ∧ (b.moveL c n a k).preds = b.preds ∧
    (b.moveL c n a k).hbank = b.hbank ∧ (b.moveL c n a k).pc = b.pc ∧ (b.moveL c n a k).ret = b.ret ∧
    (b.moveL c n a k).kparam = b.kparam ∧ (b.moveL c n a k).scrbase = b.scrbase ∧ (b.moveL c n a k).privbase = b.privbase ∧
    (b.moveL c n a k).wgidx = b.wgidx ∧ (b.moveL c n a k).jto = b.jto ∧ (b.moveL c n a k).stallchk = b.stallchk ∧
    (b.moveL c n a k).sig = b.sig ∧ (b.moveL c n a k).budleft = b.budleft ∧ (b.moveL c n a k).ycstat = b.ycstat ∧
    (b.moveL c n a k).mxStatus = b.mxStatus ∧ (b.moveL c n a k).mxRetired = b.mxRetired ∧
    (b.moveL c n a k).mxPosted = b.mxPosted ∧ (b.moveL c n a k).mxBad = b.mxBad ∧ (b.moveL c n a k).mxDone = b.mxDone ∧
    (b.moveL c n a k).tvec = b.tvec ∧ (b.moveL c n a k).trapcause = b.trapcause ∧ (b.moveL c n a k).trappc = b.trappc ∧
    (b.moveL c n a k).causes = b.causes ∧ (b.moveL c n a k).dead = b.dead ∧ (b.moveL c n a k).exited = b.exited ∧
    (b.moveL c n a k).rxout = b.rxout ∧ (b.moveL c n a k).rxpass = b.rxpass ∧ (b.moveL c n a k).rxres = b.rxres ∧
    (b.moveL c n a k).rxpre = b.rxpre ∧ (b.moveL c n a k).rxseq = b.rxseq ∧ (b.moveL c n a k).queue = b.queue ∧
    (b.moveL c n a k).run = b.run ∧ (b.moveL c n a k).copies = b.copies ∧ (b.moveL c n a k).bound = b.bound ∧
    (b.moveL c n a k).kinds = b.kinds ∧ (b.moveL c n a k).timers = b.timers ∧ (b.moveL c n a k).flawed = b.flawed ∧
    (b.moveL c n a k).badEnd = b.badEnd ∧ (b.moveL c n a k).firstNext = b.firstNext ∧
    (b.moveL c n a k).sleepLane = b.sleepLane ∧ (b.moveL c n a k).dl = b.dl ∧ (b.moveL c n a k).pend = b.pend ∧
    (b.moveL c n a k).ready = b.ready ∧ (b.moveL c n a k).held = b.held ∧ (b.moveL c n a k).deferred = b.deferred ∧
    (b.moveL c n a k).wait = b.wait ∧ (b.moveL c n a k).waitWord = b.waitWord ∧ (b.moveL c n a k).ldy = b.ldy ∧
    (b.moveL c n a k).backoff = b.backoff ∧ (b.moveL c n a k).hold = b.hold ∧ (b.moveL c n a k).backExt = b.backExt ∧
    (b.moveL c n a k).clsS = b.clsS ∧ (b.moveL c n a k).clsL = b.clsL ∧ (b.moveL c n a k).waitS = b.waitS ∧
    (b.moveL c n a k).waitL = b.waitL ∧ (b.moveL c n a k).agedS = b.agedS ∧ (b.moveL c n a k).agedL = b.agedL ∧
    (b.moveL c n a k).issuedS = b.issuedS ∧ (b.moveL c n a k).issuedL = b.issuedL ∧ (b.moveL c n a k).rx = b.rx ∧
    (b.moveL c n a k).rxLate = b.rxLate ∧ (b.moveL c n a k).rxX = b.rxX ∧ (b.moveL c n a k).rxN = b.rxN ∧
    (b.moveL c n a k).rxD = b.rxD ∧ (b.moveL c n a k).rxLast = b.rxLast ∧ (b.moveL c n a k).closed = b.closed ∧
    (b.moveL c n a k).batch = b.batch ∧ (b.moveL c n a k).lastGiven = b.lastGiven ∧ (b.moveL c n a k).cab = b.cab ∧
    (b.moveL c n a k).errV = b.errV ∧ (b.moveL c n a k).errP = b.errP ∧ (b.moveL c n a k).errBand = b.errBand ∧
    (b.moveL c n a k).overrun = b.overrun := by
  unfold Band.moveL; split
  · exact ⟨rfl, rfl, rfl, rfl, rfl, rfl, rfl, rfl, rfl, rfl, rfl, rfl, rfl, rfl, rfl, rfl, rfl, rfl, rfl, rfl, rfl, rfl, rfl, rfl,
    rfl, rfl, rfl, rfl, rfl, rfl, rfl, rfl, rfl, rfl, rfl, rfl, rfl, rfl, rfl, rfl, rfl, rfl, rfl, rfl, rfl, rfl, rfl, rfl,
    rfl, rfl, rfl, rfl, rfl, rfl, rfl, rfl, rfl, rfl, rfl, rfl, rfl, rfl, rfl, rfl, rfl, rfl, rfl, rfl, rfl, rfl, rfl, rfl,
    rfl, rfl, rfl, rfl, rfl, rfl, rfl, rfl, rfl, rfl, rfl, rfl, rfl, rfl⟩
  · simp

/-! ### Reading a register after writing one -/

@[simp] theorem Band.s_zero : b.s 0#6 = 0 := rfl

theorem Band.s_setS (d r : SReg) (v : W64) :
    (b.setS d v).s r = if r = d ∧ d ≠ 0#6 then v else b.s r := by
  by_cases h : d = 0#6
  · simp [Band.setS, h]
  · by_cases hr : r = d
    · subst hr; simp [Band.setS, Band.s, h, tget_tput]
    · have : r.toNat ≠ d.toNat := fun e => hr (BitVec.eq_of_toNat_eq e)
      simp [Band.setS, Band.s, h, hr, tget_tput, this]

theorem Band.q_setQ (d r : QReg) (v : Bool) :
    (b.setQ d v).q r = if r = d ∧ d ≠ 0#3 then v else b.q r := by
  by_cases h : d = 0#3
  · simp [Band.setQ, h]
  · by_cases hr : r = d
    · subst hr; simp [Band.setQ, Band.q, h, tget_tput]
    · have : r.toNat ≠ d.toNat := fun e => hr (BitVec.eq_of_toNat_eq e)
      simp [Band.setQ, Band.q, h, hr, tget_tput, this]

theorem Band.reg_putReg (k j : Nat) (x : W32) :
    tget 0 (b.putReg k x).vregs j = if j = k then x else tget 0 b.vregs j := tget_tput ..

theorem Band.pmask_setP (n j : Nat) (m v : Mask) :
    (b.setP n m v).pmask j = if j = n ∧ n ≠ 0 then (b.pmask n &&& ~~~m) ||| (v &&& m) else b.pmask j := by
  by_cases h : n = 0
  · simp [Band.setP, h]
  · by_cases hj : j = n
    · subst hj; simp [Band.setP, Band.pmask, h, tget_tput]
    · simp [Band.setP, Band.pmask, h, hj, tget_tput]

/-- Registers other than the numbered ones do not matter to the reads of these. -/
theorem Band.s_congr {a b : Band} (h : a.sregs = b.sregs) (r : SReg) : a.s r = b.s r := by simp [Band.s, h]
theorem Band.q_congr {a b : Band} (h : a.qregs = b.qregs) (r : QReg) : a.q r = b.q r := by simp [Band.q, h]
theorem Band.pmask_congr {a b : Band} (h : a.preds = b.preds) (n : Nat) : a.pmask n = b.pmask n := by
  simp [Band.pmask, h]
theorem Band.v_congr {a b : Band} (h : a.vregs = b.vregs) (n l : Nat) : a.v n l = b.v n l := by simp [Band.v, h]

/-! ### Reading a band after changing one -/

variable {s}

theorem State.band_modBand {k : Nat} (f : Band → Band) (h : (tget? s.bands k).isSome) (j : Nat) :
    (s.modBand k f).band j = if j = k then f (s.band k) else s.band j := tget_tmod _ _ _ _ _ h

theorem State.band_modBand_ne {k j : Nat} (f : Band → Band) (h : j ≠ k) : (s.modBand k f).band j = s.band j :=
  tget_tmod_ne _ _ _ _ _ h

theorem State.cb_modCb (f : Band → Band) (h : (tget? s.bands s.cur.band).isSome) : (s.modCb f).cb = f s.cb := by
  have := State.band_modBand f h s.cur.band; simpa [State.cb, State.modCb] using this

theorem State.tile_modTile (k j : Nat) (f : Tile → Tile) :
    (s.modTile k f).tile j = if j = k then f (s.tile k) else s.tile j := tget_tupd ..

theorem State.ctx_modCtx (k j : Nat) (f : Context → Context) :
    (s.modCtx k f).ctx j = if j = k then f (s.ctx k) else s.ctx j := tget_tupd ..

theorem State.vif_modVif (k j : Nat) (f : Vif → Vif) :
    (s.modVif k f).vif j = if j = k then f (s.vif k) else s.vif j := tget_tupd ..

end Sys2Proof.Machine
end

