-- ==== Sys2Proof/Laws/Ops.lean ====
section
/-!
SUPPORT. What each shared operation can do, said once: updates of a band in a row, the end of a scalar and of a lane instruction,
the writes and reads of memory, the taking of a trap, the signal.
-/
namespace Sys2Proof.Machine

open Sys2Proof.Claims

/-! ### Updates of one entry in a row -/

theorem tset_tset {α : Type} (t : Tbl α) (k : Nat) (v w : α) : tset (tset t k v) k w = tset t k w := by
  induction t with
  | nil => simp [tset]
  | cons e t ih =>
    by_cases h1 : k < e.1
    · simp [tset, h1]
    · by_cases h2 : k = e.1
      · simp [tset, h2]
      · simp [tset, h1, h2, ih]

theorem tmod_tmod {α : Type} (t : Tbl α) (k : Nat) (f g : α → α) : tmod (tmod t k f) k g = tmod t k (g ∘ f) := by
  unfold tmod
  cases h : tget? t k with
  | none => simp [h]
  | some v => simp [tget?_tset, tset_tset]

theorem State.modBand_modBand (s : State) (k : Nat) (f g : Band → Band) :
    (s.modBand k f).modBand k g = s.modBand k (g ∘ f) := by
  simp [State.modBand, tmod_tmod]

theorem State.modCb_modCb (s : State) (f g : Band → Band) : (s.modCb f).modCb g = s.modCb (g ∘ f) := by
  simp [State.modCb, State.modBand, tmod_tmod]

/-- Two updates that agree on the band as it stands are one update. -/
theorem State.modBand_congr (s : State) (k : Nat) {f g : Band → Band} (h : f (s.band k) = g (s.band k)) :
    s.modBand k f = s.modBand k g := by
  unfold State.modBand tmod
  unfold State.band tget at h
  split <;> simp_all

theorem State.modCb_congr (s : State) {f g : Band → Band} (h : f s.cb = g s.cb) : s.modCb f = s.modCb g :=
  s.modBand_congr _ h

/-! ### The end of an instruction -/

/-- The end of a scalar instruction, in the words of the statements. -/
theorem scalarDone_eq (s : State) (f : Band → Band) : scalarDone s f = finishS s f := by
  unfold scalarDone finishS Band.nextS Band.countS Band.skipS onward
  congr 1; funext b
  split <;> simp_all [w64]

theorem wentTo_eq (s : State) (a : W64) (f : Band → Band) : wentTo s a f = goS s a f := rfl

/-- The end of a lane instruction, in the words of the statements. -/
theorem laneDone_eq (s : State) (f : Band → Band) : laneDone s f = finishL s f := by
  unfold laneDone finishL Band.moveL State.cycleOf
  simp only
  congr 1; funext b
  simp only [Bool.true_and, Bool.not_eq_true']
  cases (f b).frag s.cur.slot with
  | none => rfl
  | some g => cases (f b).inBody <;> rfl

/-- A scalar instruction ends with its band changed, and nothing else of the machine. -/
theorem finishS_frame (s : State) (f : Band → Band) :
    finishS s f = s.modBand s.cur.band (fun b => (f b).nextS s.cur.word.toNat) := rfl

theorem finishL_frame (s : State) (f : Band → Band) :
    finishL s f =
      s.modBand s.cur.band (fun b => (f b).moveL s.cur (s.cycleOf s.cb) (s.cf.pc + 12) true) := rfl

/-- What reads memory does not see the end of an instruction. -/
@[simp] theorem peek_modBand (s : State) (k j : Nat) (f : Band → Band) : (s.modBand k f).peek j = s.peek j := rfl
@[simp] theorem peek_modCb (s : State) (j : Nat) (f : Band → Band) : (s.modCb f).peek j = s.peek j := rfl
@[simp] theorem peek_finishS (s : State) (j : Nat) (f : Band → Band) : (finishS s f).peek j = s.peek j := rfl
@[simp] theorem peek_finishL (s : State) (j : Nat) (f : Band → Band) : (finishL s f).peek j = s.peek j := rfl
@[simp] theorem peek_modTile (s : State) (p j : Nat) (f : Tile → Tile) : (s.modTile p f).peek j = s.peek j := rfl
@[simp] theorem peek_modLaunch (s : State) (l j : Nat) (f : Launch → Launch) : (s.modLaunch l f).peek j = s.peek j := rfl
@[simp] theorem peek_modCtx (s : State) (c j : Nat) (f : Context → Context) : (s.modCtx c f).peek j = s.peek j := rfl
@[simp] theorem peek_setPoison (s : State) (k n : Nat) (bad : Bool) (j : Nat) :
    (setPoison s k n bad).peek j = s.peek j := by unfold setPoison; cases bad <;> rfl

@[simp] theorem mem_setPoison (s : State) (k n : Nat) (bad : Bool) : (setPoison s k n bad).mem = s.mem := by
  unfold setPoison; cases bad <;> rfl

/-! ### The writes of memory keep the canonical form -/

theorem wf_copyUnit {s : State} (h : Memory.wf s.mem) (src dst : Nat) : Memory.wf (copyUnit s src dst).mem :=
  wf_copyPlaces (wf_settle h) src dst 65536

theorem wf_shadowOne {s : State} (h : Memory.wf s.mem) (l va k : Nat) : Memory.wf (shadowOne s l va k).mem := by
  unfold shadowOne
  repeat' split
  all_goals first
    | exact h
    | exact wf_copyUnit h _ _

/-- A property that every step of a fold keeps holds after it. -/
theorem foldl_keeps {σ β : Type} (P : σ → Prop) (f : σ → β → σ) (hf : ∀ s b, P s → P (f s b)) (l : List β) :
    ∀ {s : σ}, P s → P (l.foldl f s) := by
  induction l with
  | nil => exact fun h => h
  | cons b l ih => exact fun h => ih (hf _ _ h)

theorem wf_contain {s : State} (h : Memory.wf s.mem) (ag : Agent) (va k : Nat) : Memory.wf (contain s ag va k).mem := by
  unfold contain
  split
  · exact h
  · split
    · exact foldl_keeps (fun s : State => Memory.wf s.mem) _ (fun _ _ h => wf_shadowOne h _ _ _) _ h
    · split
      · exact h
      · refine foldl_keeps (fun s : State => Memory.wf s.mem) (fun s l => s.modLaunch l _) ?_ _ h
        exact fun _ _ h => h
    · refine foldl_keeps (fun s : State => Memory.wf s.mem) (fun s l => s.modLaunch l _) ?_ _ h
      exact fun _ _ h => h

@[simp] theorem mem_l1Engine (s : State) (line : Nat) : (l1Engine s line).mem = s.mem := by
  unfold l1Engine; split <;> rfl

/-- What an engine's write does to the caches leaves memory as it is. -/
theorem wf_cached {s : State} (h : Memory.wf s.mem) (c : Bool) (line : Nat) :
    Memory.wf (if c then l1Engine s line else s).mem := by
  split
  · rwa [mem_l1Engine]
  · exact h

theorem wf_writePiece {s : State} (h : Memory.wf s.mem) (ag : Agent) (bad : Bool) (va k : Nat) (bs : List Byte) :
    Memory.wf (writePiece s ag bad va k bs).mem := by
  unfold writePiece
  rw [mem_setPoison]
  have h' := wf_enqStore (wf_contain h ag va k) k bs
  split
  · exact h'
  · exact wf_cached h' _ _

@[simp] theorem mem_tlbFill (s : State) (ag : Agent) (va : Nat) : (tlbFill s ag va).mem = s.mem := by
  unfold tlbFill; repeat' split
  all_goals rfl

@[simp] theorem peek_tlbFill (s : State) (ag : Agent) (va j : Nat) : (tlbFill s ag va).peek j = s.peek j := by
  unfold tlbFill; repeat' split
  all_goals rfl

theorem wf_storeAt {s : State} (h : Memory.wf s.mem) (ag : Agent) (bad : Bool) (va : Nat) (ks : List Nat) (bs : List Byte) :
    Memory.wf (storeAt s ag bad va ks bs).mem :=
  foldl_keeps (fun s : State => Memory.wf s.mem) _ (fun _ _ h => wf_writePiece h ..) _ h

theorem wf_storeMarked {s : State} (h : Memory.wf s.mem) (ag : Agent) (va : Nat) (ks : List Nat) (bs : List Byte)
    (bad : List Bool) : Memory.wf (storeMarked s ag va ks bs bad).mem := wf_storeAt h ..

theorem wf_storeBytes {s : State} (h : Memory.wf s.mem) (ag : Agent) (bad : Bool) (va : Nat) (bs : List Byte) :
    Memory.wf (storeBytes s ag bad va bs).mem := wf_storeAt (by simpa using h) ..

theorem wf_atomPlace {s : State} (h : Memory.wf s.mem) (ag : Agent) (fn : AtomFn) (ty : Ty) (va k b c : Nat) (ret : Bool) :
    Memory.wf (atomPlace s ag fn ty va k b c ret).2.2.mem := by
  unfold atomPlace
  simp only [mem_setPoison]
  have h' := wf_contain h ag va k
  have hw : Memory.wf (if ret then enqStore (contain s ag va k) k (leBytes (tySize ty)
      (atomNew fn ty (memNat (contain s ag va k).view k (tySize ty)) b c)) else enqRed (contain s ag va k) fn ty k b).mem := by
    cases ret
    · exact wf_enqRed h' ..
    · exact wf_enqStore h' ..
  split
  · exact hw
  · exact wf_cached hw _ _

theorem wf_atomAt {s : State} (h : Memory.wf s.mem) (ag : Agent) (fn : AtomFn) (ty : Ty) (va b c : Nat) (ret : Bool) :
    Memory.wf (atomAt s ag fn ty va b c ret).2.2.mem := by
  unfold atomAt; split
  · exact h
  · exact wf_atomPlace (by simpa using h) ..

/-! ### A load leaves memory alone -/

theorem mem_loadTouch (s : State) (ag : Agent) (past : Bool) (ks : List Nat) :
    (loadTouch s ag past ks).mem = s.mem ∧ (loadTouch s ag past ks).wq = s.wq := by
  unfold loadTouch
  split
  · exact ⟨rfl, rfl⟩
  · refine foldl_keeps (fun t : State => t.mem = s.mem ∧ t.wq = s.wq) _ ?_ _ ⟨rfl, rfl⟩
    intro t b ht
    repeat' split
    all_goals exact ht

/-- Reading is all that a load does to memory. -/
theorem peek_loadAt (s : State) (ag : Agent) (past : Bool) (ks : List Nat) (j : Nat) :
    (loadAt s ag past ks).2.2.peek j = s.peek j := by
  obtain ⟨h1, h2⟩ := mem_loadTouch s ag past ks
  simp [loadAt, State.peek, State.view, h1, h2]

theorem peek_loadBytes (s : State) (ag : Agent) (past : Bool) (va n j : Nat) :
    (loadBytes s ag past va n).2.2.peek j = s.peek j := by
  unfold loadBytes; rw [peek_loadAt, peek_tlbFill]

theorem mem_loadBytes (s : State) (ag : Agent) (past : Bool) (va n : Nat) :
    (loadBytes s ag past va n).2.2.mem = s.mem := by
  unfold loadBytes loadAt; rw [(mem_loadTouch ..).1, mem_tlbFill]

/-! ### The fault ring, a deferred cause, signals -/

theorem wf_faultWrite {s : State} (h : Memory.wf s.mem) (c : Nat) (entry : List Byte) :
    Memory.wf (faultWrite s c entry).mem := by
  unfold faultWrite
  simp only
  repeat' split
  all_goals first
    | exact h
    | (simp only [interrupt]; simpa using wf_enqStore h _ _)

theorem wf_bandRecord {s : State} (h : Memory.wf s.mem) (b addr kind cause : Nat) :
    Memory.wf (bandRecord s b addr kind cause).mem := wf_faultWrite h _ _

@[simp] theorem mem_deferCause (s : State) (b : Nat) (c : Cause) (l : Option Nat) : (deferCause s b c l).mem = s.mem := rfl

@[simp] theorem mem_wakeWaiters (s : State) (k : Nat) (b : Barrier) : (wakeWaiters s k b).mem = s.mem := rfl

theorem wf_putBarrier {s : State} (h : Memory.wf s.mem) (ag : Agent) (va k : Nat) (b : Barrier) :
    Memory.wf (putBarrier s ag va k b).mem := by
  unfold putBarrier
  simpa using wf_writePiece h ..

theorem wf_signalLost {s : State} (h : Memory.wf s.mem) (src : Source) (target : W64) (c : Cause) :
    Memory.wf (signalLost s src target c).mem := by
  unfold signalLost
  repeat' split
  all_goals first
    | exact h
    | exact wf_faultWrite h _ _

theorem wf_outerError {s : State} (h : Memory.wf s.mem) (l : Nat) : Memory.wf (outerError s l).mem := by
  unfold outerError
  repeat' split
  all_goals exact h

theorem wf_memError {s : State} (h : Memory.wf s.mem) (l : Nat) (ks : List Nat) : Memory.wf (memError s l ks).mem := by
  unfold memError
  refine foldl_keeps (fun s : State => Memory.wf s.mem) _ (fun t k h => ?_) _ h
  repeat' split
  · exact h
  · rw [mem_setPoison]; exact wf_enqStore h ..
  · exact wf_outerError h l

theorem wf_usedObject {s t : State} (h : Memory.wf t.mem) (ag : Agent) (ks : List Nat) :
    Memory.wf (usedObject s ag ks t).mem := by
  unfold usedObject engError
  repeat' split
  all_goals first
    | exact h
    | exact wf_memError h ..

theorem wf_signal {s : State} (h : Memory.wf s.mem) (src : Source) (target : W64) (n st : Nat) :
    Memory.wf (signal s src target n st).mem := by
  unfold signal
  simp only
  repeat' split
  all_goals first
    | exact h
    | exact wf_signalLost h ..
    | exact wf_usedObject (wf_writePiece h ..) ..
    | exact wf_usedObject (wf_putBarrier h ..) ..

/-! ### Taking a trap -/

theorem wf_abandon {s : State} (h : Memory.wf s.mem) (b st : Nat) : Memory.wf (abandon s b st).mem :=
  foldl_keeps (fun s : State => Memory.wf s.mem) _ (fun _ _ h => wf_signal h ..) _ h

theorem wf_fatal {s : State} (h : Memory.wf s.mem) (b : Nat) (c : Cause) : Memory.wf (fatal s b c).mem :=
  wf_abandon (wf_bandRecord h ..) b 0x41

@[simp] theorem mem_landFlag (s : State) (k : Nat) (ps : List Pend) : (landFlag s k ps).mem = s.mem := by
  unfold landFlag setOverflow; simp only; repeat' split
  all_goals rfl

/-- The band enters its handler: its results land, the marker of its `srw` goes, and the trap's record stands in its registers
(R274, spec/12 R255). -/
def entered (s : State) (b : Nat) (t : Trap) : State :=
  (dropMark (landFlag s b (s.band b).pend) b).modBand b (fun x => x.enter t)

/-- All that a trap does: the band enters its handler, whose page may hold an error that its context consumes, or the band ends
with a fault record, or TVEC holds an error that kills the workgroup (R274, R276, R281). -/
theorem takeTrap_cases (s : State) (b : Nat) (t : Trap) :
    takeTrap s b t = entered s b t ∨
    takeTrap s b t = (entered s b t).modCtx (s.band b).ctx (fun c => { c with dying := true }) ∨
    takeTrap s b t = fatal (s.modBand b (fun x => { x with trappc := t.pcWord })) b cDOUBLE_TRAP ∨
    takeTrap s b t = fatal (s.modBand b (fun x => { x with trappc := t.pcWord })) b cHANDLER_FETCH ∨
    takeTrap s b t = wgError s (s.band b).wg := by
  unfold takeTrap
  simp only
  repeat' split
  · exact .inr (.inr (.inl rfl))
  · exact .inr (.inr (.inr (.inr rfl)))
  · exact .inr (.inr (.inr (.inl rfl)))
  · exact .inr (.inl rfl)
  · exact .inl rfl

theorem wf_takeTrap {s : State} (h : Memory.wf s.mem) (b : Nat) (t : Trap) : Memory.wf (takeTrap s b t).mem := by
  rcases takeTrap_cases s b t with e | e | e | e | e <;> rw [e]
  · exact (mem_landFlag s b _).symm ▸ h
  · exact (mem_landFlag s b _).symm ▸ h
  · exact wf_fatal (s := s.modBand b _) h ..
  · exact wf_fatal (s := s.modBand b _) h ..
  · exact h

/-- A scalar instruction that traps answers a next state, which notes the cause. -/
theorem trapScalarAs_next (s : State) (c : Cause) (size : Nat) (kind : SkipKind) :
    ∃ t, trapScalarAs s c size kind = .next ((takeTrap s s.cur.band t).raised c) := ⟨_, rfl⟩

theorem wf_trapScalarAs {s t : State} (h : Memory.wf s.mem) {c : Cause} {size : Nat} {kind : SkipKind}
    (e : trapScalarAs s c size kind = .next t) : Memory.wf t.mem := by
  obtain ⟨u, hu⟩ := trapScalarAs_next s c size kind
  rw [hu] at e; cases e
  exact wf_takeTrap h ..

end Sys2Proof.Machine
end

