-- ==== Sys2Proof/Laws/PerInstr.lean ====
section
/-!
SUPPORT. A statement about every instruction, one lemma for each constructor: an instruction has a word of one stream at most,
and a step of the device has none (spec/05 R93, R98).
-/
namespace Sys2Proof.Laws.OneStream

/-- No instruction has a word in both streams. -/
def Statement (i : Instr) : Prop := ∀ x, encodeScalar i x = none ∨ encodeLane i x.guard = none

theorem add (d : SReg) (a : SReg) (b : SReg) : Statement (.add d a b) := fun _ => .inr rfl
theorem sub (d : SReg) (a : SReg) (b : SReg) : Statement (.sub d a b) := fun _ => .inr rfl
theorem mul (d : SReg) (a : SReg) (b : SReg) : Statement (.mul d a b) := fun _ => .inr rfl
theorem mulhI64 (d : SReg) (a : SReg) (b : SReg) : Statement (.mulhI64 d a b) := fun _ => .inr rfl
theorem mulhN64 (d : SReg) (a : SReg) (b : SReg) : Statement (.mulhN64 d a b) := fun _ => .inr rfl
theorem and (d : SReg) (a : SReg) (b : SReg) : Statement (.and d a b) := fun _ => .inr rfl
theorem or (d : SReg) (a : SReg) (b : SReg) : Statement (.or d a b) := fun _ => .inr rfl
theorem xor (d : SReg) (a : SReg) (b : SReg) : Statement (.xor d a b) := fun _ => .inr rfl
theorem shl (d : SReg) (a : SReg) (b : SReg) : Statement (.shl d a b) := fun _ => .inr rfl
theorem shr (d : SReg) (a : SReg) (b : SReg) : Statement (.shr d a b) := fun _ => .inr rfl
theorem sar (d : SReg) (a : SReg) (b : SReg) : Statement (.sar d a b) := fun _ => .inr rfl
theorem minI64 (d : SReg) (a : SReg) (b : SReg) : Statement (.minI64 d a b) := fun _ => .inr rfl
theorem maxI64 (d : SReg) (a : SReg) (b : SReg) : Statement (.maxI64 d a b) := fun _ => .inr rfl
theorem minN64 (d : SReg) (a : SReg) (b : SReg) : Statement (.minN64 d a b) := fun _ => .inr rfl
theorem maxN64 (d : SReg) (a : SReg) (b : SReg) : Statement (.maxN64 d a b) := fun _ => .inr rfl
theorem cmp (cond : Cond) (unsigned : Bool) (d : QReg) (a : SReg) (b : SReg) : Statement (.cmp cond unsigned d a b) := fun _ => .inr rfl
theorem addi (d : SReg) (a : SReg) (imm : BitVec 14) : Statement (.addi d a imm) := fun _ => .inr rfl
theorem andi (d : SReg) (a : SReg) (imm : BitVec 14) : Statement (.andi d a imm) := fun _ => .inr rfl
theorem ori (d : SReg) (a : SReg) (imm : BitVec 14) : Statement (.ori d a imm) := fun _ => .inr rfl
theorem xori (d : SReg) (a : SReg) (imm : BitVec 14) : Statement (.xori d a imm) := fun _ => .inr rfl
theorem shli (d : SReg) (a : SReg) (amt : BitVec 6) : Statement (.shli d a amt) := fun _ => .inr rfl
theorem shri (d : SReg) (a : SReg) (amt : BitVec 6) : Statement (.shri d a amt) := fun _ => .inr rfl
theorem sari (d : SReg) (a : SReg) (amt : BitVec 6) : Statement (.sari d a amt) := fun _ => .inr rfl
theorem muli (d : SReg) (a : SReg) (imm : BitVec 14) : Statement (.muli d a imm) := fun _ => .inr rfl
theorem movi (d : SReg) (imm : BitVec 20) : Statement (.movi d imm) := fun _ => .inr rfl
theorem la (d : SReg) (imm : BitVec 20) : Statement (.la d imm) := fun _ => .inr rfl
theorem adds (d : SReg) (a : SReg) (b : SReg) (k : BitVec 6) : Statement (.adds d a b k) := fun _ => .inr rfl
theorem addsw (d : SReg) (a : SReg) (b : SReg) (k : BitVec 6) : Statement (.addsw d a b k) := fun _ => .inr rfl
theorem hins (d : SReg) (a : SReg) (b : SReg) : Statement (.hins d a b) := fun _ => .inr rfl
theorem sext (sz : ExtSize) (d : SReg) (a : SReg) : Statement (.sext sz d a) := fun _ => .inr rfl
theorem zext (sz : ExtSize) (d : SReg) (a : SReg) : Statement (.zext sz d a) := fun _ => .inr rfl
theorem ext (d : SReg) (a : SReg) (b : SReg) : Statement (.ext d a b) := fun _ => .inr rfl
theorem exts (d : SReg) (a : SReg) (b : SReg) : Statement (.exts d a b) := fun _ => .inr rfl
theorem ins (d : SReg) (a : SReg) (b : SReg) : Statement (.ins d a b) := fun _ => .inr rfl
theorem clz (d : SReg) (a : SReg) : Statement (.clz d a) := fun _ => .inr rfl
theorem popc (d : SReg) (a : SReg) : Statement (.popc d a) := fun _ => .inr rfl
theorem csel (d : SReg) (a : SReg) (b : SReg) (q : QReg) (neg : Bool) : Statement (.csel d a b q neg) := fun _ => .inr rfl
theorem ldN8 (d : SReg) (a : SReg) (imm : BitVec 14) : Statement (.ldN8 d a imm) := fun _ => .inr rfl
theorem ldN16 (d : SReg) (a : SReg) (imm : BitVec 14) : Statement (.ldN16 d a imm) := fun _ => .inr rfl
theorem ldN32 (d : SReg) (a : SReg) (imm : BitVec 14) : Statement (.ldN32 d a imm) := fun _ => .inr rfl
theorem ldN64 (d : SReg) (a : SReg) (imm : BitVec 14) : Statement (.ldN64 d a imm) := fun _ => .inr rfl
theorem stN8 (d : SReg) (a : SReg) (imm : BitVec 14) : Statement (.stN8 d a imm) := fun _ => .inr rfl
theorem stN16 (d : SReg) (a : SReg) (imm : BitVec 14) : Statement (.stN16 d a imm) := fun _ => .inr rfl
theorem stN32 (d : SReg) (a : SReg) (imm : BitVec 14) : Statement (.stN32 d a imm) := fun _ => .inr rfl
theorem stN64 (d : SReg) (a : SReg) (imm : BitVec 14) : Statement (.stN64 d a imm) := fun _ => .inr rfl
theorem br (q : QReg) (neg : Bool) (off : BitVec 22) : Statement (.br q neg off) := fun _ => .inr rfl
theorem call (q : QReg) (neg : Bool) (off : BitVec 22) : Statement (.call q neg off) := fun _ => .inr rfl
theorem jr (a : SReg) : Statement (.jr a) := fun _ => .inr rfl
theorem ret (a : SReg) : Statement (.ret a) := fun _ => .inr rfl
theorem jt (a : SReg) (n : BitVec 14) : Statement (.jt a n) := fun _ => .inr rfl
theorem callt (a : SReg) (n : BitVec 14) : Statement (.callt a n) := fun _ => .inr rfl
theorem lpost (addr : BitVec 20) : Statement (.lpost addr) := fun _ => .inr rfl
theorem srr (d : SReg) (num : BitVec 14) : Statement (.srr d num) := fun _ => .inr rfl
theorem srw (num : BitVec 14) (a : SReg) : Statement (.srw num a) := fun _ => .inr rfl
theorem tgtBind (off : BitVec 20) : Statement (.tgtBind off) := fun _ => .inr rfl
theorem ldScoped (w : Width) (sc : Scope) (d : SReg) (a : SReg) : Statement (.ldScoped w sc d a) := fun _ => .inr rfl
theorem stScoped (w : Width) (sc : Scope) (a : SReg) (b : SReg) : Statement (.stScoped w sc a b) := fun _ => .inr rfl
theorem scalarFence (sc : Scope) : Statement (.scalarFence sc) := fun _ => .inr rfl
theorem scalarLdy (sc : Scope) (d : SReg) (a : SReg) : Statement (.scalarLdy sc d a) := fun _ => .inr rfl
theorem copy (d : SReg) (a : SReg) (b : SReg) (t : SReg) : Statement (.copy d a b t) := fun _ => .inr rfl
theorem copyPack (d : SReg) (a : SReg) (b : SReg) (t : SReg) : Statement (.copyPack d a b t) := fun _ => .inr rfl
theorem copyUnpack (d : SReg) (a : SReg) (b : SReg) (t : SReg) : Statement (.copyUnpack d a b t) := fun _ => .inr rfl
theorem yieldc (d : SReg) (a : SReg) (b : SReg) (off : BitVec 8) : Statement (.yieldc d a b off) := fun _ => .inr rfl
theorem binit (sc : Scope) (a : SReg) (b : SReg) : Statement (.binit sc a b) := fun _ => .inr rfl
theorem barr (sc : Scope) (d : SReg) (a : SReg) (b : SReg) : Statement (.barr sc d a b) := fun _ => .inr rfl
theorem barrT (sc : Scope) (d : SReg) (a : SReg) (b : SReg) : Statement (.barrT sc d a b) := fun _ => .inr rfl
theorem barrP (sc : Scope) (d : SReg) (a : SReg) (b : SReg) : Statement (.barrP sc d a b) := fun _ => .inr rfl
theorem bwait (sc : Scope) (d : SReg) (a : SReg) (b : SReg) : Statement (.bwait sc d a b) := fun _ => .inr rfl
theorem bclr (sc : Scope) (a : SReg) : Statement (.bclr sc a) := fun _ => .inr rfl
theorem barrMx (sc : Scope) (a : SReg) (b : SReg) : Statement (.barrMx sc a b) := fun _ => .inr rfl
theorem cwait (sc : Scope) (d : SReg) (a : SReg) (b : SReg) : Statement (.cwait sc d a b) := fun _ => .inr rfl
theorem csig (sc : Scope) (a : SReg) (b : SReg) : Statement (.csig sc a b) := fun _ => .inr rfl
theorem vdec (a : SReg) (n : BitVec 4) : Statement (.vdec a n) := fun _ => .inr rfl
theorem gpatSet (a : SReg) (b : SReg) : Statement (.gpatSet a b) := fun _ => .inr rfl
theorem gpatClr (a : SReg) : Statement (.gpatClr a) := fun _ => .inr rfl
theorem gpatGet (d : SReg) (a : SReg) : Statement (.gpatGet d a) := fun _ => .inr rfl
theorem bfqReg (d : SReg) (a : SReg) : Statement (.bfqReg d a) := fun _ => .inr rfl
theorem bfqUnreg (a : SReg) : Statement (.bfqUnreg a) := fun _ => .inr rfl
theorem bfqSlack (a : SReg) (b : SReg) : Statement (.bfqSlack a b) := fun _ => .inr rfl
theorem bfqPost (d : SReg) (a : SReg) : Statement (.bfqPost d a) := fun _ => .inr rfl
theorem bfqTake (d : SReg) (a : SReg) : Statement (.bfqTake d a) := fun _ => .inr rfl
theorem bfqNext (d : SReg) : Statement (.bfqNext d) := fun _ => .inr rfl
theorem bfqDone (a : SReg) (b : SReg) : Statement (.bfqDone a b) := fun _ => .inr rfl
theorem accAlloc (d : SReg) (a : SReg) : Statement (.accAlloc d a) := fun _ => .inr rfl
theorem accFree (a : SReg) : Statement (.accFree a) := fun _ => .inr rfl
theorem accHeld (d : SReg) : Statement (.accHeld d) := fun _ => .inr rfl
theorem rfenceQdAddr (a : SReg) : Statement (.rfenceQdAddr a) := fun _ => .inr rfl
theorem rfenceDvAddr (a : SReg) : Statement (.rfenceDvAddr a) := fun _ => .inr rfl
theorem mstat (d : SReg) : Statement (.mstat d) := fun _ => .inr rfl
theorem mwait (sc : Scope) (a : SReg) : Statement (.mwait sc a) := fun _ => .inr rfl
theorem rlxBegin (t : SReg) (c : SReg) (x : SReg) (nb : BitVec 4) : Statement (.rlxBegin t c x nb) := fun _ => .inr rfl
theorem rlxWait (d : SReg) : Statement (.rlxWait d) := fun _ => .inr rfl
theorem ddMk (a : SReg) (t : SReg) : Statement (.ddMk a t) := fun _ => .inr rfl
theorem ddApply (a : SReg) (t : SReg) (tt : BitVec 4) : Statement (.ddApply a t tt) := fun _ => .inr rfl
theorem ddIte (a : SReg) (t : SReg) : Statement (.ddIte a t) := fun _ => .inr rfl
theorem ddRestrict (a : SReg) (t : SReg) : Statement (.ddRestrict a t) := fun _ => .inr rfl
theorem ddExists (a : SReg) (t : SReg) : Statement (.ddExists a t) := fun _ => .inr rfl
theorem ddWcount (a : SReg) (t : SReg) : Statement (.ddWcount a t) := fun _ => .inr rfl
theorem ddSatcount (a : SReg) (t : SReg) : Statement (.ddSatcount a t) := fun _ => .inr rfl
theorem ddRef (a : SReg) (t : SReg) : Statement (.ddRef a t) := fun _ => .inr rfl
theorem ddDeref (a : SReg) (t : SReg) : Statement (.ddDeref a t) := fun _ => .inr rfl
theorem ddSwap (a : SReg) (t : SReg) : Statement (.ddSwap a t) := fun _ => .inr rfl
theorem ddOrder (a : SReg) (t : SReg) : Statement (.ddOrder a t) := fun _ => .inr rfl
theorem ddGc (t : SReg) : Statement (.ddGc t) := fun _ => .inr rfl
theorem ddStat (a : SReg) (t : SReg) : Statement (.ddStat a t) := fun _ => .inr rfl
theorem trap (code : BitVec 14) : Statement (.trap code) := fun _ => .inr rfl
theorem hgetN32 (d : SReg) (a : SReg) (b : SReg) : Statement (.hgetN32 d a b) := fun _ => .inr rfl
theorem hgetN64 (d : SReg) (a : SReg) (b : SReg) : Statement (.hgetN64 d a b) := fun _ => .inr rfl
theorem hgetp (d : SReg) (a : SReg) (b : SReg) : Statement (.hgetp d a b) := fun _ => .inr rfl
theorem hstat (d : SReg) (a : SReg) : Statement (.hstat d a) := fun _ => .inr rfl
theorem hputN32 (d : SReg) (a : SReg) (b : SReg) : Statement (.hputN32 d a b) := fun _ => .inr rfl
theorem hputN64 (d : SReg) (a : SReg) (b : SReg) : Statement (.hputN64 d a b) := fun _ => .inr rfl
theorem hputp (d : SReg) (a : SReg) (b : SReg) : Statement (.hputp d a b) := fun _ => .inr rfl
theorem laneAdd (o : Bin) : Statement (.laneAdd o) := fun _ => .inl rfl
theorem laneAddImm (o : BinI) : Statement (.laneAddImm o) := fun _ => .inl rfl
theorem laneSub (o : Bin) : Statement (.laneSub o) := fun _ => .inl rfl
theorem laneSubImm (o : BinI) : Statement (.laneSubImm o) := fun _ => .inl rfl
theorem laneMul (o : Bin) : Statement (.laneMul o) := fun _ => .inl rfl
theorem laneMulImm (o : BinI) : Statement (.laneMulImm o) := fun _ => .inl rfl
theorem mulhi (o : Bin) : Statement (.mulhi o) := fun _ => .inl rfl
theorem mulhiImm (o : BinI) : Statement (.mulhiImm o) := fun _ => .inl rfl
theorem mad (o : Tri) : Statement (.mad o) := fun _ => .inl rfl
theorem addsat (o : Bin) : Statement (.addsat o) := fun _ => .inl rfl
theorem addsatImm (o : BinI) : Statement (.addsatImm o) := fun _ => .inl rfl
theorem subsat (o : Bin) : Statement (.subsat o) := fun _ => .inl rfl
theorem subsatImm (o : BinI) : Statement (.subsatImm o) := fun _ => .inl rfl
theorem laneAnd (o : Bin) : Statement (.laneAnd o) := fun _ => .inl rfl
theorem laneAndImm (o : BinI) : Statement (.laneAndImm o) := fun _ => .inl rfl
theorem laneOr (o : Bin) : Statement (.laneOr o) := fun _ => .inl rfl
theorem laneOrImm (o : BinI) : Statement (.laneOrImm o) := fun _ => .inl rfl
theorem laneXor (o : Bin) : Statement (.laneXor o) := fun _ => .inl rfl
theorem laneXorImm (o : BinI) : Statement (.laneXorImm o) := fun _ => .inl rfl
theorem andn (o : Bin) : Statement (.andn o) := fun _ => .inl rfl
theorem andnImm (o : BinI) : Statement (.andnImm o) := fun _ => .inl rfl
theorem laneShl (o : Bin) : Statement (.laneShl o) := fun _ => .inl rfl
theorem laneShlImm (o : BinI) : Statement (.laneShlImm o) := fun _ => .inl rfl
theorem laneShr (o : Bin) : Statement (.laneShr o) := fun _ => .inl rfl
theorem laneShrImm (o : BinI) : Statement (.laneShrImm o) := fun _ => .inl rfl
theorem laneMin (o : Bin) : Statement (.laneMin o) := fun _ => .inl rfl
theorem laneMinImm (o : BinI) : Statement (.laneMinImm o) := fun _ => .inl rfl
theorem laneMax (o : Bin) : Statement (.laneMax o) := fun _ => .inl rfl
theorem laneMaxImm (o : BinI) : Statement (.laneMaxImm o) := fun _ => .inl rfl
theorem abs (o : Un) : Statement (.abs o) := fun _ => .inl rfl
theorem neg (o : Un) : Statement (.neg o) := fun _ => .inl rfl
theorem div (o : Bin) : Statement (.div o) := fun _ => .inl rfl
theorem divImm (o : BinI) : Statement (.divImm o) := fun _ => .inl rfl
theorem laneRem (o : Bin) : Statement (.laneRem o) := fun _ => .inl rfl
theorem laneRemImm (o : BinI) : Statement (.laneRemImm o) := fun _ => .inl rfl
theorem bfe (o : Bin) : Statement (.bfe o) := fun _ => .inl rfl
theorem bfeImm (o : BinI) : Statement (.bfeImm o) := fun _ => .inl rfl
theorem bfi (o : Bin) : Statement (.bfi o) := fun _ => .inl rfl
theorem bfiImm (o : BinI) : Statement (.bfiImm o) := fun _ => .inl rfl
theorem lanePopc (o : Un) : Statement (.lanePopc o) := fun _ => .inl rfl
theorem laneClz (o : Un) : Statement (.laneClz o) := fun _ => .inl rfl
theorem ctz (o : Un) : Statement (.ctz o) := fun _ => .inl rfl
theorem brev (o : Un) : Statement (.brev o) := fun _ => .inl rfl
theorem sel (o : SelOp) : Statement (.sel o) := fun _ => .inl rfl
theorem mov (o : Un) : Statement (.mov o) := fun _ => .inl rfl
theorem movImm (o : ImmD) : Statement (.movImm o) := fun _ => .inl rfl
theorem icmp (o : CmpOp) : Statement (.icmp o) := fun _ => .inl rfl
theorem icmpImm (o : CmpI) : Statement (.icmpImm o) := fun _ => .inl rfl
theorem lidx (d : VReg) : Statement (.lidx d) := fun _ => .inl rfl
theorem fadd (o : BinR) : Statement (.fadd o) := fun _ => .inl rfl
theorem faddImm (o : BinRI) : Statement (.faddImm o) := fun _ => .inl rfl
theorem fsub (o : BinR) : Statement (.fsub o) := fun _ => .inl rfl
theorem fsubImm (o : BinRI) : Statement (.fsubImm o) := fun _ => .inl rfl
theorem fmul (o : BinR) : Statement (.fmul o) := fun _ => .inl rfl
theorem fmulImm (o : BinRI) : Statement (.fmulImm o) := fun _ => .inl rfl
theorem fdiv (o : BinR) : Statement (.fdiv o) := fun _ => .inl rfl
theorem fdivImm (o : BinRI) : Statement (.fdivImm o) := fun _ => .inl rfl
theorem fsqrt (o : UnR) : Statement (.fsqrt o) := fun _ => .inl rfl
theorem fmax (o : Bin) : Statement (.fmax o) := fun _ => .inl rfl
theorem fmaxImm (o : BinI) : Statement (.fmaxImm o) := fun _ => .inl rfl
theorem fmin (o : Bin) : Statement (.fmin o) := fun _ => .inl rfl
theorem fminImm (o : BinI) : Statement (.fminImm o) := fun _ => .inl rfl
theorem ffma (o : TriR) : Statement (.ffma o) := fun _ => .inl rfl
theorem fabs (o : Un) : Statement (.fabs o) := fun _ => .inl rfl
theorem fneg (o : Un) : Statement (.fneg o) := fun _ => .inl rfl
theorem fcmp (o : CmpOp) : Statement (.fcmp o) := fun _ => .inl rfl
theorem fcmpImm (o : CmpI) : Statement (.fcmpImm o) := fun _ => .inl rfl
theorem frnd (o : UnR) : Statement (.frnd o) := fun _ => .inl rfl
theorem fexp (o : Un) : Statement (.fexp o) := fun _ => .inl rfl
theorem fexp2 (o : Un) : Statement (.fexp2 o) := fun _ => .inl rfl
theorem flog (o : Un) : Statement (.flog o) := fun _ => .inl rfl
theorem flog2 (o : Un) : Statement (.flog2 o) := fun _ => .inl rfl
theorem ftanh (o : Un) : Statement (.ftanh o) := fun _ => .inl rfl
theorem fsig (o : Un) : Statement (.fsig o) := fun _ => .inl rfl
theorem frsqrt (o : Un) : Statement (.frsqrt o) := fun _ => .inl rfl
theorem fsin (o : Un) : Statement (.fsin o) := fun _ => .inl rfl
theorem fcos (o : Un) : Statement (.fcos o) := fun _ => .inl rfl
theorem cvt (o : CvtOp) : Statement (.cvt o) := fun _ => .inl rfl
theorem rng (o : RngOp) : Statement (.rng o) := fun _ => .inl rfl
theorem laneLd (o : LdOp) : Statement (.laneLd o) := fun _ => .inl rfl
theorem laneSt (o : StOp) : Statement (.laneSt o) := fun _ => .inl rfl
theorem laneLdy (o : LdyOp) : Statement (.laneLdy o) := fun _ => .inl rfl
theorem atomAdd (o : AtomOp) : Statement (.atomAdd o) := fun _ => .inl rfl
theorem atomMin (o : AtomOp) : Statement (.atomMin o) := fun _ => .inl rfl
theorem atomMax (o : AtomOp) : Statement (.atomMax o) := fun _ => .inl rfl
theorem atomAnd (o : AtomOp) : Statement (.atomAnd o) := fun _ => .inl rfl
theorem atomOr (o : AtomOp) : Statement (.atomOr o) := fun _ => .inl rfl
theorem atomXor (o : AtomOp) : Statement (.atomXor o) := fun _ => .inl rfl
theorem atomAddsat (o : AtomOp) : Statement (.atomAddsat o) := fun _ => .inl rfl
theorem atomXchg (o : AtomOp) : Statement (.atomXchg o) := fun _ => .inl rfl
theorem atomCas (o : AtomOp) : Statement (.atomCas o) := fun _ => .inl rfl
theorem redAdd (o : StOp) : Statement (.redAdd o) := fun _ => .inl rfl
theorem redMin (o : StOp) : Statement (.redMin o) := fun _ => .inl rfl
theorem redMax (o : StOp) : Statement (.redMax o) := fun _ => .inl rfl
theorem redAnd (o : StOp) : Statement (.redAnd o) := fun _ => .inl rfl
theorem redOr (o : StOp) : Statement (.redOr o) := fun _ => .inl rfl
theorem redXor (o : StOp) : Statement (.redXor o) := fun _ => .inl rfl
theorem redAddsat (o : StOp) : Statement (.redAddsat o) := fun _ => .inl rfl
theorem laneFence (sc : Scope) : Statement (.laneFence sc) := fun _ => .inl rfl
theorem ballot (dst : BallotDst) (p : PReg) : Statement (.ballot dst p) := fun _ => .inl rfl
theorem voteCnt (d : SReg) (p : PReg) : Statement (.voteCnt d p) := fun _ => .inl rfl
theorem voteAny (q : QReg) (p : PReg) : Statement (.voteAny q p) := fun _ => .inl rfl
theorem voteAll (q : QReg) (p : PReg) : Statement (.voteAll q p) := fun _ => .inl rfl
theorem voteUni (o : VoteUniOp) : Statement (.voteUni o) := fun _ => .inl rfl
theorem shfl (o : ShflOp) : Statement (.shfl o) := fun _ => .inl rfl
theorem perm (o : PermOp) : Statement (.perm o) := fun _ => .inl rfl
theorem lred (o : LredOp) : Statement (.lred o) := fun _ => .inl rfl
theorem plog (o : PlogOp) : Statement (.plog o) := fun _ => .inl rfl
theorem ptest (ty : Ty) (p : PReg) (a : VReg) : Statement (.ptest ty p a) := fun _ => .inl rfl
theorem pget (d : VReg) (p : PReg) : Statement (.pget d p) := fun _ => .inl rfl
theorem bra (imm : W32) : Statement (.bra imm) := fun _ => .inl rfl
theorem bri (a : Src) (imm : W32) : Statement (.bri a imm) := fun _ => .inl rfl
theorem lcall (imm : W32) : Statement (.lcall imm) := fun _ => .inl rfl
theorem lcalli (a : Src) (imm : W32) : Statement (.lcalli a imm) := fun _ => .inl rfl
theorem join (imm : W32) : Statement (.join imm) := fun _ => .inl rfl
theorem dlaunch (d : VReg) (a : Src) : Statement (.dlaunch d a) := fun _ => .inl rfl
theorem ltrap (imm : W32) : Statement (.ltrap imm) := fun _ => .inl rfl
theorem lsigChk (imm : W32) : Statement (.lsigChk imm) := fun _ => .inl rfl
theorem lcause (d : VReg) : Statement (.lcause d) := fun _ => .inl rfl
theorem mma (o : MmaOp) : Statement (.mma o) := fun _ => .inl rfl
theorem mmah (o : MmaOp) : Statement (.mmah o) := fun _ => .inl rfl
theorem mmav (o : MmaOp) : Statement (.mmav o) := fun _ => .inl rfl
theorem accLd (o : AccLdOp) : Statement (.accLd o) := fun _ => .inl rfl
theorem accSt (sel : SReg) (data : Src) : Statement (.accSt sel data) := fun _ => .inl rfl
theorem accOut (o : AccOutOp) : Statement (.accOut o) := fun _ => .inl rfl
theorem fvote (d : SReg) (a : Src) : Statement (.fvote d a) := fun _ => .inl rfl
theorem rlxIn (d : VReg) (i : BitVec 3) : Statement (.rlxIn d i) := fun _ => .inl rfl
theorem rlxOut (a : VReg) (i : BitVec 3) : Statement (.rlxOut a i) := fun _ => .inl rfl
theorem rlxGet (d : VReg) (i : BitVec 3) : Statement (.rlxGet d i) := fun _ => .inl rfl
theorem rlxStep (d : VReg) : Statement (.rlxStep d) := fun _ => .inl rfl
theorem rlxRes (d : VReg) : Statement (.rlxRes d) := fun _ => .inl rfl
theorem lsync : Statement .lsync := fun _ => .inr rfl
theorem srwBudleft : Statement .srwBudleft := fun _ => .inr rfl
theorem srwDdbase : Statement .srwDdbase := fun _ => .inr rfl
theorem srwDdcap : Statement .srwDdcap := fun _ => .inr rfl
theorem srwVobase : Statement .srwVobase := fun _ => .inr rfl
theorem srwVocount : Statement .srwVocount := fun _ => .inr rfl
theorem srwSpecdepth : Statement .srwSpecdepth := fun _ => .inr rfl
theorem srwBfqthr : Statement .srwBfqthr := fun _ => .inr rfl
theorem srwBfqmax : Statement .srwBfqmax := fun _ => .inr rfl
theorem sigChk : Statement .sigChk := fun _ => .inr rfl
theorem rfenceQd : Statement .rfenceQd := fun _ => .inr rfl
theorem rfenceDv : Statement .rfenceDv := fun _ => .inr rfl
theorem rlxAbort : Statement .rlxAbort := fun _ => .inr rfl
theorem exit : Statement .exit := fun _ => .inr rfl
theorem tretRetry : Statement .tretRetry := fun _ => .inr rfl
theorem tretSkip : Statement .tretSkip := fun _ => .inr rfl
theorem lflush : Statement .lflush := fun _ => .inr rfl
theorem hkill : Statement .hkill := fun _ => .inr rfl
theorem lret : Statement .lret := fun _ => .inl rfl
theorem lend : Statement .lend := fun _ => .inl rfl
theorem lexit : Statement .lexit := fun _ => .inl rfl
theorem workgroupPlacement : Statement .workgroupPlacement := fun _ => .inl rfl
theorem gangReservation : Statement .gangReservation := fun _ => .inl rfl
theorem blockStart : Statement .blockStart := fun _ => .inl rfl
theorem joinTimeout : Statement .joinTimeout := fun _ => .inl rfl
theorem backoffEnd : Statement .backoffEnd := fun _ => .inl rfl
theorem budgetOverrun : Statement .budgetOverrun := fun _ => .inl rfl
theorem watchdog : Statement .watchdog := fun _ => .inl rfl
theorem handlerEntry : Statement .handlerEntry := fun _ => .inl rfl
theorem yieldcResume : Statement .yieldcResume := fun _ => .inl rfl
theorem copyStart : Statement .copyStart := fun _ => .inl rfl
theorem copyComplete : Statement .copyComplete := fun _ => .inl rfl
theorem bwaitChanged : Statement .bwaitChanged := fun _ => .inl rfl
theorem bwaitTimeout : Statement .bwaitTimeout := fun _ => .inl rfl
theorem cwaitReturn : Statement .cwaitReturn := fun _ => .inl rfl
theorem cwaitBound : Statement .cwaitBound := fun _ => .inl rfl
theorem barrMxArrival : Statement .barrMxArrival := fun _ => .inl rfl
theorem accAllocGrant : Statement .accAllocGrant := fun _ => .inl rfl
theorem accDeadlock : Statement .accDeadlock := fun _ => .inl rfl
theorem accFreeRelease : Statement .accFreeRelease := fun _ => .inl rfl
theorem passComplete : Statement .passComplete := fun _ => .inl rfl
theorem classAging : Statement .classAging := fun _ => .inl rfl
theorem mwaitReturn : Statement .mwaitReturn := fun _ => .inl rfl
theorem decodeStart : Statement .decodeStart := fun _ => .inl rfl
theorem frameOutput : Statement .frameOutput := fun _ => .inl rfl
theorem decodeComplete : Statement .decodeComplete := fun _ => .inl rfl
theorem batchWaitLimit : Statement .batchWaitLimit := fun _ => .inl rfl
theorem bfqTakeReturn : Statement .bfqTakeReturn := fun _ => .inl rfl
theorem regionOpen : Statement .regionOpen := fun _ => .inl rfl
theorem passEnd : Statement .passEnd := fun _ => .inl rfl
theorem cabinetStart : Statement .cabinetStart := fun _ => .inl rfl
theorem cabinetComplete : Statement .cabinetComplete := fun _ => .inl rfl
theorem eviction : Statement .eviction := fun _ => .inl rfl
theorem readmission : Statement .readmission := fun _ => .inl rfl
theorem workgroupComplete : Statement .workgroupComplete := fun _ => .inl rfl
theorem workgroupKill : Statement .workgroupKill := fun _ => .inl rfl
theorem launchReplay : Statement .launchReplay := fun _ => .inl rfl
theorem addressSpaceKill : Statement .addressSpaceKill := fun _ => .inl rfl
theorem wakeUpEnd : Statement .wakeUpEnd := fun _ => .inl rfl
theorem heartbeatSend : Statement .heartbeatSend := fun _ => .inl rfl
theorem heartbeat : Statement .heartbeat := fun _ => .inl rfl
theorem heartbeatMiss : Statement .heartbeatMiss := fun _ => .inl rfl
theorem evidenceLapse : Statement .evidenceLapse := fun _ => .inl rfl
theorem accuse : Statement .accuse := fun _ => .inl rfl
theorem vote : Statement .vote := fun _ => .inl rfl
theorem withdraw : Statement .withdraw := fun _ => .inl rfl
theorem voteWindowEnd : Statement .voteWindowEnd := fun _ => .inl rfl
theorem cordon : Statement .cordon := fun _ => .inl rfl
theorem selfTestComplete : Statement .selfTestComplete := fun _ => .inl rfl
theorem appeal : Statement .appeal := fun _ => .inl rfl
theorem verdict : Statement .verdict := fun _ => .inl rfl
theorem appealWindowEnd : Statement .appealWindowEnd := fun _ => .inl rfl
theorem readmit : Statement .readmit := fun _ => .inl rfl
theorem mrd : Statement .mrd := fun _ => .inl rfl
theorem mwr : Statement .mwr := fun _ => .inl rfl
theorem matom : Statement .matom := fun _ => .inl rfl
theorem dbell : Statement .dbell := fun _ => .inl rfl
theorem mgmt : Statement .mgmt := fun _ => .inl rfl
theorem launch : Statement .launch := fun _ => .inl rfl
theorem signal : Statement .signal := fun _ => .inl rfl
theorem wait : Statement .wait := fun _ => .inl rfl
theorem waitResume : Statement .waitResume := fun _ => .inl rfl
theorem wrreg : Statement .wrreg := fun _ => .inl rfl
theorem depth : Statement .depth := fun _ => .inl rfl
theorem inval : Statement .inval := fun _ => .inl rfl
theorem stepbegin : Statement .stepbegin := fun _ => .inl rfl
theorem stepend : Statement .stepend := fun _ => .inl rfl
theorem lossScaleUpdate : Statement .lossScaleUpdate := fun _ => .inl rfl
theorem pagewr : Statement .pagewr := fun _ => .inl rfl
theorem ctxreset : Statement .ctxreset := fun _ => .inl rfl
theorem attcfgWrite : Statement .attcfgWrite := fun _ => .inl rfl
theorem errcntWrite : Statement .errcntWrite := fun _ => .inl rfl
theorem systemRegisterWrite : Statement .systemRegisterWrite := fun _ => .inl rfl
theorem governorUpdate : Statement .governorUpdate := fun _ => .inl rfl
theorem peerLinkLoss : Statement .peerLinkLoss := fun _ => .inl rfl
theorem bringUp : Statement .bringUp := fun _ => .inl rfl
theorem illegalEncoding : Statement .illegalEncoding := fun _ => .inl rfl
theorem effectiveClassRise : Statement .effectiveClassRise := fun _ => .inl rfl
theorem variableLatencyResult : Statement .variableLatencyResult := fun _ => .inl rfl
theorem writeQueueApply : Statement .writeQueueApply := fun _ => .inl rfl
theorem unassignedMessage : Statement .unassignedMessage := fun _ => .inl rfl

end Sys2Proof.Laws.OneStream
end

