-- ==== Sys2Proof/Laws/Sha.lean ====
section
/-!
SUPPORT. What the signature's encoding gives: its length, and that the check of the encoding takes it.
-/
namespace Sys2Proof.Machine

theorem leBytes_len (n x : Nat) : (leBytes n x).length = n := by
  induction n generalizing x with
  | zero => rfl
  | succ n ih => simp [leBytes, ih]

theorem beBytes_length (n x : Nat) : (beBytes n x).length = n := by simp [beBytes, leBytes_len]

theorem shaBytes_length (bs : List Byte) : (shaBytes bs).length = 64 := by
  simp [shaBytes, beBytes_length]

theorem mgf1_length (seed : List Byte) : (mgf1 seed 447).length = 447 := by
  simp [mgf1, shaBytes_length, List.range_succ]

theorem xor_twice (xs ys : List Byte) (h : xs.length = ys.length) :
    (((xs.zip ys).map (fun e => e.1 ^^^ e.2)).zip ys).map (fun e => e.1 ^^^ e.2) = xs := by
  induction xs generalizing ys with
  | nil => simp
  | cons x xs ih =>
    cases ys with
    | nil => simp at h
    | cons y ys =>
      simp only [List.zip_cons_cons, List.map_cons, BitVec.xor_assoc, BitVec.xor_self, BitVec.xor_zero, List.cons.injEq, true_and]
      exact ih ys (by simpa using h)

/-- The parts of an encoding of 512 bytes. -/
theorem pss_parts (y : Byte) (m h : List Byte) (hm : m.length = 446) (hh : h.length = 64) :
    (y :: m ++ h ++ [0xBC#8]).take 447 = y :: m ∧ ((y :: m ++ h ++ [0xBC#8]).drop 447).take 64 = h ∧
      byteAt (y :: m ++ h ++ [0xBC#8]) 511 = 0xBC#8 ∧ byteAt (y :: m ++ h ++ [0xBC#8]) 0 = y := by
  have h1 : (y :: m).length = 447 := by rw [List.length_cons, hm]
  rw [List.append_assoc]
  refine ⟨List.take_left' h1, ?_, ?_, rfl⟩
  · rw [List.drop_left' h1, List.take_left' hh]
  · rw [byteAt, List.getElem?_append_right (by rw [h1]; decide), h1, List.getElem?_append_right (by omega), hh]; rfl

/-- What the check looks at of zeros, a one and a salt. -/
theorem pss_pad (y : Byte) (a : Nat) (salt : List Byte) :
    ((y :: (List.replicate a 0#8 ++ 1#8 :: salt)).take (a + 1)).drop 1 = List.replicate a 0#8 ∧
      byteAt (y :: (List.replicate a 0#8 ++ 1#8 :: salt)) (a + 1) = 1#8 ∧
      (y :: (List.replicate a 0#8 ++ 1#8 :: salt)).drop (a + 2) = salt := by
  refine ⟨?_, ?_, ?_⟩
  · simp
  · simp [byteAt]
  · rw [show y :: (List.replicate a 0#8 ++ 1#8 :: salt) = (y :: List.replicate a 0#8 ++ [1#8]) ++ salt by simp]
    exact List.drop_left' (by simp)

theorem low7 (x : Byte) : (((0#8 ^^^ x) &&& 127#8) ^^^ x).toNat % 128 = 0 ∧ ((0#8 ^^^ x) &&& 127#8).toNat < 128 := by
  revert x; decide

/-- What is encoded passes the check of the encoding. -/
theorem pssOk_pssEncode (digest salt : List Byte) (hs : salt.length = 64) : pssOk (pssEncode digest salt) digest = true := by
  have hh : ∃ h, h = shaBytes (List.replicate 8 0#8 ++ digest ++ salt) := ⟨_, rfl⟩
  obtain ⟨h, hh⟩ := hh
  have hl := shaBytes_length (List.replicate 8 0#8 ++ digest ++ salt)
  rw [← hh] at hl
  obtain ⟨x, m, hm⟩ : ∃ x m, mgf1 h 447 = x :: m := List.exists_cons_of_length_eq_add_one (n := 446) (mgf1_length _)
  have hml : m.length = 446 := by
    have := mgf1_length h
    rw [hm, List.length_cons] at this
    exact Nat.succ.inj this
  obtain ⟨db, hdb⟩ : ∃ db, db = List.replicate 381 0#8 ++ 1#8 :: salt := ⟨_, rfl⟩
  have hdl : db.length = m.length := by rw [hdb, hml, List.length_append, List.length_replicate, List.length_cons, hs]
  obtain ⟨z, hz⟩ : ∃ z, z = (db.zip m).map (fun e => e.1 ^^^ e.2) := ⟨_, rfl⟩
  have hzl : z.length = 446 := by rw [hz, List.length_map, List.length_zip, hdl, hml]; rfl
  have hxz : (z.zip m).map (fun e => e.1 ^^^ e.2) = db := by rw [hz]; exact xor_twice db m hdl
  have he : pssEncode digest salt = ((0#8 ^^^ x) &&& 127#8) :: z ++ h ++ [0xBC#8] := by
    unfold pssEncode
    rw [← hh]
    show _ :: (List.map _ (List.zip (0#8 :: (List.replicate 381 0#8 ++ 1#8 :: salt)) _)).tail ++ _ ++ _ = _
    rw [← hdb, hm, hz]
    rfl
  obtain ⟨p1, p2, p3, p4⟩ := pss_parts ((0#8 ^^^ x) &&& 127#8) z h hzl hl
  obtain ⟨l1, l2⟩ := low7 x
  have q := pss_pad (((0#8 ^^^ x) &&& 127#8) ^^^ x) 381 salt
  rw [← hdb] at q
  obtain ⟨q1, q2, q3⟩ := q
  unfold pssOk
  rw [he]
  simp only [p1, p2, p3, p4, hm, List.zip_cons_cons, List.map_cons, hxz]
  rw [q3, q1, q2, ← hh]
  have hb : byteAt ((((0#8 ^^^ x) &&& 127#8) ^^^ x) :: db) 0 = (((0#8 ^^^ x) &&& 127#8) ^^^ x) := rfl
  rw [hb, l1]
  have hr : (List.replicate 381 0#8).all (fun b => b == 0#8) = true := by
    rw [List.all_eq_true]
    intro b hb
    rw [List.eq_of_mem_replicate hb]; rfl
  rw [hr, decide_eq_true l2]
  simp

theorem pssEncode_length (digest salt : List Byte) (hs : salt.length = 64) : (pssEncode digest salt).length = 512 := by
  unfold pssEncode
  simp only [List.length_append, List.length_cons, List.length_tail, List.length_map, List.length_zip, List.length_replicate,
    mgf1_length, shaBytes_length, hs, List.length_nil]
  decide

end Sys2Proof.Machine
end

