-- ==== Sys2Proof/Safety.lean ====
section
/-!
DEFINITION. What counts as a safe run: the invariants in whose terms claims are made.
-/
namespace Sys2Proof.Machine

/-- The memory is in its canonical form. -/
def State.memOk (s : State) : Prop := Memory.wf s.mem = true

/-- The machine does not stop: its step answers a next state. -/
def State.goesOn (s : State) : Prop := ∃ t, step s = .next t

/-- The machine after n steps, when none of them stops. -/
def State.after : Nat → State → Option State
  | 0, s => some s
  | n + 1, s =>
    match step s with
    | .next t => State.after n t
    | _ => none

/-- A safe run of n steps: it does not stop, and the memory keeps its form. -/
def State.safeFor (n : Nat) (s : State) : Prop := ∃ t, State.after n s = some t ∧ t.memOk

end Sys2Proof.Machine
end

