-- ==== Sys2Proof/Tests/Slice0.lean ====
section
/-!
SUPPORT. The model's own tests: ill-formed instructions that the checks refuse, words of the spec's encodings, and for each
statement of Certificates/Slice0/Obligations.lean a state and operands that meet its hypotheses.
-/
namespace Sys2Proof.Tests
open Sys2Proof.Machine Sys2Proof.Claims
set_option Elab.async false

/-! ### States -/

/-- A band of one workgroup of one launch, its lane block running, in four lanes. -/
def W : State := (placeWord State.reset true (leBytes 12 0)).issuing 0 false 0 0 Extra.none

/-- The same, while it issues from slot 0 of its lane stream. -/
def L : State := W.issuing 0 true 0 0 Extra.none

/-- A state with another band in its place. -/
def State.but (s : State) (f : Band → Band) : State := s.modBand 0 f

theorem test_reset_wf : Memory.wf State.reset.mem = true := by decide

/-! ### Decoding, reset and the step -/

theorem test_DecodeEncode_scalar : (Instr.add 1 2 3).wf = true ∧ encodeScalar (.add 1 2 3) Extra.none = some 0x00108301 := by
  decide +kernel

theorem test_DecodeEncode_lane : (Instr.join 5).wf = true ∧ (Instr.join 5).guardFits ⟨0, false, 0⟩ = true ∧
    encodeLane (.join 5) ⟨0, false, 0⟩ = some 0xA5400000000000000000A000 := by decide +kernel

theorem test_DecodeEncode_words : Instr.isStep (.join 5) = false ∧ Instr.join 5 ≠ .illegalEncoding := by decide +kernel

theorem test_EncodeDecode : decodeScalar 0x08910040 0 = .ok (.addi 9 4 64) Extra.none ∧
    decodeLane 0xA5400000000000000000A000 = .ok (.join 5) Extra.none := by decide +kernel

theorem test_StepKeepsMemory : ∃ s t, Memory.wf s.mem = true ∧ step s = .next t :=
  ⟨{ State.reset with agenda := [.tick 0] }, _, by decide +kernel, rfl⟩

theorem test_StepRunsInstr_recovery :
    let s := { State.reset with inRecovery := true, agenda := [.tick 0] }
    s.inRecovery = true ∧ Turn.isStatus s.turn = false := by decide +kernel

theorem test_StepRunsInstr_event : ∃ (s : State) (i : Instr) (a b : Nat) (inp : Input), s.inRecovery = false ∧
    s.turn = .event i a b inp ∧ Instr.isStep i = true :=
  ⟨{ State.reset with agenda := [.event .bringUp 0 0 .none] }, .bringUp, 0, 0, .none, by decide +kernel⟩

theorem test_StepRunsInstr_corrected : ∃ (s : State) (p : Nat), s.inRecovery = false ∧ s.turn = .flaw (.corrected p) :=
  ⟨{ State.reset with agenda := [.flaw (.corrected 0)] }, 0, by decide +kernel⟩

theorem test_StepRunsInstr_memory : ∃ (s : State) (k : Nat), s.inRecovery = false ∧ s.turn = .flaw (.memory k) ∧
    typeOf k = .sram :=
  ⟨{ State.reset with agenda := [.flaw (.memory (sramKey 1 0))] }, sramKey 1 0, by decide +kernel⟩

theorem test_StepRunsInstr_status : let s := { State.reset with inRecovery := true, agenda := [.event .mgmt 0 0 (.mgmt .status)] }
    Turn.isStatus s.turn = true ∧ s.turn = .event .mgmt 0 0 (.mgmt .status) ∧ Instr.isStep .mgmt = true := by decide +kernel

theorem test_StepRunsInstr_entry : let s := { W.modBand 0 (fun b => { b with hold := 1 }) with agenda := [.event .handlerEntry 0 0 .none] }
    s.inRecovery = false ∧ s.turn = .event .handlerEntry 0 0 .none ∧ Instr.isStep .handlerEntry = true ∧
      firstCause s.begin_ 0 = none := by decide +kernel

theorem test_StepRunsInstr_tick : let s := State.reset.withFetchWord 32 0x08910040
    let t := { State.reset with agenda := [.tick 0] }
    cycleGoesOn { s with agenda := [.tick 0] }.begin_ 0 = true ∧ { s with agenda := [.tick 0] }.turn = .tick 0 ∧
      t.turn = .tick 0 ∧ cycleGoesOn t.begin_ 0 = false ∧ { t with agenda := [.dieTick 1] }.turn = .dieTick 1 ∧
      s.inRecovery = false := by decide +kernel

theorem test_StepRunsInstr_scalar :
    let s := State.reset.withFetchWord 32 0x08910040
    let i : Instr := .addi 9 4 64
    let u := s.begin_
    let b := u.band 0
    let pc := b.pc.toNat
    let v := scalarAt u 0 Extra.none (BitVec.ofNat 96 0x08910040)
    s.inRecovery = false ∧ s.turn = .scalar 0 ∧ u.awake 0 = true ∧ b.overrun = false ∧ b.deferWaits = false ∧ b.hold = 0 ∧
      b.wait.retries = true ∧ unitFree u b false i = true ∧ u.scalarOk b pc = true ∧ fetchS u b pc = .word 0x08910040 ∧
      decodeScalar (BitVec.ofNat 32 0x08910040) 0 = .ok i Extra.none ∧ b.spoiled i Extra.none false = false ∧
      scoreboard u 0 (issueUse i Extra.none false) = false ∧ wakeStall v i false = false ∧ picked u 0 false 0 = true := by
  decide +kernel

theorem test_StepRunsInstr_lane :
    let s := State.reset.withFetchWord 96 0x420100180201400601000000
    let i : Instr := .ffma ⟨.f32, .rne, 3, .v 2, .s 10, .v 1⟩
    let x : Extra := ⟨⟨0, false, 4⟩, 0, 0⟩
    let u := s.begin_
    let b := u.band 0
    ∃ f, dueFrag u b 0 = some f ∧
    let v := laneAt u 0 0 f x (BitVec.ofNat 96 0x420100180201400601000000)
    s.inRecovery = false ∧ s.turn = .lane 0 0 ∧ u.lanesRun 0 = true ∧ b.overrun = false ∧ b.deferWaits = false ∧ b.hold = 0 ∧
      b.stalledElse 0 = false ∧ unitFree u b true i = true ∧
      u.laneOk b f.pc.toNat = true ∧ fetchL u b f.pc.toNat = .word 0x420100180201400601000000 ∧
      decodeLane (BitVec.ofNat 96 0x420100180201400601000000) = .ok i x ∧ b.spoiled i x true = false ∧
      scoreboard u 0 (issueUse i x true) = false ∧ (Instr.joins i = true → settled u b f = true) ∧ laneCheck v i x = none ∧
      wakeStall v i true = false ∧ badLanes v i x = 0 ∧ badSources v i = 0 :=
  ⟨_, rfl, by decide +kernel⟩



/-! ### What makes a hypothesis hold -/

/-- A state whose present band has other values in s1, s2 and s3. -/
def regs (s : State) (a b c : W64) : State := s.modBand 0 (fun x => ((x.setS 1 a).setS 2 b).setS 3 c)

/-- A state with bytes at an address. -/
def bytesAt (s : State) (a : Nat) (bs : List Byte) : State := { s with mem := memPuts s.mem a bs }

theorem access_of {s : State} {ag : Agent} {w st : Bool} {va n : Nat} (k : Nat) (h : xlAccess s ag w st va n = .ok k)
    (hp : s.poison = []) : accessOk s ag w st va n :=
  ⟨⟨k, h⟩, fun _ _ _ _ => by rw [hp]; rfl⟩

/-! ### The scalar stream: registers and control -/

theorem test_ScalarRegistersAndArithmetic : scalarResult W.cb (.addi 1 2 0x3FFF) = some (1, BitVec.allOnes 64) := by decide +kernel

theorem test_ScalarCompares : Cond.intOk .ge = true := by decide
theorem test_ScalarCompares_words : let formed (n : Nat) : Prop := n % 2 ^ 8 / 2 ^ 5 = 0 ∧ n / 2 ^ 3 % 2 = 0 ∧ n % 2 ^ 3 ≤ 5
    (formed 0x04210515 ∧ 0x04210515 / 2 ^ 26 = 1 ∧ 0x04210515 % 2 ^ 3 = 5 ∧ 0x04210515 / 2 ^ 23 % 2 ^ 3 = 0) ∧
      (formed 0x04A10512 ∧ 0x04A10512 / 2 ^ 26 = 1 ∧ 0x04A10512 / 2 ^ 23 % 2 ^ 3 ≠ 0) ∧
      ¬ formed 0x0421051A ∧ ¬ formed 0x04210516 ∧ ¬ formed 0x04210532 := by decide

theorem test_ScalarAccesses_load : scalarLoadOf W.cb (.ldN64 1 0 1) = some (1, 1, 8, .bd) ∧
    accessOk W W.cb.agent false false 1 8 := ⟨by decide +kernel, access_of 1 (by decide +kernel) rfl⟩

theorem test_ScalarAccesses_ldy : accessOk (regs W 0x3FFF8 0 0) (regs W 0x3FFF8 0 0).cb.agent false true
    ((regs W 0x3FFF8 0 0).cb.s 1).toNat 8 := access_of 0x3FFF8 (by decide +kernel) rfl

theorem test_ScalarAccesses_store : scalarStoreOf W.cb (.stN16 1 0 3) = some (1, 3, 2) ∧
    accessOk W W.cb.agent true false 3 2 := ⟨by decide +kernel, access_of 3 (by decide +kernel) rfl⟩

theorem test_ControlTransfers_taken : xor (W.cb.q 0) false = true ∧ W.scalarOk W.cb (labelOf W.cb 0x3FF).toNat = true := by
  decide +kernel
theorem test_ControlTransfers_on : xor (W.cb.q 0) true = false := by decide +kernel
theorem test_ControlTransfers_register : let s := regs W 0x11FFC 0 0
    s.scalarOk s.cb (s.cb.s 1).toNat = true ∧ s.cb.ret = [] := by decide +kernel
theorem test_ControlTransfers_stack : let s := (regs W 0x11FFC 0 0).modBand 0 (fun b => { b with ret := [0x11FFC, 8] })
    s.scalarOk s.cb (s.cb.s 1).toNat = true ∧ s.cb.ret = s.cb.s 1 :: [8] := by decide +kernel
theorem test_ControlTransfers_table : let s := bytesAt (regs W 1 0 0) 0x11008 (leBytes 4 0x60000001)
    (s.cb.s 1).toNat < (2 : BitVec 14).toNat ∧ s.scalarOk s.cb (s.cb.pc + 4 + 4 * s.cb.s 1).toNat = true ∧
      fetchS s s.cb (s.cb.pc + 4 + 4 * s.cb.s 1).toNat = .word 0x60000001 ∧ 0x60000001 / 2 ^ 22 = 0x180 := by decide +kernel
theorem test_ControlTransfers_label_out : xor (W.cb.q 0) false = true ∧
    W.scalarOk W.cb (labelOf W.cb 0x400).toNat = false := by decide +kernel
theorem test_ControlTransfers_out : let s := regs W 0x12000 0 0
    s.scalarOk s.cb (s.cb.s 1).toNat = false := by decide +kernel
theorem test_ControlTransfers_mismatch : let s := (regs W 0x11FFC 0 0).modBand 0 (fun b => { b with ret := [8] })
    s.scalarOk s.cb (s.cb.s 1).toNat = true ∧ s.cb.ret = 8 :: [] ∧ (8 : W64) ≠ s.cb.s 1 := by decide +kernel
theorem test_ControlTransfers_index : (2 : BitVec 14).toNat ≤ ((regs W 2 0 0).cb.s 1).toNat := by decide +kernel
theorem test_ControlTransfers_word : let s := regs W 1 0 0
    (s.cb.s 1).toNat < (2 : BitVec 14).toNat ∧ s.scalarOk s.cb (s.cb.pc + 4 + 4 * s.cb.s 1).toNat = true ∧
      fetchS s s.cb (s.cb.pc + 4 + 4 * s.cb.s 1).toNat = .word 0 ∧ 0 / 2 ^ 22 ≠ 0x180 := by decide +kernel

theorem test_BlocksTablesSignatures_lpost : W.cb.held = none ∧ W.laneOk W.cb (W.laneBase W.cb + 4 * (0 : BitVec 20).toNat) = true ∧
    W.laneBase W.cb + 4 * (0 : BitVec 20).toNat < 2 ^ 64 ∧ W.cb.queue.length < 4 ∧ W.cb.live ≠ 0 := by decide +kernel
theorem test_BlocksTablesSignatures_lsync : let s := W.modBand 0 (fun b => { b with run := none, slot0 := none })
    s.cb.held = none ∧ s.cb.queue = [] ∧ s.cb.run = none ∧ ∀ p ∈ s.cb.pend, p.lane = false := by decide +kernel
theorem test_BlocksTablesSignatures_bind : let s := bytesAt W 0x13000 (leBytes 8 1 ++ leBytes 8 (8 * 2 ^ 32))
    let va := (BitVec.ofInt 64 (s.cb.pc.toNat + 4 * (0x800 : BitVec 20).toInt) : W64).toNat
    let word (j : Nat) : Nat := leNat 8 (loadBytes s s.cb.agent false ((va + 8 * j) % 2 ^ 64) 8).1
    (s.cb.held = none ∧ va % 8 = 0 ∧ word 0 = 1 ∧ (∀ j, j < 1 → word (j + 1) / 2 ^ 44 = 0 ∧
      word (j + 1) / 2 ^ 32 % 8 = 0 ∧ 8 ≤ word (j + 1) / 2 ^ 32 ∧ word (j + 1) / 2 ^ 32 ≤ 2048 ∧
      word (j + 1) / 2 ^ 32 ≤ s.cb.budget ∧ s.laneOk s.cb (s.laneBase s.cb + word (j + 1) % 2 ^ 32) = true) ∧
      s.cb.freeCopy = some 0) ∧ ∀ j, j ≤ 1 → accessOk s s.cb.agent false false ((va + 8 * j) % 2 ^ 64) 8 :=
  ⟨by decide +kernel, fun j h => match j, h with
    | 0, _ => access_of 0x13000 (by decide +kernel) rfl
    | 1, _ => access_of 0x13008 (by decide +kernel) rfl⟩
theorem test_BlocksTablesSignatures_chk : let s := W.issuing 0 false 0 0 ⟨⟨0, false, 0⟩, 0, 0⟩
    s.cb.held = none ∧ s.cb.sig ^^^ 0xFFFFFFFF = s.cur.x.next := by decide +kernel
/-- The band in its handler. -/
def H : State := W.modBand 0 (fun b => { b with held := some ⟨0x11000, false, 0, 0, 0, 4, .plain, .none⟩ })
theorem test_BlocksTablesSignatures_handler : H.cb.held ≠ none := by decide +kernel

theorem test_SpecialRegisters_read : ((0x007 : BitVec 14).toNat, 0) ∈ specialRegs W := by decide +kernel
theorem test_SpecialRegisters_write : ((regs W 0xFFFFFFFF 0 0).cb.s 1).toNat < 2 ^ 32 ∧ ((regs W 1 0 0).cb.s 1).toNat < 2 := by
  decide +kernel
theorem test_SpecialRegisters_tvec : let s := regs W (2 ^ 52 - 4) 0 0
    s.cb.held = none ∧ (s.cb.s 1).toNat < 2 ^ 52 ∧ (s.cb.s 1).toNat % 4 = 0 := by decide +kernel
theorem test_SpecialRegisters_budleft : H.cb.held ≠ none ∧ (H.cb.s H.cur.x.src).toNat < 2 ^ 32 := by decide +kernel
/-- The source of an `srw` row is s1. -/
def src1 (v : W64) : State := (regs W v 0 0).issuing 0 false 0 0 ⟨⟨0, false, 0⟩, 1, 0⟩
theorem test_SpecialRegisters_depths : 1 ≤ ((src1 128).cb.s (src1 128).cur.x.src).toNat ∧
    ((src1 128).cb.s (src1 128).cur.x.src).toNat ≤ 128 := by decide +kernel
theorem test_SpecialRegisters_batch : let s := src1 4096
    let v := (s.cb.s s.cur.x.src).toNat
    1 ≤ v ∧ v ≤ (s.dctx s.cdk).bfqmax ∧ v ≤ 4096 ∧ (s.dctx s.cdk).bfqthr ≤ v := by decide +kernel
theorem test_SpecialRegisters_reserved : 2 ^ 32 ≤ ((regs W (2 ^ 32) 0 0).cb.s 1).toNat ∧ 2 ≤ ((regs W 2 0 0).cb.s 1).toNat := by
  decide +kernel
theorem test_SpecialRegisters_tvec_bad : let s := regs W 1 0 0
    s.cb.held = none ∧ ((s.cb.s 1).toNat % 4 ≠ 0 ∨ 2 ^ 52 ≤ (s.cb.s 1).toNat) := by decide +kernel
theorem test_SpecialRegisters_number : (0 : BitVec 14) ≠ 0x010 ∧ (0 : BitVec 14) ≠ 0x011 ∧ (0 : BitVec 14) ≠ 0x018 ∧
    (0 : BitVec 14) ≠ 0x024 := by decide
theorem test_SpecialRegisters_range : 2 ^ 8 ≤ ((src1 256).cb.s (src1 256).cur.x.src).toNat ∧
    ((src1 0).cb.s (src1 0).cur.x.src).toNat = 0 ∧ 2 ^ 13 ≤ ((src1 8192).cb.s (src1 8192).cur.x.src).toNat ∧
    ((src1 4097).cb.s (src1 4097).cur.x.src).toNat < 2 ^ 13 ∧ 4096 < ((src1 4097).cb.s (src1 4097).cur.x.src).toNat := by
  decide +kernel
theorem test_SpecialRegisters_order : let s := src1 1
    (s.cb.s s.cur.x.src).toNat < 2 ^ 13 ∧ (s.cb.s s.cur.x.src).toNat < (s.dctx s.cdk).bfqthr := by decide +kernel
theorem test_SpecialRegisters_above : let s := (src1 101).modDctx 0 (fun d => { d with bfqmax := 100 })
    (s.cb.s s.cur.x.src).toNat < 2 ^ 13 ∧ (s.dctx s.cdk).bfqmax < (s.cb.s s.cur.x.src).toNat := by decide +kernel


/-- Whether a translation is there. -/
def isOk : Xl → Bool
  | .ok _ => true
  | _ => false

theorem places_of {s : State} {ag : Agent} {w : Bool} {va n : Nat}
    (h : (List.range n).all (fun i => isOk (xlByte s ag w ((va + i) % 2 ^ 64))) = true) :
    ∀ i, i < n → ∃ k, Claims.placed s ag w va i k := by
  intro i hi
  have := List.all_eq_true.mp h i (List.mem_range.mpr hi)
  unfold isOk at this
  split at this
  · next k e => exact ⟨k, e⟩
  · cases this

theorem test_CabinetRegisterWrites_base : let s := src1 0x30000
    ddTurned s ∧ (s.cb.s s.cur.x.src).toNat % 65536 = 0 := ⟨by unfold ddTurned; decide +kernel, by decide +kernel⟩
theorem test_CabinetRegisterWrites_zero : ddTurned (src1 0) ∧ (src1 0).cb.s (src1 0).cur.x.src = 0 :=
  ⟨by unfold ddTurned; decide +kernel, by decide +kernel⟩
theorem test_CabinetRegisterWrites_table : let s := (src1 0x4006).modDctx 0 (fun d => { d with ddbase := 0xFE00000000000000 })
    ddTurned s ∧ (s.cb.s s.cur.x.src).toNat = 6 + 64 * 256 ∧
      ∀ i, i < 24 * 2 ^ 6 → ∃ k, Claims.placed s s.cb.agent true (s.dctx s.cdk).ddbase.toNat i k :=
  ⟨by unfold ddTurned; decide +kernel, by decide +kernel, places_of (by decide +kernel)⟩
/-- Values that trap before the turn: reserved bits, and fields out of range. -/
theorem test_CabinetRegisterWrites_bad : let v (n : Nat) : Nat := ((src1 (BitVec.ofNat 64 n)).cb.s (src1 (BitVec.ofNat 64 n)).cur.x.src).toNat
    v 1 % 65536 ≠ 0 ∧ v 64 / 2 ^ 6 % 2 ^ 2 ≠ 0 ∧ 2 ^ 48 ≤ v (2 ^ 48) ∧
      (v 256 / 2 ^ 6 % 2 ^ 2 = 0 ∧ v 256 < 2 ^ 48 ∧ v 256 % 2 ^ 6 = 0 ∧ v 256 / 2 ^ 8 % 2 ^ 40 ≠ 0) ∧
      (v 0x205 < 2 ^ 48 ∧ v 0x205 % 2 ^ 6 ≠ 0 ∧ v 0x205 % 2 ^ 6 < 6) ∧ v 2 % 4 ≠ 0 ∧ 2 ^ 20 ≤ v (2 ^ 20) ∧ v 0xFFFFF = 0xFFFFF := by
  decide +kernel
theorem test_CabinetRegisterWrites_order_base : let s := (src1 0x30000).modDctx 0 (fun d => { d with vocount := 1 })
    let v := s.cb.s s.cur.x.src
    let d := s.dctx s.cdk
    let o := orderAt s s.cb.agent v.toNat d.vocount.toNat
    ddTurned s ∧ v.toNat % 4 = 0 ∧ (d.vocount ≠ 0 ∧ d.vocount ≠ 0xFFFFF ∧
      rangeFault s s.cb.agent false v.toNat (8 * d.vocount.toNat) = none ∧
      engBad s s.cb.agent v.toNat (8 * d.vocount.toNat) = false) ∧ inverseTables d.vocount.toNat o.1 o.2 :=
  ⟨by unfold ddTurned; decide +kernel, by decide +kernel, by decide +kernel, by unfold inverseTables; decide +kernel⟩
theorem test_CabinetRegisterWrites_order_count : let s := (src1 1).modDctx 0 (fun d => { d with vobase := 0x30000 })
    let v := s.cb.s s.cur.x.src
    let d := s.dctx s.cdk
    let o := orderAt s s.cb.agent d.vobase.toNat v.toNat
    ddTurned s ∧ v.toNat < 2 ^ 20 ∧ (v ≠ 0 ∧ v ≠ 0xFFFFF ∧
      rangeFault s s.cb.agent false d.vobase.toNat (8 * v.toNat) = none ∧
      engBad s s.cb.agent d.vobase.toNat (8 * v.toNat) = false) ∧ inverseTables v.toNat o.1 o.2 :=
  ⟨by unfold ddTurned; decide +kernel, by decide +kernel, by decide +kernel, by unfold inverseTables; decide +kernel⟩

/-! ### The scalar stream: engines -/

theorem test_EngineCommandsEnter_copy : let s := regs W 0 (2 ^ 40 - 1) 0
    (s.tile s.cb.ptile).copies.length < 16 ∧ targetOk (s.cb.s 3) = true ∧ (s.cb.s 2).toNat < 2 ^ 40 := by decide +kernel
theorem test_EngineCommandsEnter_pack : let s := regs W 64 (0x3F800443 * 2 ^ 32 + 1) 1
    (s.tile s.cb.ptile).copies.length < 16 ∧ targetOk (s.cb.s 3) = true ∧ formatOk ((s.cb.s 2).toNat / 2 ^ 32) = true ∧
      (Format.ofNat ((s.cb.s 2).toNat / 2 ^ 32)).kind = 3 ∧ (s.cb.s 2).toNat % 2 ^ 32 ≠ 0 ∧ (s.cb.s 1).toNat % 64 = 0 := by
  decide +kernel
theorem test_EngineCommandsEnter_yieldc : let s := regs W 0 1 0
    s.cb.held = none ∧ (s.cb.s 2).toNat < 2 ^ 40 ∧
      s.scalarOk s.cb (BitVec.ofInt 64 (s.cb.pc.toNat + 4 * (0x7F : BitVec 8).toInt) : W64).toNat = true ∧
      (s.tile s.cb.ptile).copies.length < 16 := by decide +kernel

/-- The band's first scratchpad bytes. -/
def scr : W64 := 0xFE00000000000000
theorem barrier_of {s : State} {k : Nat} (h : (s.cb.s 1).toNat % 16 = 0 ∧
    barrierPlace s s.cb.agent (s.cb.s 1).toNat = .ok k) (hp : s.poison = []) : barrierAt s (s.cb.s 1).toNat k :=
  ⟨h.1, h.2, by unfold anyPoison; rw [hp]; simp⟩
theorem test_BarrierSteps_init : let s := regs W scr 0xFFFF 0
    barrierAt s (s.cb.s 1).toNat 0x1000000000000000 ∧ (s.cb.s 2).toNat < 2 ^ 16 :=
  ⟨barrier_of (by decide +kernel) rfl, by decide +kernel⟩
/-- An object that expects two arrivals, in phase 3. -/
def obj (n : Nat) : State := { regs W scr 1 0 with
  mem := memPuts W.mem 0x1000000000000000 (leBytes 16 (Barrier.toNat ⟨2, n, 3, false, false, 0, 0, 0⟩)) }
theorem test_BarrierSteps_arrive : let s := obj 1
    barrierAt s (s.cb.s 1).toNat 0x1000000000000000 ∧ 1 ≤ (s.cb.s 2).toNat ∧ (s.cb.s 2).toNat ≤ 255 ∧
      (arrivalOf (readBarrier s 0x1000000000000000) (s.cb.s 2).toNat false (s.cb.tile * 96 + s.cb.slot)).1 = 1 :=
  ⟨barrier_of (by decide +kernel) rfl, by decide +kernel⟩
theorem test_BarrierSteps_misaligned : ((regs W 8 0 0).cb.s 1).toNat % 16 ≠ 0 := by decide +kernel
theorem test_BarrierSteps_translated : ((regs W 16 0 0).cb.s 1).toNat % 16 = 0 ∧ ((regs W 16 0 0).cb.s 1).toNat < 2 ^ 52 := by
  decide +kernel
theorem test_BarrierSteps_operand : barrierAt (regs W scr 0 0) ((regs W scr 0 0).cb.s 1).toNat 0x1000000000000000 ∧
    ((regs W scr 0 0).cb.s 2).toNat = 0 := ⟨barrier_of (by decide +kernel) rfl, by decide +kernel⟩
theorem test_BarrierSteps_wide : let s := regs W scr 0x10000 0
    barrierAt s (s.cb.s 1).toNat 0x1000000000000000 ∧ 2 ^ 16 ≤ (s.cb.s 2).toNat :=
  ⟨barrier_of (by decide +kernel) rfl, by decide +kernel⟩
theorem test_BarrierSteps_overrun : let s := regs (obj 0) scr 3 0
    barrierAt s (s.cb.s 1).toNat 0x1000000000000000 ∧ 1 ≤ (s.cb.s 2).toNat ∧ (s.cb.s 2).toNat ≤ 255 ∧
      (arrivalOf (readBarrier s 0x1000000000000000) (s.cb.s 2).toNat false (s.cb.tile * 96 + s.cb.slot)).1 = 2 :=
  ⟨barrier_of (by decide +kernel) rfl, by decide +kernel⟩
theorem test_BarrierSteps_none : let s := regs W scr 3 0
    barrierAt s (s.cb.s 1).toNat 0x1000000000000000 ∧ 1 ≤ (s.cb.s 2).toNat ∧ (s.cb.s 2).toNat ≤ 255 ∧
      (arrivalOf (readBarrier s 0x1000000000000000) (s.cb.s 2).toNat false (s.cb.tile * 96 + s.cb.slot)).1 = 3 :=
  ⟨barrier_of (by decide +kernel) rfl, by decide +kernel⟩

theorem test_WaitsReturnOrPark_bwait : let s := regs (obj 1) scr 0x10003 0
    barrierAt s (s.cb.s 1).toNat 0x1000000000000000 ∧ (s.cb.s 2).toNat / 2 ^ 4 % 2 ^ 12 = 0 ∧ (s.cb.s 2).toNat < 2 ^ 48 ∧
      (readBarrier s 0x1000000000000000).expected ≠ 0 ∧ (readBarrier s 0x1000000000000000).phase = (s.cb.s 2).toNat % 16 :=
  ⟨barrier_of (by decide +kernel) rfl, by decide +kernel⟩
theorem test_WaitsReturnOrPark_bwait_now : let s := regs (obj 1) scr 2 0
    barrierAt s (s.cb.s 1).toNat 0x1000000000000000 ∧ (s.cb.s 2).toNat / 2 ^ 4 % 2 ^ 12 = 0 ∧ (s.cb.s 2).toNat < 2 ^ 48 ∧
      (readBarrier s 0x1000000000000000).expected ≠ 0 ∧ (readBarrier s 0x1000000000000000).phase ≠ (s.cb.s 2).toNat % 16 :=
  ⟨barrier_of (by decide +kernel) rfl, by decide +kernel⟩
theorem test_WaitsReturnOrPark_bwait_none : let s := regs W scr 0 0
    barrierAt s (s.cb.s 1).toNat 0x1000000000000000 ∧ (s.cb.s 2).toNat / 2 ^ 4 % 2 ^ 12 = 0 ∧ (s.cb.s 2).toNat < 2 ^ 48 ∧
      (readBarrier s 0x1000000000000000).expected = 0 :=
  ⟨barrier_of (by decide +kernel) rfl, by decide +kernel⟩
/-- A wait at 0x30000 for a count in s2. -/
def waits (n : W64) : State := regs W 0x30000 n 0
theorem test_WaitsReturnOrPark_cwait : let s := waits 1
    accessOk s s.cb.agent false true (s.cb.s 1).toNat 8 ∧ Claims.placed s s.cb.agent false (s.cb.s 1).toNat 0 0x30000 ∧
      memNat s.view 0x30000 8 % 2 ^ 48 < (s.cb.s 2).toNat % 2 ^ 48 ∧ memNat s.view 0x30000 8 / 2 ^ 48 = 0 :=
  ⟨access_of 0x30000 (by decide +kernel) rfl, by unfold Claims.placed; decide +kernel, by decide +kernel⟩
theorem test_WaitsReturnOrPark_cwait_now : let s := waits 0
    accessOk s s.cb.agent false true (s.cb.s 1).toNat 8 ∧ Claims.placed s s.cb.agent false (s.cb.s 1).toNat 0 0x30000 ∧
      (s.cb.s 2).toNat % 2 ^ 48 ≤ memNat s.view 0x30000 8 % 2 ^ 48 :=
  ⟨access_of 0x30000 (by decide +kernel) rfl, by unfold Claims.placed; decide +kernel, by decide +kernel⟩
theorem test_WaitsReturnOrPark_mwait : let s := (regs W 1 0 0).modBand 0 (fun b => { b with mxPosted := 1 })
    (s.cb.s 1).toNat ≤ s.cb.mxPosted.toNat ∧ s.cb.mxRetired.toNat < (s.cb.s 1).toNat := by decide +kernel
theorem test_WaitsReturnOrPark_mwait_now : let s := (regs W 1 0 0).modBand 0 (fun b => { b with mxPosted := 1, mxRetired := 1 })
    (s.cb.s 1).toNat ≤ s.cb.mxPosted.toNat ∧ (s.cb.s 1).toNat ≤ s.cb.mxRetired.toNat := by decide +kernel

theorem test_Signals_object : (0x30008 : W64) ≠ 0 ∧ (0x30008 : W64).toNat % 8 = 0 ∧
    xlAccess W W.cb.source.ag true true (0x30008 : W64).toNat 8 = .ok 0x30008 := by decide +kernel
theorem test_Signals_barrier : (scr + 1).toNat % 16 = 1 ∧
    barrierPlace W W.cb.source.ag ((scr + 1).toNat - 1) = .ok 0x1000000000000000 := by decide +kernel
theorem test_Signals_clean : anyPoison W [0x30008] = false ∧ anyPoison W [0x1000000000000000, 0x1000000000000008] = false := by
  decide +kernel
theorem test_Signals_fault : (0x40000 : W64).toNat % 8 = 0 ∧ xlAccess W W.cb.source.ag true true (0x40000 : W64).toNat 8 =
    .bad 0x083 ∧ W.cb.source.band = some 0 ∧ (tget? W.bands 0).isSome := by decide +kernel
theorem test_Signals_csig : targetOk ((regs W (scr + 1) 0 0).cb.s 1) = true := by decide +kernel

theorem test_DecoderPatternAndBatchCommands_vdec : let s := regs W 64 0 0
    (s.cb.s 1).toNat % 64 = 0 ∧ (s.dec 7).queue.length < 8 ∧
      s.cb.tile / 96 * 8 + (if (7 : BitVec 4).toNat = 8 then leastBusy s (s.cb.tile / 96) else (7 : BitVec 4).toNat) = 7 := by
  decide +kernel
theorem test_DecoderPatternAndBatchCommands_pattern : let s := (regs W 3 0x200000040 0).modVif 0 (fun v => { v with gpatUse := 4 })
    let e := (s.vif (s.cb.ctx / 16)).gpatFirst + (s.cb.s 1).toNat
    (s.cb.s 1).toNat < (s.vif (s.cb.ctx / 16)).gpatUse ∧ (s.cb.s 1).toNat < 2 ^ 16 ∧ patternBusy s e = false ∧
      (s.cb.s 2).toNat % 2 ^ 32 ≠ 0 ∧ (s.cb.s 2).toNat / 2 ^ 32 < 3 := by decide +kernel
theorem test_DecoderPatternAndBatchCommands_reg : ∃ i, i < 4096 ∧ tget? (W.dctx W.cdk).seqs i = none :=
  ⟨4095, by decide +kernel⟩
/-- A sequence of handle 2^12 in slot 0. -/
def seq1 (a b : W64) : State := (regs W a b 0).modDctx 0 (fun d => { d with seqs := [(0, ⟨1, 0, some 0⟩)] })
theorem test_DecoderPatternAndBatchCommands_seq : seqOf (seq1 4096 0) (seq1 4096 0).cdk ((seq1 4096 0).cb.s 1) =
    some (0, ⟨1, 0, some 0⟩) := by decide +kernel
theorem test_DecoderPatternAndBatchCommands_post : let s := bytesAt (seq1 0x30000 0) 0x30000 (leBytes 8 4096)
    let w := leNat 64 (loadBytes s s.cb.agent true (s.cb.s 1).toNat 64).1
    accessOk s s.cb.agent false true (s.cb.s 1).toNat 64 ∧ w / 2 ^ 40 % 2 ^ 24 = 0 ∧ w < 2 ^ 320 ∧
      targetOk (BitVec.ofNat 64 (w / 2 ^ 192)) = true ∧ (seqOf s s.cdk (BitVec.ofNat 64 (w % 2 ^ 32))).isSome ∧
      (s.dctx s.cdk).waiting.length < 1024 :=
  ⟨access_of 0x30000 (by decide +kernel) rfl, by decide +kernel⟩
theorem test_DecoderPatternAndBatchCommands_take_waits : (W.dctx W.cdk).formed = [] := by decide +kernel
/-- A formed batch of one request. -/
def formed1 : Batch := ⟨0, [⟨0x30000, 4096, 1, 0, 0, 0, 0, 0, 0, 0⟩]⟩
theorem test_DecoderPatternAndBatchCommands_take : let s := (regs W 0x30000 0 0).modDctx 0 (fun d => { d with formed := [formed1] })
    (s.dctx s.cdk).formed = formed1 :: [] ∧ (∀ i, i ≤ formed1.reqs.length → ∃ k,
      xlAccess s s.cb.agent true false ((s.cb.s 1).toNat + 8 * i) 8 = .ok k) ∧ ∀ r ∈ s.cb.batch, r.retired = true :=
  ⟨by decide +kernel, fun i h => match i, h with
    | 0, _ => ⟨0x30000, by decide +kernel⟩
    | 1, _ => ⟨0x30008, by decide +kernel⟩, by decide +kernel⟩
/-- A band with a batch of one request. -/
def batch1 (given retired : Bool) : State :=
  W.modBand 0 (fun b => { b with batch := [⟨⟨0x30000, 4096, 1, 0, 0, 0, 0, 0, 0, 0⟩, given, retired⟩] })
theorem test_DecoderPatternAndBatchCommands_next : let s := batch1 false false
    s.cb.batch.findIdx? (fun r => !r.given && !r.retired) = some 0 ∧ s.cb.batch[0]?.isSome := by decide +kernel
theorem test_DecoderPatternAndBatchCommands_last : ∀ r ∈ (batch1 true false).cb.batch, r.given = true ∨ r.retired = true := by
  decide +kernel
theorem test_DecoderPatternAndBatchCommands_done : ∃ r, (batch1 true false).cb.batch[((batch1 true false).cb.s 1).toNat]? = some r ∧
    (((batch1 true false).cb.s 2).toNat % 2 ^ 16 ≠ 0x20) ∧ r.retired = false := ⟨_, rfl, by decide +kernel⟩
theorem test_DecoderPatternAndBatchCommands_done_again : ∃ r,
    (batch1 true true).cb.batch[((batch1 true true).cb.s 1).toNat]? = some r ∧ r.retired = true := ⟨_, rfl, by decide +kernel⟩


theorem test_AccumulatorTilesAndCounters_alloc : let s := regs W 0x10000001 0 0
    let w := s.cb.s 1
    let count (i : Nat) : Nat := w.toNat / 2 ^ (8 * i) % 32
    (w ≠ 0 ∧ w &&& 0x1F1F1F1F = w ∧ (∀ i, i < 4 → count i ≤ 16) ∧ fitsAcc s w) ∧ ¬ olderAcc s :=
  ⟨by unfold fitsAcc; decide +kernel, fun ⟨_, h, _, _, _, hw, _⟩ => by
    have : (regs W 0x10000001 0 0).bands.all (fun e => e.2.wait == .none) = true := by decide +kernel
    have := List.all_eq_true.mp this _ h
    rw [hw] at this
    cases this⟩
/-- The band's workgroup holds tiles. -/
def holds (s : State) (m : W64) : State := s.modWg 0 (fun w => { w with acc := m })
theorem test_AccumulatorTilesAndCounters_wait : let s := holds (regs W 16 0 0) 0x8000
    let w := s.cb.s 1
    let count (i : Nat) : Nat := w.toNat / 2 ^ (8 * i) % 32
    w ≠ 0 ∧ w &&& 0x1F1F1F1F = w ∧ (∀ i, i < 4 → count i ≤ 16) ∧ ¬ fitsAcc s w := by unfold fitsAcc; decide +kernel
theorem test_AccumulatorTilesAndCounters_older : let s := (regs W 1 0 0).modBand 0 (fun b => { b with wait := .acc 1 2 0 })
    fitsAcc s (s.cb.s 1) ∧ olderAcc s :=
  ⟨by unfold fitsAcc; decide +kernel, ⟨_, List.mem_cons_self, 1, 2, 0, by unfold fitsAcc; decide +kernel⟩⟩
theorem test_AccumulatorTilesAndCounters_cordoned : let s := (regs W 1 0 0).modTile 0 (fun t => { t with cordoned := true })
    ¬ fitsAcc s (s.cb.s 1) := by unfold fitsAcc; decide +kernel
theorem test_AccumulatorTilesAndCounters_free : let s := holds (regs W 5 0 0) 7
    (tget? s.wgs s.cb.wg).isSome ∧ (tget? s.wgs s.cb.wg).any (fun x => s.cb.s 1 &&& x.acc == s.cb.s 1) ∧
      ¬ ∃ e ∈ (s.quad s.cq).table, ∃ n ∈ e.tiles, (s.cb.s 1).getLsbD n = true := by decide +kernel
theorem test_AccumulatorTilesAndCounters_free_waits : let s := { holds (regs W 5 0 0) 7 with
      quads := [(0, { Quad.init with table := [⟨0, 0, 0, 0, 0, 0, 0, 0, 0, 0, 0, 0, .rne, 0, 0, [0], [2], 0, 0, 0, false, none, true, 0, .f32, 0, []⟩] })] }
    (tget? s.wgs s.cb.wg).any (fun x => s.cb.s 1 &&& x.acc == s.cb.s 1) ∧
      ∃ e ∈ (s.quad s.cq).table, ∃ n ∈ e.tiles, (s.cb.s 1).getLsbD n = true := by decide +kernel
theorem test_AccumulatorTilesAndCounters_free_bad : let s := holds (regs W 8 0 0) 7
    (tget? s.wgs s.cb.wg).any (fun x => s.cb.s 1 &&& x.acc != s.cb.s 1) := by decide +kernel
theorem test_AccumulatorTilesAndCounters_mwait : W.cb.mxPosted.toNat < ((regs W 1 0 0).cb.s 1).toNat := by decide +kernel
theorem test_AccumulatorTilesAndCounters_barrMx : let s := regs W scr 0 1
    (s.cb.s 1).toNat % 16 = 0 ∧ barrierPlace s s.cb.agent (s.cb.s 1).toNat = .ok 0x1000000000000000 ∧
      (s.cb.s 2).toNat ≤ s.cb.mxPosted.toNat ∧ s.cb.mxPosted.toNat < (s.cb.s 3).toNat ∧ (s.cb.s 3).toNat < 2 ^ 48 := by
  decide +kernel

theorem test_EngineCommandsEnter_cabinet : let s := regs W 64 0 0
    targetOk (s.cb.s 2) = true ∧ ((s.die (s.cb.tile / 96)).cab.filter (fun c => decide (c.op < 13))).length < 64 ∧
      (s.cb.s 1).toNat % 64 = 0 := by decide +kernel

/-- Operands of a region: T in s1, the configuration in s2, x[0] in s3: d = 2, JACOBI, one pass, tolerances 0. -/
def rxOps (cfg va : W64) : State := regs W 3 cfg va
theorem test_RegionCommands_begin : let s := rxOps 0x122 0x30000
    regionOperands s (s.cb.s 1) (s.cb.s 2) (s.cb.s 3) ∧ (s.cb.s 2).getLsbD 56 = false ∧
      (s.cb.rxLate = none ∧ (s.band (s.cb.wg * 16)).wait = .none) := by
  refine ⟨⟨by decide +kernel, by decide +kernel, by decide +kernel, fun _ i h => ?_, ?_⟩, by decide +kernel, by decide +kernel⟩
  · obtain ⟨k, hk⟩ := places_of (s := rxOps 0x122 0x30000)
      (ag := { (rxOps 0x122 0x30000).cb.agent with lane := false }) (w := false) (va := 0x30000) (n := 8) (by decide +kernel) i h
    exact ⟨k, hk, rfl⟩
  · unfold tolerance; decide +kernel
theorem test_RegionCommands_depth : let s := (seq1 0 0).modBand 0 (fun b => { b with rxseq := 4096 })
    depthNow s s.cb = some 128 := by decide +kernel
theorem test_RegionCommands_many : let s := (rxOps 0x122 0x30000).modLaunch 0 (fun l => { l with desc := l.desc ||| (1 <<< 275) })
    ((1 : BitVec 4) ≠ 0) ∧ s.cb.rxLate = none ∧ (tget? s.launches s.cb.launch).any (fun L => decide ((1 : BitVec 4).toNat ≤ L.desc.toNat / 2 ^ 275 % 16)) ∧
      s.cb.no ≤ (1 : BitVec 4).toNat ∧ (tget? s.wgs s.cb.wg).any (fun w => decide (2 * 512 ≤ w.scrSize)) := by decide +kernel
/-- A region of one band, open or held. -/
def region (held : Bool) : State := { W.modBand 0 (fun b => { b with rx := some ⟨0, 0, 3, 2, 0, true, false, 0, 0⟩ }) with
  regions := [(0, ⟨0x122, 1, 3, held, [], [], [], 0, 0, 0, 1, none, none, [], none, false, [], none, 0, 0, [], false, [], false, false⟩)] }
theorem test_RegionCommands_waits : (region false).cb.rx ≠ none ∧ (region false).cb.held = none := by decide +kernel
theorem test_RegionCommands_none : W.cb.rx = none := by decide +kernel
theorem test_RegionCommands_held : (region true).cb.rx.any (fun k => (tget? (region true).regions k.leader).any (·.held)) := by
  decide +kernel
/-- A region whose body runs. -/
def inRegion : State := (region false).modBand 0 (fun b => { b with run := b.run.map (fun r => { r with body := true }) })
theorem test_RegionCommands_abort : inRegion.cb.rx.any (fun k => (tget? inRegion.regions k.leader).any (fun r => !r.held)) ∧
    (0 < 1 ∧ (inRegion.band (0 + 0)).inBody = true) := by decide +kernel

/-! ### Traps and handlers -/

/-- A band that can take a trap: its handler stands at the start of its scalar section. -/
def T (lane : Bool) : State := (W.modBand 0 (fun b => { b with tvec := 0x11000 })).issuing 0 lane 0 0 Extra.none
theorem test_TrapEntry_scalar : canTrap (T false) :=
  ⟨by decide +kernel, by decide +kernel, by decide +kernel, by decide +kernel, 0x11000, by decide +kernel⟩
theorem test_TrapEntry_lane : canTrap (T true) ∧ (T true).cb.inBody = false ∧ (T true).cf.mask ≠ 0 ∧ (T true).act ≠ 0 ∧
    (T true).cur.lane = true :=
  ⟨⟨by decide +kernel, by decide +kernel, by decide +kernel, by decide +kernel, 0x11000, by decide +kernel⟩, by decide +kernel⟩
theorem test_UserAndFatalTraps_empty : ((T true).issuing 0 true 0 0 ⟨⟨1, false, 0⟩, 0, 0⟩).act = 0 := by decide +kernel
theorem test_UserAndFatalTraps_double : (tget? H.bands H.cur.band).isSome ∧ H.cb.held ≠ none ∧
    (tget? H.launches H.cb.launch).isSome := by decide +kernel
theorem test_UserAndFatalTraps_no_handler : (tget? W.bands W.cur.band).isSome ∧ W.cb.held = none ∧ W.cb.tvec = 0 ∧
    (W.vif (W.cb.ctx / 16)).faultK = 0 := by decide +kernel
theorem test_UserAndFatalTraps_ring : let s := W.modVif 0 (fun v => { v with faultBase := 0x30000, faultK := 1 })
    let v := s.vif (s.cb.ctx / 16)
    v.faultK ≠ 0 ∧ v.faultHead < 2 ^ v.faultK ∧ v.faultBase.toNat % 32 = 0 ∧
      v.faultBase.toNat + 32 * v.faultHead + 32 ≤ 2 ^ 52 := by decide +kernel
theorem test_HandlerReturnsAndExits_plain : (tget? H.bands H.cur.band).isSome ∧ H.cb.held.any (fun h => h.kind = .plain ∧ h.lane = false) := by
  decide +kernel
theorem test_HandlerReturnsAndExits_others :
    (H.modBand 0 (fun b => { b with held := some ⟨0x11000, true, 0, 0, 0, 12, .lsig, .none⟩ })).cb.held.any
      (fun h => h.kind = .lsig ∧ h.lane = true) ∧
    (H.modBand 0 (fun b => { b with held := some ⟨0x11000, true, 0, 0, 0, 12, .plain, .none⟩ })).cb.held.any
      (fun h => h.kind = .plain ∧ h.lane = true) ∧
    (H.modBand 0 (fun b => { b with held := some ⟨0x11000, false, 0, 0, 0, 8, .sig, .none⟩ })).cb.held.any
      (fun h => h.kind = .sig) ∧
    (H.modBand 0 (fun b => { b with held := some ⟨0x11000, false, 0, 0, 0, 4, .again, .none⟩ })).cb.held.any
      (fun h => h.kind = .again) := by decide +kernel
/-- The state after an instruction. -/
def after (o : Out) : State :=
  match o with
  | .next t => t
  | _ => State.reset
def isNext : Out → Bool
  | .next _ => true
  | _ => false
theorem next_of {o : Out} (h : isNext o = true) : o = .next (after o) := by
  cases o <;> first | rfl | cases h
theorem test_HandlerReturnsAndExits_retry : canTrap (T false) ∧
    trapScalar (T false) 0x081 = .next (after (trapScalar (T false) 0x081)) ∧
    exec .tretRetry (after (trapScalar (T false) 0x081)) = .next (after (exec .tretRetry (after (trapScalar (T false) 0x081)))) :=
  ⟨test_TrapEntry_scalar, next_of (by decide +kernel), next_of (by decide +kernel)⟩
theorem test_HandlerAccess : let s := regs H 3 256 7
    laneInRange s 1 ∧ regInRange s.cb false 255 ∧ regInRange s.cb true 254 ∧ (s.cb.s 3).toNat < 8 ∧
      s.cb.errV.contains (vkey 254 3) = false ∧ s.cb.errP.contains (vkey 7 3) = false := by
  unfold laneInRange regInRange; decide +kernel
theorem test_HandlerAccess_hkill : let s := H.issuing 0 false 0 0 ⟨⟨0, false, 0⟩, 1, 0⟩
    laneInRange s s.cur.x.src ∧ s.cb.dead.getLsbD (s.cb.s s.cur.x.src).toNat = false := by unfold laneInRange; decide +kernel
theorem test_HandlerAccess_hkill_dead : let s := (H.modBand 0 (fun b => { b with dead := 1 })).issuing 0 false 0 0 ⟨⟨0, false, 0⟩, 1, 0⟩
    laneInRange s s.cur.x.src ∧ s.cb.dead.getLsbD (s.cb.s s.cur.x.src).toNat = true := by unfold laneInRange; decide +kernel
theorem test_HandlerAccess_outside : W.cb.held = none := by decide +kernel
theorem test_HandlerAccess_lane : H.cb.held ≠ none ∧ (regs H 4 0 0).cb.lanes ≤ ((regs H 4 0 0).cb.s 1).toNat := by decide +kernel
theorem test_HandlerAccess_range : let s := regs W 3 256 9
    ¬ regInRange s.cb false (s.cb.s 2).toNat ∧ ¬ regInRange s.cb true 255 ∧ 8 ≤ (s.cb.s 3).toNat ∧
      (s.cb.s 1).toNat < s.cb.lanes := by unfold regInRange; decide +kernel
theorem test_HandlerAccess_hkill_range : let s := (regs H 4 0 0).issuing 0 false 0 0 ⟨⟨0, false, 0⟩, 1, 0⟩
    s.cb.lanes ≤ (s.cb.s s.cur.x.src).toNat := by decide +kernel
theorem test_HandlerReturnsAndExits_exit : let s := W.modBand 0 (fun b => { b with run := none, slot0 := none })
    s.cb.drained = true ∧ s.cb.rx = none ∧ ∀ r ∈ s.cb.batch, r.retired = true := by decide +kernel
theorem test_HandlerReturnsAndExits_exit_waits : W.cb.held = none ∧ W.cb.drained = false := by decide +kernel


/-! ### Lanes: arithmetic, memory, across the lanes, control -/

theorem test_LaneIntegers : ∃ r, integerRule (.laneAdd ⟨.i64, 4, .v 2, .s 1⟩) = some r ∧
    (Instr.laneAdd ⟨.i64, 4, .v 2, .s 1⟩).wf = true ∧ (∀ e ∈ r.srcs, steady L e.1 e.2) ∧ landable L r.ty r.d :=
  ⟨_, rfl, by decide +kernel, fun e h => by
    have : e = (.i64, .v 2) ∨ e = (.i64, .s 1) := by simpa [onInts] using h
    cases this <;> subst e
    · exact fun _ => ⟨rfl, fun _ => rfl⟩
    · trivial, fun _ _ _ => rfl⟩
theorem test_LaneFloats : ∃ r, floatRule (.ffma ⟨.f32, .rne, 3, .v 2, .v 4, .v 1⟩) = some r ∧
    (Instr.ffma ⟨.f32, .rne, 3, .v 2, .v 4, .v 1⟩).wf = true ∧ (∀ e ∈ r.srcs, steady L e.1 e.2) ∧ landable L r.ty r.d :=
  ⟨_, rfl, by decide +kernel, fun e h => by
    have : e = (.f32, .v 2) ∨ e = (.f32, .v 4) ∨ e = (.f32, .v 1) := by simpa using h
    rcases this with h | h | h <;> subst h <;> exact fun _ => ⟨rfl, fun _ => rfl⟩, fun _ _ _ => rfl⟩
theorem test_LaneMovesAndPredicates_move : (moveRule (.mov ⟨.f32, 3, .v 2⟩)).isSome ∧ (Instr.mov ⟨.f32, 3, .v 2⟩).wf = true ∧
    steady L .f32 (.v 2) := ⟨by decide +kernel, by decide +kernel, fun _ => ⟨rfl, fun _ => rfl⟩⟩
theorem test_LaneMovesAndPredicates_sel : (Instr.sel ⟨.f32, 3, .v 2, .v 1, 7, true⟩).wf = true ∧ steadyP L 7 :=
  ⟨by decide +kernel, fun _ => rfl⟩
theorem test_LaneMovesAndPredicates_set : CmpOp.ok Ty.isInt Cond.intOk ⟨.lt, .i64, 1, .v 2, .v 4⟩ = true ∧
    CmpI.ok Ty.isInt Cond.intOk ⟨.lt, .i8, 1, .v 2, 0xFF⟩ = true ∧ CmpOp.ok Ty.isFp (fun _ => true) ⟨.uno, .f64, 1, .v 2, .v 4⟩ = true ∧
    CmpI.ok Ty.isFp (fun _ => true) ⟨.ord, .f16, 1, .v 2, 0x7C00⟩ = true ∧ (Instr.ptest .n64 1 2).wf = true := by decide +kernel
theorem test_LaneMovesAndPredicates_steady : steady L .f64 (.v 2) ∧ steady L .f64 (.v 4) ∧ steadyP L 1 :=
  ⟨fun _ => ⟨rfl, fun _ => rfl⟩, fun _ => ⟨rfl, fun _ => rfl⟩, fun _ => rfl⟩

/-- Every lane's address is that of s1, where an access of n bytes passes its check. -/
theorem lanes_of {s : State} {m : MemAddr} {w st : Bool} {n : Nat} (k : Nat) (hm : m.ofs = none)
    (h : xlAccess s s.cb.agent w st (addressOf s.cb m 0) n = .ok k) (hp : s.poison = []) : lanesOk s m w st n := by
  intro l _
  have : addressOf s.cb m l = addressOf s.cb m 0 := by simp [addressOf, hm]
  rw [this]
  exact access_of k h hp
/-- The lanes' stream with s1 at the scratchpad. -/
def LS : State := regs L scr 0 0
theorem test_LaneAccesses_ld : LdOp.ok ⟨.i16, .wg, ⟨some 1, none, 2⟩, 3⟩ = true ∧ steadyAddr LS ⟨some 1, none, 2⟩ ∧
    lanesOk LS ⟨some 1, none, 2⟩ false false 2 :=
  ⟨by decide +kernel, (fun _ h => by cases h), lanes_of (s := LS) (m := ⟨some 1, none, 2⟩) 0x1000000000000002 rfl (by decide +kernel) rfl⟩
theorem test_LaneAccesses_ldy : LdyOp.ok ⟨.wg, ⟨some 1, none, 8⟩, 4⟩ = true ∧ steadyAddr LS ⟨some 1, none, 8⟩ ∧
    lanesOk LS ⟨some 1, none, 8⟩ false true 8 :=
  ⟨by decide +kernel, (fun _ h => by cases h), lanes_of 0x1000000000000008 rfl (by decide +kernel) rfl⟩
theorem test_LaneAccesses_st : StOp.ok Ty.isIntFp ⟨.f64, .wg, ⟨some 1, none, 1⟩, .v 4⟩ = true ∧
    steadyAddr LS ⟨some 1, none, 1⟩ ∧ steady LS .f64 (.v 4) ∧ lanesOk LS ⟨some 1, none, 1⟩ true false 8 :=
  ⟨by decide +kernel, (fun _ h => by cases h), fun _ => ⟨rfl, fun _ => rfl⟩, lanes_of 0x1000000000000001 rfl (by decide +kernel) rfl⟩
theorem mem_of_tget {α : Type} {t : Tbl α} {k : Nat} {v : α} (h : tget? t k = some v) : (k, v) ∈ t := by
  induction t with
  | nil => cases h
  | cons e t ih =>
    unfold tget? at h
    split at h
    · next hk => cases h; subst hk; exact List.mem_cons_self
    · exact List.mem_cons_of_mem _ (ih h)
theorem not_pooled {s : State} {n : Nat} (h : s.launches.all (fun e => !e.2.shadowed ||
    decide (((s.vif (e.2.ctx / 16)).poolBase.toNat + (s.vif (e.2.ctx / 16)).poolSlots * 65536) / 64 < n / 64)) = true)
    (k : Nat) (hk : n ≤ k) : ¬ pooled s k := by
  rintro ⟨l, x, hl, hs, _, hb⟩
  have := List.all_eq_true.mp h _ (mem_of_tget hl)
  simp only [hs, Bool.not_true, Bool.false_or, decide_eq_true_eq] at this
  omega
theorem test_LaneAtomics_atomic : atomicOf (.atomCas ⟨.n64, .tl, ⟨some 1, none, 8⟩, 4, 6⟩) = some (.cas, ⟨.n64, .tl, ⟨some 1, none, 8⟩, 4, 6⟩) ∧
    (Instr.atomCas ⟨.n64, .tl, ⟨some 1, none, 8⟩, 4, 6⟩).wf = true ∧ steadyAddr LS ⟨some 1, none, 8⟩ ∧
    steady LS .n64 (.v 6) ∧ steady LS .n64 (.v 4) ∧ lanesOk LS ⟨some 1, none, 8⟩ true true 8 ∧
    ∀ l, LS.act.getLsbD l = true →
      Claims.placed LS LS.cb.agent true (addressOf LS.cb ⟨some 1, none, 8⟩ l) 0 0x1000000000000008 ∧
        ∀ i, i < 8 → ¬ pooled LS (0x1000000000000008 + i) :=
  ⟨by decide +kernel, by decide +kernel, (fun _ h => by cases h), fun _ => ⟨rfl, fun _ => rfl⟩, fun _ => ⟨rfl, fun _ => rfl⟩,
    lanes_of 0x1000000000000008 rfl (by decide +kernel) rfl, fun l _ => by
      have : addressOf LS.cb ⟨some 1, none, 8⟩ l = addressOf LS.cb ⟨some 1, none, 8⟩ 0 := by simp [addressOf]
      rw [this]
      exact ⟨by unfold Claims.placed; decide +kernel, fun i _ => not_pooled (n := 0x1000000000000008) (by decide +kernel) _ (by omega)⟩⟩
theorem test_LaneAtomics_reduction : reductionOf (.redAdd ⟨.f32, .dv, ⟨some 1, none, 4⟩, .v 4⟩) = some (.add, ⟨.f32, .dv, ⟨some 1, none, 4⟩, .v 4⟩) ∧
    (Instr.redAdd ⟨.f32, .dv, ⟨some 1, none, 4⟩, .v 4⟩).wf = true ∧ steady LS .f32 (.v 4) ∧
    lanesOk LS ⟨some 1, none, 4⟩ true true 4 :=
  ⟨by decide +kernel, by decide +kernel, fun _ => ⟨rfl, fun _ => rfl⟩, lanes_of 0x1000000000000004 rfl (by decide +kernel) rfl⟩

theorem test_CrossLane : VoteUniOp.ok ⟨.n64, 1, 2⟩ = true ∧ ShflOp.ok ⟨.xor, true, 4, 2, .v 6, 1⟩ = true ∧
    PermOp.ok ⟨true, 4, 2, .v 1, 1⟩ = true ∧ LredOp.ok ⟨.add, .f32, .rup, .v 3, 2⟩ = true ∧
    LredOp.ok ⟨.min, .i32, .rne, .s 3, 2⟩ = true := by decide +kernel
theorem test_CrossLane_steady : steadyP L 1 ∧ steady L (elementTy true) (.v 2) ∧ steady L .n32 (.v 6) ∧ landable L (elementTy true) 4 :=
  ⟨fun _ => rfl, fun _ => ⟨rfl, fun _ => rfl⟩, fun _ => ⟨rfl, fun _ => rfl⟩, fun _ _ _ => rfl⟩

theorem test_RoundingAndExactArithmetic : (⟨8, 23⟩ : Fmt) ∈ formats ∧ (3 : Nat) ≠ 0 ∧ 0 < 2 ^ 64 - 1 ∧ 2 ^ 64 - 1 < 2 ^ 64 ∧
    (0 : Int) ≤ 0 ∧ (-1 : Int) < 0 := by decide
theorem test_ConversionsAndApproximations : CvtOp.ok ⟨.bpi, .f32, .rtz, 3, .v 2, some (.s 1)⟩ = true ∧
    (∀ l, L.act.getLsbD l = true → planesOk (patternOf (regs L 0x3F800443 0 0).cb .n32 (.s 1) l)) :=
  ⟨by decide +kernel, fun _ _ => show planesOk (patternOf (regs L 0x3F800443 0 0).cb .n32 (.s 1) 0) by
    unfold planesOk planesStored planesRead; decide +kernel⟩
theorem test_ConversionsAndApproximations_bad : let bad := [0, 1, 2, 3]
    (∀ l, l ∈ bad ↔ l ∈ activeLanes L ∧ ¬ planesOk (patternOf L.cb .n32 (.s 1) l)) ∧ bad ≠ [] ∧ bad.Pairwise (· < ·) := by
  refine ⟨fun l => ?_, by decide, by decide⟩
  have h : activeLanes L = [0, 1, 2, 3] := by decide +kernel
  have n : ¬ planesOk (patternOf L.cb .n32 (.s 1) l) := by
    have : patternOf L.cb .n32 (.s 1) 0 = 0 := by decide +kernel
    change ¬ planesOk (patternOf L.cb .n32 (.s 1) 0)
    rw [this]
    unfold planesOk
    decide
  rw [h]
  exact ⟨fun m => ⟨m, n⟩, fun m => m.1⟩
theorem test_ConversionsAndApproximations_rule : (approximated (.ftanh ⟨.f16, 3, .v 2⟩)).isSome ∧
    (Instr.ftanh ⟨.f16, 3, .v 2⟩).wf = true := by decide +kernel
theorem test_ConversionsAndApproximations_large : valueOf .f32 0x42B20000 = .fin false 0xB20000 (-17) ∧
    magLt 8872284 0 (100000 * 0xB20000) (-17) ∧ valueOf .f32 0x43000000 = .fin false 0x800000 (-16) ∧
    magLe 128 0 0x800000 (-16) ∧ valueOf .f32 0xBF800000 = .fin true 0x800000 (-23) ∧ valueOf .f32 0x7F800001 = .nan ∧
    valueOf .f32 1 ≠ .nan := by decide +kernel

/-- Lanes 0 and 1 are those of A: p1 guards the instruction. -/
def half : State := (L.modBand 0 (fun b => b.setP 1 3 3)).issuing 0 true 0 0 ⟨⟨1, false, 0⟩, 0, 0⟩
theorem test_LaneTransfers_whole : L.cf.mask ≠ 0 ∧ L.act = L.cf.mask ∧ L.laneOk L.cb (laneLabel L 1).toNat = true := by
  decide +kernel
theorem test_LaneTransfers_none : let s := L.issuing 0 true 0 0 ⟨⟨1, false, 0⟩, 0, 0⟩
    s.cf.mask ≠ 0 ∧ s.act = 0 := by decide +kernel
theorem test_LaneTransfers_divides : let s := half
    let sp : Split := ⟨s.cb.slot0, none, [], none, 0, false⟩
    s.cf.mask ≠ 0 ∧ s.act ≠ 0 ∧ s.cf.mask &&& ~~~s.act ≠ 0 ∧ s.laneOk s.cb (laneLabel s 1).toNat = true ∧
      readSplit s s.cb = .ok sp ∧ stackTakes s (piecesPut { sp with recs := splitEntry s.cf.mask :: sp.recs } s.cur.slot (goingOn s)
        [(s.cf.mask &&& ~~~s.act, s.cf.pc + 12), (s.act, laneLabel s 1)]) :=
  ⟨by decide +kernel, by decide +kernel, by decide +kernel, by decide +kernel, by decide +kernel,
    by decide +kernel, fun _ => ⟨0x20000, by decide +kernel⟩⟩
/-- The running block has captured a table of two entries. -/
def tabled (s : State) : State := s.modBand 0 (fun b => { b with
  copies := [(0, ⟨0x100, [(8, 0), (8, 12)]⟩)], run := b.run.map (fun r => { r with blk := { r.blk with table := some 0 } }) })
theorem test_LaneTransfers_table : let s := tabled half
    let sp : Split := ⟨s.cb.slot0, none, [], none, 0, false⟩
    let t : TgtTable := ⟨0x100, [(8, 0), (8, 12)]⟩
    let ps := somePieces [(s.cf.mask &&& ~~~s.act, s.cf.pc + 12)] ++ tableGroups s (.v 1) t.entries
    (Claims.tableOf s 0x100 = some t ∧ (∀ l ∈ activeLanes s, patternOf s.cb .n32 (.v 1) l < t.entries.length) ∧ ps.length ≠ 1 ∧
      s.act ≠ 0 ∧ readSplit s s.cb = .ok sp) ∧ steady s .n32 (.v 1) ∧
    stackTakes s (piecesPut { sp with recs := splitEntry s.cf.mask :: sp.recs } s.cur.slot (goingOn s) ps) ∧
    stackTakes s (piecesPut { sp with recs := callEntry s.cf.mask (s.cf.mask &&& ~~~s.act) (s.cf.pc + 12).toNat :: sp.recs }
      s.cur.slot (goingOn s) (tableGroups s (.v 1) t.entries)) :=
  ⟨by decide +kernel, fun _ => ⟨rfl, fun _ => rfl⟩, ⟨by decide +kernel, fun _ => ⟨0x20000, by decide +kernel⟩⟩,
    ⟨by decide +kernel, fun _ => ⟨0x20000, by decide +kernel⟩⟩⟩
theorem test_LaneTransfers_table_whole : let s := tabled L
    somePieces [(s.cf.mask &&& ~~~s.act, s.cf.pc + 12)] ++ tableGroups s (.v 1) [(8, 0), (8, 12)] = [(15, 0x12000)] := by
  decide +kernel
theorem test_LaneTransfers_out : L.act ≠ 0 ∧ L.laneOk L.cb (laneLabel L 0x155).toNat = false ∧ Claims.tableOf L 0x100 = none := by
  decide +kernel
theorem test_LaneTransfers_index : let s := tabled (regs L 2 0 0)
    Claims.tableOf s 0x100 = some ⟨0x100, [(8, 0), (8, 12)]⟩ ∧
      (activeLanes s).filter (fun l => decide (2 ≤ patternOf s.cb .n32 (.s 1) l)) ≠ [] := by decide +kernel
/-- A split stack of 84 entries and one spilled fragment. -/
def fullStack : State := { half.modBand 0 (fun b => { b with kinds := 1 :: List.replicate 84 2, privbase := scr }) with
  mem := (List.range 84).foldl (fun m i => memPut m (0x100000000000002F + 48 * i) 0x80)
    (memPut half.mem (0x100000000000000F + 253 * 16) 0x40) }
theorem stack_of {s : State} {b : Band} (k j : Nat) (h : b.kinds ≠ []) (hp : s.poison = [])
    (hw : xlAccess s b.agent true false b.privbase.toNat 16 = .ok k)
    (hr : xlAccess s b.agent false false b.privbase.toNat 16 = .ok j) :
    readSplit s b = .ok ⟨b.slot0, b.slot1, stackRecs s b b.kinds, none, b.firstNext, false⟩ := by
  have he : anyPoison s (accessKeys s b.agent false b.privbase.toNat (16 * stackSize b.kinds)) = false := by
    unfold anyPoison; rw [hp]; simp
  unfold readSplit
  split
  · contradiction
  · simp only [hw, hr, he, Bool.false_eq_true, if_false]
theorem fullStack_kinds : (stackRecs fullStack fullStack.cb fullStack.cb.kinds).map (·.kind) = fullStack.cb.kinds := by
  decide +kernel
theorem fullStack_size : ((stackRecs fullStack fullStack.cb fullStack.cb.kinds).map
    (fun r => if r.kind = 1 then 2 else 3)).sum = 254 := by
  have := congrArg (fun ks => (List.map (fun n => if n = 1 then 2 else 3) ks).sum) fullStack_kinds
  simp only [List.map_map] at this
  refine Eq.trans this ?_
  decide +kernel
theorem test_LaneTransfers_full : (fullStack.act ≠ 0 ∧ fullStack.laneOk fullStack.cb (laneLabel fullStack 0).toNat = true ∧
    fullStack.cf.mask &&& ~~~fullStack.act ≠ 0) ∧ readSplit fullStack fullStack.cb = .ok ⟨fullStack.cb.slot0,
      fullStack.cb.slot1, stackRecs fullStack fullStack.cb fullStack.cb.kinds, none, fullStack.cb.firstNext, false⟩ ∧
    256 < ((stackRecs fullStack fullStack.cb fullStack.cb.kinds).map (fun r => if r.kind = 1 then 2 else 3)).sum + 3 :=
  ⟨by decide +kernel, stack_of 0x1000000000000000 0x1000000000000000 (by decide +kernel) rfl (by decide +kernel)
    (by decide +kernel), by rw [fullStack_size]; decide⟩

/-- The issuing fragment of two lanes below an entry for all four. -/
def below (kind : Nat) : Split := ⟨some ⟨3, 0x12000, 0xFFFFFFFF, 0, 0⟩, none, [⟨kind, 12, 15, false, false, 0, 0, 0x12000, false, false⟩], none, 0, false⟩
def belowS (kind : Nat) : State := putSplit L 0 ⟨L.cb.slot0, none, [], none, 0, false⟩ (below kind)
/-- The same where the stack lies at 0x20000. -/
theorem split_of {s : State} {b : Band} {sp : Split} (h : b.kinds ≠ [] ∧ xlAccess s b.agent true false b.privbase.toNat 16 = .ok 0x20000 ∧
    xlAccess s b.agent false false b.privbase.toNat 16 = .ok 0x20000 ∧
    (⟨b.slot0, b.slot1, stackRecs s b b.kinds, none, b.firstNext, false⟩ : Split) = sp) (hp : s.poison = []) : readSplit s b = .ok sp := by
  obtain ⟨h1, h2, h3, rfl⟩ := h
  exact stack_of 0x20000 0x20000 h1 hp h2 h3
theorem test_LaneArrivals_call : readSplit (belowS 3) (belowS 3).cb = .ok (below 3) ∧
    entryFor (below 3) (belowS 3).cf.mask 0 ⟨3, 12, 15, false, false, 0, 0, 0x12000, false, false⟩ ∧ ((below 3).frag (belowS 3).cur.slot).isSome :=
  ⟨split_of (by decide +kernel) (by decide +kernel), ⟨by decide +kernel, by decide, by decide +kernel, fun _ _ h => by omega⟩, by decide +kernel⟩
theorem test_LaneArrivals_split : readSplit (belowS 2) (belowS 2).cb = .ok (below 2) ∧
    entryFor (below 2) (belowS 2).cf.mask 0 ⟨2, 12, 15, false, false, 0, 0, 0x12000, false, false⟩ ∧
    (belowS 2).laneOk (belowS 2).cb (laneLabel (belowS 2) 0).toNat = true :=
  ⟨split_of (by decide +kernel) (by decide +kernel), ⟨by decide +kernel, by decide, by decide +kernel, fun _ _ h => by omega⟩, by decide +kernel⟩
/-- The entry that the fragment completes is of another kind than its record names. -/
def wrongS : State := (belowS 3).modBand 0 (fun b => { b with kinds := [2] })
theorem test_LaneArrivals_torn : readSplit wrongS wrongS.cb = .ok { below 2 with recs := [⟨2, 12, 15, false, false, 0, 0, 0x12000, false, true⟩] } ∧
    entryFor { below 2 with recs := [⟨2, 12, 15, false, false, 0, 0, 0x12000, false, true⟩] } wrongS.cf.mask 0
      ⟨2, 12, 15, false, false, 0, 0, 0x12000, false, true⟩ ∧
    (arrivedAt wrongS { below 2 with recs := [⟨2, 12, 15, false, false, 0, 0, 0x12000, false, true⟩] } 0
      ⟨2, 12, 15, false, false, 0, 0, 0x12000, false, true⟩ ⟨2, 15, 15, true, true, 0, 0, 0x12000, false, true⟩).torn = true ∧
    (arrivedAt (belowS 2) (below 2) 0 ⟨2, 12, 15, false, false, 0, 0, 0x12000, false, false⟩
      ⟨2, 15, 15, true, true, 0, 0, 0x12000, false, false⟩).torn = false :=
  ⟨split_of (by decide +kernel) (by decide +kernel), ⟨by decide +kernel, by decide, by decide +kernel, fun _ _ h => by omega⟩,
    by decide +kernel, by decide +kernel⟩
theorem test_LaneArrivals_none : readSplit L L.cb = .ok ⟨L.cb.slot0, none, [], none, 0, false⟩ ∧
    ∀ i r, ¬ entryFor ⟨L.cb.slot0, none, [], none, 0, false⟩ L.cf.mask i r :=
  ⟨by decide +kernel, fun _ _ h => by simp [entryFor] at h⟩
theorem test_LanesAreConserved : orderly (below 2) ∧ (below 2).frag 0 = some ⟨3, 0x12000, 0xFFFFFFFF, 0, 0⟩ ∧
    ([((3 : Mask), (0x12000 : W64))] ≠ []) :=
  ⟨by unfold orderly; decide +kernel, by decide +kernel, by decide⟩
theorem test_LanesAreConserved_arrives : let s := belowS 2
    let old : Rec := ⟨2, 12, 15, false, false, 0, 0, 0x12000, false, false⟩
    s.cur.slot < 2 ∧ (below 2).frag s.cur.slot = some ⟨3, 0x12000, 0xFFFFFFFF, 0, 0⟩ ∧ s.cf.mask = 3 ∧ (3 : Mask) &&& old.arrived = 0 := by
  decide +kernel
theorem test_LanesAreConserved_lanes (l : Nat) :
    ([((1 : Mask), (0 : W64)), (2, 12)].filter (fun p => p.1.getLsbD l)).length = if (3 : Mask).getLsbD l then 1 else 0 := by
  by_cases h : l < 128
  · have : ∀ l, l < 128 → ([((1 : Mask), (0 : W64)), (2, 12)].filter (fun p => p.1.getLsbD l)).length =
        if (3 : Mask).getLsbD l then 1 else 0 := by decide +kernel
    exact this l h
  · rw [List.filter_cons, List.filter_cons]
    simp [BitVec.getLsbD_of_ge _ _ (Nat.le_of_not_lt h)]
theorem test_SplitIsStored : (tget? L.bands 0).isSome ∧ (below 2).bad = none := by decide +kernel


/-! ### The matrix engine, child launches, and the body of a region -/

/-- A shape record of one row and one column, and an operation word of zeros with its operands' records cached. -/
def rec1 : Nat := 2 ^ 128 + 2 ^ 144 + 2 ^ 96
def mx (acc : W64) (table : List MxEntry) : State := { holds (regs L 0 0x30000 0x30000) acc with
  quads := [(0, { Quad.init with records := [⟨0, 0x30000, rec1⟩], table := table })] }
theorem record_of {s : State} {addr r : Nat} {x : CachedRec}
    (h : (s.quad s.cq).records.find? (fun x => x.ctx == s.cb.ctx && x.addr == addr) = some x) (hr : x.data = r) :
    recordIs s addr r := by unfold recordIs; rw [h]; exact hr
theorem test_MatrixOperations_mma : let s := mx 1 []
    let w := s.cb.s 1
    (s.act ≠ 0 ∧ w.getLsbD 13 = false ∧ differing s .n64 20 = [] ∧
      patternOf s.cb .n64 (.v 20) ((activeLanes s).headD 0) = 0) ∧ steady s .n64 (.v 20) ∧
    recordIs s (s.cb.s 2).toNat rec1 ∧ formatGood (0 % 2 ^ 32) ∧ opWordGood w ∧ recordGood true rec1 ∧ recordGood false rec1 ∧
    holdsTiles s (namedTiles 0 w) ∧ (s.quad s.cq).table.length < 32 :=
  ⟨by decide +kernel, fun _ => ⟨rfl, fun _ => rfl⟩, record_of (x := ⟨0, 0x30000, rec1⟩) (by decide +kernel) rfl,
    Or.inl (by decide), by unfold opWordGood; decide +kernel, by unfold recordGood; decide +kernel,
    by unfold recordGood; decide +kernel, ⟨_, rfl, by decide +kernel⟩, by decide +kernel⟩
theorem test_MatrixOperations_mmah : let s := mx 0x10001 []
    let w := s.cb.s 1
    holdsTiles s (namedTiles 1 w) ∧ opField w 0 6 / 16 = s.cb.tile % 4 ∧
      (s.tile (s.cb.ptile / 4 * 4 + (opField w 0 6 / 16 ^^^ 1))).cordoned = false :=
  ⟨⟨_, rfl, by decide +kernel⟩, by decide +kernel, by decide +kernel⟩
theorem test_MatrixOperations_full : ∃ s : State, 32 ≤ (s.quad s.cq).table.length :=
  ⟨mx 1 (List.replicate 32 ⟨0, 0, 0, 0, 0, 0, 0, 0, 0, 0, 0, 0, .rne, 0, 0, [0], [0], 0, 0, 0, true, none, true, 0, .f32, 0, []⟩), by decide +kernel⟩
theorem test_MatrixOperations_empty : (L.issuing 0 true 0 0 ⟨⟨1, false, 0⟩, 0, 0⟩).act = 0 := by decide +kernel
/-- Lanes with different formats, and with one that is not valid. -/
theorem test_MatrixOperations_formats : differing (L.modBand 0 (fun b => b.setV 20 1 1)) .n64 20 ≠ [] ∧
    ¬ formatGood 4 ∧ ¬ opWordGood 0x40 ∧ ¬ recordGood true 0 ∧ ¬ holdsTiles L (namedTiles 0 0) :=
  ⟨by decide +kernel, by unfold formatGood planesOk; decide, by unfold opWordGood; decide, by unfold recordGood; decide,
    by rintro ⟨x, hx, h⟩
       have hx : (⟨0, 0, 0, 0, 0, 0, 4096, 1, 0, 0, none, [], false, false⟩ : Workgroup) = x := Option.some.inj hx
       subst hx
       exact absurd (h 0 (by decide)) (by decide)⟩
theorem test_MatrixOperations_out : let s := mx 1 []
    let w := s.cb.s 1
    outWordGood w ∧ recordGood false rec1 ∧ holdsTiles s [opField w 0 6] ∧ recordIs s (s.cb.s 3).toNat rec1 ∧
      differing s .n32 20 = [] ∧ ¬ outWordGood 0x40 :=
  ⟨by unfold outWordGood; decide +kernel, by unfold recordGood; decide +kernel, ⟨_, rfl, by decide +kernel⟩,
    record_of (x := ⟨0, 0x30000, rec1⟩) (by decide +kernel) rfl, by decide +kernel, by unfold outWordGood; decide⟩

theorem test_AccumulatorMoves_ld : let s := mx 1 []
    let w := s.cb.s 1
    (AccLdOp.ok ⟨.f16, .rup, 3, 1⟩ = true ∧ s.act ≠ 0 ∧ w.toNat < 2 ^ 14 ∧ (tget? s.bands s.cur.band).isSome ∧
      (s.quad s.cq).table = [] ∧ s.isWaking (s.cq * 4 + opField w 0 6 / 16) (.acc (opField w 0 6 % 16)) = false ∧
      s.cb.inBody = false) ∧ holdsTiles s [opField w 0 6] ∧ ∀ l, s.act.getLsbD l = true →
        (s.quad s.cq).bad.contains (accKey (opField w 0 6) (selectedElement w l).1 (selectedElement w l).2) = false :=
  ⟨by decide +kernel, ⟨_, rfl, by decide +kernel⟩, fun _ _ => rfl⟩
theorem test_AccumulatorMoves_landable : landable (mx 1 []) .f32 3 := fun _ _ _ => rfl
theorem test_AccumulatorMoves_st : steady (mx 1 []) .f32 (.v 2) := fun _ => ⟨rfl, fun _ => rfl⟩
theorem test_AccumulatorMoves_word : L.act ≠ 0 ∧ ((regs L 0x4000 0 0).cb.s 1).toNat / 2 ^ 14 ≠ 0 := by decide +kernel
theorem test_AccumulatorMoves_fvote : let s := L.modBand 0 (fun b => b.setV 2 3 4)
    steady s .n32 (.v 2) ∧ s.act ≠ 0 ∧ (s.act.getLsbD 3 = true ∧ patternOf s.cb .n32 (.v 2) 3 ≠
      patternOf s.cb .n32 (.v 2) ((activeLanes s).headD 0)) := ⟨fun _ => ⟨rfl, fun _ => rfl⟩, by decide +kernel, by decide +kernel⟩
theorem test_AccumulatorMoves_fvote_same : (∀ l, L.act.getLsbD l = true → patternOf L.cb .n32 (.s 1) l =
    patternOf L.cb .n32 (.s 1) ((activeLanes L).headD 0)) ∧ formatGood 0 ∧ ¬ formatGood 4 :=
  ⟨fun _ _ => by simp only [patternOf], Or.inl (by decide), by unfold formatGood planesOk; decide⟩

/-- The one lane of A names a descriptor of the running image at 0x30000. -/
def dl : State := (bytesAt ((regs L 0x30000 0 0).modBand 0 (fun b => b.setP 1 1 1)) 0x30000 (leBytes 64 oneDesc)).issuing 0 true 0 0
  ⟨⟨1, false, 0⟩, 0, 0⟩
theorem engPlaces : ∃ k, engCheck dl dl.cb.agent false 0x30000 64 = .ok k := ⟨0x30000, by decide +kernel⟩
/-- The state that creating the children leaves. -/
def dlAgent : Agent := { dl.cb.agent with lane := false }
def dlAfter : State := (childrenMade dlAgent 0 (fun _ => 0x30000) (activeLanes dl) dl).getD dl
theorem test_ChildLaunchesAndSignatures_dlaunch : steady dl .n64 (.s 1) ∧ dl.cb.dl = none ∧
    (tget? dl.launches dl.cb.launch).isSome ∧
    (∀ l, dl.act.getLsbD l = true → let va := patternOf dl.cb .n64 (.s 1) l
      va % 64 = 0 ∧ (∃ k, engCheck dl dl.cb.agent false va 64 = .ok k) ∧
        anyPoison dl (accessKeys dl dl.cb.agent false va 64) = false) ∧
    childrenMade dlAgent 0 (patternOf dl.cb .n64 (.s 1)) (activeLanes dl) dl = some dlAfter := by
  have va (l : Nat) : patternOf dl.cb .n64 (.s 1) l = 0x30000 := by
    change patternOf dl.cb .n64 (.s 1) 0 = 0x30000
    decide +kernel
  refine ⟨trivial, by decide +kernel, by decide +kernel, fun l _ => ?_, ?_⟩
  · rw [va]
    exact ⟨by decide, engPlaces, by unfold anyPoison; rw [show dl.poison = [] from rfl]; simp⟩
  · rw [show patternOf dl.cb .n64 (.s 1) = fun _ => 0x30000 from funext va]
    decide +kernel
theorem test_ChildLaunchesAndSignatures_stalled : let s := L.modBand 0 (fun b => { b with
      slot1 := some ⟨2, 0x12000, 0xFFFFFFFF, 0, 0⟩, dl := some ⟨1, 0x12000, 2, [(1, 0x30000)], []⟩ })
    s.cb.stalledElse s.cur.slot = true := by decide +kernel
theorem test_ChildLaunchesAndSignatures_bad : let s := regs L 1 0 0
    s.cb.dl = none ∧ s.act ≠ 0 ∧ ∀ l, s.act.getLsbD l = true → patternOf s.cb .n64 (.s 1) l % 64 ≠ 0 :=
  ⟨by decide +kernel, by decide +kernel, fun _ _ => show patternOf (regs L 1 0 0).cb .n64 (.s 1) 0 % 64 ≠ 0 by decide +kernel⟩
theorem test_ChildLaunchesAndSignatures_chk : (0 : W32) = ~~~L.cf.lsig ∧ (1 : W32) ≠ ~~~L.cf.lsig := by decide +kernel

/-- The body of a region whose first guesses stand. -/
def bodyS : State := inRegion.issuing 0 true 0 0 Extra.none
theorem test_RegionBodies_in : ∃ k r, Claims.inRegion bodyS k r ∧ (1 : BitVec 3).toNat < r.cfg.toNat % 16 ∧ r.cfg.toNat % 16 ≤ 8 ∧
    r.cfg.toNat % 16 ≤ (2 : BitVec 3).toNat ∧ steady bodyS .f32 (.v 2) :=
  ⟨_, _, ⟨by decide +kernel, rfl, rfl⟩, by decide +kernel, by decide +kernel, by decide +kernel, fun _ => ⟨rfl, fun _ => rfl⟩⟩
theorem test_RegionBodies_out : L.cb.inBody = false ∧ L.cb.closed = false := by decide +kernel
theorem test_RegionBodies_get : let s := L.modBand 0 (fun b => { b with closed := true, rxD := 2, rxN := 1 })
    s.cb.closed = true ∧ (1 : BitVec 3).toNat < s.cb.rxD ∧ s.cb.rxD ≤ (2 : BitVec 3).toNat := by decide +kernel


/-! ### Steps of the device: bands and engines -/

/-- A step of the device about a and b. -/
def ev (s : State) (a b : Nat) : State := { s with cur := { Cur.none with a := a, b := b } }
/-- Band 0, its step, with b. -/
def bandEv (b : Nat) (f : Band → Band) : State := ev (W.modBand 0 f) 0 b

theorem test_BandSteps_hold : let s := bandEv 0 (fun b => { b with hold := 1, waitS := 64 })
    s.awake s.cur.a = true ∧ (s.band s.cur.a).hold = 1 ∧ s.cur.b = 0 ∧ 64 ≤ (s.band s.cur.a).waitS := by decide +kernel
theorem test_BandSteps_class : let s := bandEv 1 (fun b => { b with waitL := 64 })
    s.awake s.cur.a = true ∧ s.cur.b ≠ 0 ∧ 64 ≤ (s.band s.cur.a).waitL := by decide +kernel
theorem test_BandSteps_result : let s := bandEv 0 (fun b => { b with pend := [⟨false, [(63, 5)], [(7, true)], [(vkey 3 2, 1)], [], false⟩] })
    s.awake s.cur.a = true ∧ (s.band s.cur.a).pend[s.cur.b]?.any (fun p =>
      p.sw.all (fun e => decide (e.1 < 64)) && p.qw.all (fun e => decide (e.1 < 8))) := by decide +kernel
theorem test_BandSteps_overrun : let s := bandEv 0 (fun b => { b with overrun := true })
    (s.awake s.cur.a = true ∧ (s.band s.cur.a).overrun = true) ∧ ∀ (i : Nat) (r : Served), (s.band s.cur.a).lastGiven = some i →
      (s.band s.cur.a).batch[i]? = some r → r.retired = true :=
  ⟨by decide +kernel, fun _ _ h => by cases h⟩
theorem test_BandSteps_overrun_batch : let s := ev ((batch1 true false).modBand 0 (fun b => { b with overrun := true, lastGiven := some 0 })) 0 0
    s.awake s.cur.a = true ∧ (s.band s.cur.a).overrun = true ∧ (s.band s.cur.a).lastGiven = some 0 ∧
      (s.band s.cur.a).batch[0]?.any (fun r => !r.retired) := by decide +kernel
theorem test_BandSteps_join : let r : Rec := ⟨2, 3, 15, true, true, 1, 1, 0x12000, false, false⟩
    let sp : Split := ⟨none, none, [r], none, 0, false⟩
    let s := ev (putSplit L 0 ⟨L.cb.slot0, none, [], none, 0, false⟩ sp) 0 0
    readSplit s (s.band s.cur.a) = .ok sp ∧ s.awakeOut s.cur.a = true ∧ sp.recs[s.cur.b]? = some r ∧ r.kind = 2 ∧ r.run = true ∧
      r.lim ≠ 0 ∧ r.lim.toNat ≤ r.timer ∧ r.arrived &&& ~~~r.expected = 0 ∧ (s.band s.cur.a).deferred = [] ∧ noWaking s :=
  ⟨split_of (by decide +kernel) (by decide +kernel), by unfold noWaking; decide +kernel⟩
/-- A band with a block that waits. -/
def blockS (blk : Block) (f : Band → Band) : State := bandEv 0 (fun b => f { b with queue := [blk], run := none, slot0 := none })
theorem test_BandSteps_block : let s := blockS ⟨0x12000, 0, false, none, false, false⟩ id
    s.awakeOut s.cur.a = true ∧ (s.band s.cur.a).queue = ⟨0x12000, 0, false, none, false, false⟩ :: [] ∧
      (s.band s.cur.a).run = none ∧ (s.band s.cur.a).badEnd = false ∧ (s.band s.cur.a).wait.parks = false ∧ (s.band s.cur.a).live ≠ 0 := by decide +kernel
theorem test_BandSteps_block_none : let s := blockS ⟨0x12000, 0, false, none, false, false⟩ (fun b => { b with exited := 15 })
    s.awakeOut s.cur.a = true ∧ (s.band s.cur.a).live = 0 := by decide +kernel
theorem test_BandSteps_body : let s := blockS ⟨0x12000, 0, false, none, true, false⟩ (fun b => { b with
      rx := some ⟨0, 0, 3, 2, 16, false, true, 0, 0⟩ })
    s.awakeOut s.cur.a = true ∧ (s.band s.cur.a).queue = ⟨0x12000, 0, false, none, true, false⟩ :: [] ∧
      (s.band s.cur.a).rx = some ⟨0, 0, 3, 2, 16, false, true, 0, 0⟩ := by decide +kernel
theorem test_BandSteps_deferred : let s := bandEv 1 (fun b => { b with deferred := [⟨0x0C8, some 2⟩], tvec := 0x11000 })
    s.awakeOut s.cur.a = true ∧ (s.band s.cur.a).deferred = ⟨0x0C8, some 2⟩ :: [] ∧ s.accBusy s.cur.a = false ∧
      mayTrap s s.cur.a ∧ 0 < s.cur.b ∧ ((s.band s.cur.a).frag (s.cur.b - 1)).isSome :=
  ⟨by decide +kernel, by decide +kernel, by decide +kernel,
    ⟨by decide +kernel, by decide +kernel, by decide +kernel, by decide +kernel, 0x11000, by decide +kernel⟩, by decide +kernel, by decide +kernel⟩
/-- A parked band whose count stands at c. -/
def dog (c : Nat) (ext : Bool) : State := ev (((W.modBand 0 (fun b =>
    if ext then { b with backoff := 16, backExt := true } else { b with wait := .bwait 1 0 0 .wg 0 false })).modTile 0
  (fun t => if ext then { t with wdExt := [(0, c)] } else { t with wd := [(0, c)] })).modCtx 0
    (fun x => { x with extlim := 5 })) 0 0
theorem firstParked_dog (c : Nat) (ext : Bool) : firstParked (dog c ext) (dog c ext).cur.a (dog c ext).cur.b 0 := by
  refine ⟨(dog 0 ext).band 0, ⟨?_, by cases ext <;> rfl, by cases ext <;> rfl, by cases ext <;> rfl, by cases ext <;> rfl⟩,
    fun j x hj h => ?_⟩
  · exact List.mem_singleton.mpr rfl
  · have h1 := h.1
    have : (dog c ext).bands = [(0, (dog 0 ext).band 0)] := rfl
    rw [this] at h1
    have := List.mem_singleton.mp h1
    cases this
    exact absurd rfl hj
theorem test_BandSteps_watchdog : let s := dog 0x40000000 false
    let t := dog 0x3FFFFFFF false
    (s.up = true ∧ (∀ e ∈ s.bands, e.2.parked = true) ∧ (∀ e ∈ s.bands, e.1 = 0 → s.band 0 = e.2) ∧
      ¬ (∀ e ∈ s.bands, e.2.external = true) ∧ (s.ctx s.cur.b).wdlim ≠ 0 ∧
      (s.ctx s.cur.b).wdlim.toNat ≤ tget 0 (s.tile s.cur.a).wd s.cur.b) ∧
    tget 0 (t.tile t.cur.a).wd t.cur.b < (t.ctx t.cur.b).wdlim.toNat := by decide +kernel
theorem test_BandSteps_watchdog_past : let s := dog 0x40000001 false
    (s.ctx s.cur.b).wdlim ≠ 0 ∧ (s.ctx s.cur.b).wdlim.toNat < tget 0 (s.tile s.cur.a).wd s.cur.b := by decide +kernel
theorem test_BandSteps_watchdog_ext : let s := dog 5 true
    let t := dog 4 true
    ((∀ e ∈ s.bands, e.2.parked = true) ∧ (∀ e ∈ s.bands, e.2.external = true) ∧ (∀ e ∈ s.bands, e.1 = 0 → s.band 0 = e.2) ∧
      (s.ctx s.cur.b).extlim ≠ 0 ∧ (s.ctx s.cur.b).extlim.toNat ≤ tget 0 (s.tile s.cur.a).wdExt s.cur.b) ∧
    tget 0 (t.tile t.cur.a).wdExt t.cur.b < (t.ctx t.cur.b).extlim.toNat := by decide +kernel
theorem test_BandSteps_watchdog_runs : let s := ev W 0 0
    s.up = true ∧ ∀ e ∈ s.bands, e.2.ptile = s.cur.a ∧ e.2.resident = true ∧ e.2.ctx = s.cur.b ∧ e.2.parked = false := by
  decide +kernel

/-- A band that waits, and its step. -/
def waitEv (w : Wait) : State := bandEv 0 (fun b => { b with wait := w })
theorem test_WaitsEnd_yieldc : let s := waitEv (.yieldc true 0x11004 (some 0x33))
    s.awake s.cur.a = true ∧ (s.band s.cur.a).wait = .yieldc true 0x11004 (some 0x33) := by decide +kernel
theorem test_WaitsEnd_yieldc_handler : let s := bandEv 0 (fun b => { b with
      held := some ⟨0x11000, false, 0, 0, 0, 4, .plain, .yieldc true 0x11004 (some 0)⟩ })
    s.awake s.cur.a = true ∧ (s.band s.cur.a).wait = .none ∧ (s.band s.cur.a).held.any (fun h =>
      h.wait = .yieldc true 0x11004 (some 0)) := by decide +kernel
theorem test_WaitsEnd_bwait : let s := waitEv (.bdone 1 0x304 .dv)
    let t := waitEv (.bwait 1 0x1000000000000000 3 .wg 0 true)
    s.awake s.cur.a = true ∧ (s.band s.cur.a).wait = .bdone 1 0x304 .dv ∧ t.awake t.cur.a = true ∧
      (t.band t.cur.a).wait = .bwait 1 0x1000000000000000 3 .wg 0 true := by decide +kernel
theorem test_WaitsEnd_cwait : let s := waitEv (.cwait 1 0x30000 0 .wg 0 true)
    let b := s.band s.cur.a
    accessOk s b.agent false true (0x30000 : W64).toNat 8 ∧ Claims.placed s b.agent false (0x30000 : W64).toNat 0 0x30000 ∧
      s.awake s.cur.a = true ∧ b.wait = .cwait 1 0x30000 0 .wg 0 true ∧ 0 ≤ memNat s.view 0x30000 8 % 2 ^ 48 :=
  ⟨access_of 0x30000 (by decide +kernel) rfl, by unfold Claims.placed; decide +kernel, by decide +kernel, by decide +kernel,
    Nat.zero_le _⟩
/-- No lane result under way goes to s1. -/
theorem test_WaitsEnd_owes : owesNone ((waitEv .none).band 0) 1 ∧ noWaking (waitEv .none) := by
  unfold owesNone noWaking
  decide +kernel
theorem test_WaitsEnd_cwait_not : let s := waitEv (.cwait 1 0x30000 1 .wg 0 true)
    memNat s.view 0x30000 8 % 2 ^ 48 < 1 ∧ memNat s.view 0x30000 8 / 2 ^ 48 = 0 := by decide +kernel
theorem test_WaitsEnd_mwait : let s := waitEv (.mwait .wg 0)
    s.awake s.cur.a = true ∧ (s.band s.cur.a).wait = .mwait .wg 0 ∧ 0 ≤ (s.band s.cur.a).mxRetired.toNat ∧
      (s.band s.cur.a).mxRetired.toNat < 1 := by decide +kernel
theorem test_WaitsEnd_accFree : let s := waitEv (.accFree 5)
    s.awake s.cur.a = true ∧ (s.band s.cur.a).wait = .accFree 5 ∧
      ¬ ∃ e ∈ (s.quad ((s.band s.cur.a).ptile / 4)).table, ∃ n ∈ e.tiles, (5 : W64).getLsbD n = true := by decide +kernel
theorem test_WaitsEnd_bfqTake : let s := (waitEv (.bfqTake 1 0x30000)).modDctx 0 (fun d => { d with formed := [formed1] })
    let b := s.band s.cur.a
    (s.awake s.cur.a = true ∧ b.wait = .bfqTake 1 0x30000 ∧ (s.dctx (b.tile / 96 * 1024 + b.ctx)).formed = formed1 :: [] ∧
      (s.dctx (b.tile / 96 * 1024 + b.ctx)).waiting = [] ∧ (∀ r ∈ b.batch, r.retired = true)) ∧
    ∀ i, i < 1 + formed1.reqs.length → accessOk s b.agent true false ((0x30000 : W64).toNat + 8 * i) 8 :=
  ⟨by decide +kernel, fun i h => match i, h with
    | 0, _ => access_of 0x30000 (by decide +kernel) rfl
    | 1, _ => access_of 0x30008 (by decide +kernel) rfl⟩
theorem test_WaitsEnd_accAlloc : let s := waitEv (.acc 1 0x10000001 0)
    s.up = true ∧ accWaiting s s.cur.a = [(0, 1, 0x10000001, 0)] ∧ s.awake 0 = true ∧
      (∀ i, i < 4 → countFor 0x10000001 i ≤ (freeIn s s.cur.a i).length) ∧ (∀ i, i < 4 → countFor 0x10000001 i ≤ 16) := by
  decide +kernel
theorem test_WaitsEnd_accAlloc_waits : let s := holds (waitEv (.acc 1 16 0)) 0x8000
    accWaiting s s.cur.a = [(0, 1, 16, 0)] ∧ (0 < 4 ∧ (freeIn s s.cur.a 0).length < countFor 16 0) := by decide +kernel
/-- Two bands of two workgroups, each holding what the other needs. -/
def deadlock : State := { waitEv (.acc 1 16 0) with
  wgs := [(0, ⟨0, 0, 0, 0, 0, 0, 4096, 1, 0, 1, none, [], false, false⟩),
    (1, ⟨0, 1, 0, 0, 0, 4096, 4096, 1, 0, 2, none, [], false, false⟩)]
  bands := [(0, (waitEv (.acc 1 16 0)).band 0),
    (16, { (waitEv (.acc 2 16 1)).band 0 with wg := 1, slot := 1, wgidx := 1, tvec := 0x11000 })] }
theorem deadlock_order : accWaiting deadlock deadlock.cur.a = [(0, 1, 16, 0), (16, 2, 16, 1)] := by
  have : ∀ l, l = [(0, (1 : SReg), (16 : W64), 0), (16, 2, 16, 1)] →
      l.mergeSort (fun x y => decide (x.2.2.2 ≤ y.2.2.2)) = [(0, 1, 16, 0), (16, 2, 16, 1)] := by
    rintro _ rfl
    simp [List.mergeSort, List.MergeSort.Internal.splitInTwo]
  exact this _ (by decide +kernel)
theorem test_WaitsEnd_accDeadlock : let s := deadlock
    (s.up = true ∧ mayTrap s 16) ∧
    heldUpBy s s.cur.a 16 (s.band 16).wg ∧ heldUpBy s s.cur.a 16 (s.band 0).wg :=
  ⟨⟨by decide +kernel, by decide +kernel, by decide +kernel, by decide +kernel, by decide +kernel, 0x11000, by decide +kernel⟩,
    ⟨0, 1, by decide +kernel⟩, ⟨0, 0, by decide +kernel⟩⟩

/-- A copy of n bytes from the scratchpad to 64 bytes further on. -/
def copyS (kind n fmt : Nat) (status : Option Nat) (yield : Bool) : State := ev (W.modTile 0 (fun t => { t with
  copies := [⟨kind, scr + 2048, scr, n, fmt, 0, 0, 0, 0, 0, 0, 0, yield, status⟩] })) 0 0
theorem apart_of {s : State} {c : CopyCmd} {n m a d : Nat}
    (hf : ∀ i, i < n → Claims.placed s ⟨c.ctx, some c.launch, some c.ptile, false⟩ false c.src.toNat i (a + i))
    (hg : ∀ i, i < m → Claims.placed s ⟨c.ctx, some c.launch, some c.ptile, false⟩ true c.dst.toNat i (d + i))
    (hp : ∀ k, a ≤ k → ¬ pooled s k) (h : a + n ≤ d) (he : s.poison = []) (hw : copyWakes s c = false) :
    copyApart s c n m (a + ·) (d + ·) :=
  ⟨fun i hi => ⟨hf i hi, hp _ (Nat.le_add_right a i), by rw [he]; rfl⟩,
    fun i hi => ⟨hg i hi, hp _ (Nat.le_trans (by omega) (Nat.le_add_right d i))⟩,
    hw, fun i j _ _ h => Nat.add_left_cancel h, fun i j hi _ h => by have : a + i = d + j := h; omega⟩
theorem scr_at {s : State} {ag : Agent} {w : Bool} {va n k : Nat}
    (h : (List.range n).all (fun i => xlByte s ag w ((va + i) % 2 ^ 64) == .ok (k + i)) = true) :
    ∀ i, i < n → Claims.placed s ag w va i (k + i) := by
  intro i hi
  exact (eq_of_beq (List.all_eq_true.mp h i (List.mem_range.mpr hi)) : xlByte s ag w ((va + i) % 2 ^ 64) = .ok (k + i))
theorem test_CopySteps_copy : let s := copyS 0 5 0 none false
    let c : CopyCmd := ⟨0, scr + 2048, scr, 5, 0, 0, 0, 0, 0, 0, 0, 0, false, none⟩
    (s.up = true ∧ ((s.tile s.cur.a).copies.filter (fun c => c.status.isSome)).length < 4 ∧ (s.tile s.cur.a).copies[0]? = some c ∧
      c.src.toNat + c.n ≤ 2 ^ 64 ∧ c.dst.toNat + c.n ≤ 2 ^ 64) ∧
    copyApart s c c.n c.n (0x1000000000000000 + ·) (0x1000000000000800 + ·) :=
  ⟨by decide +kernel, apart_of (scr_at (by decide +kernel)) (scr_at (by decide +kernel))
    (fun k h => not_pooled (by decide +kernel) k h) (by decide) rfl (by decide +kernel)⟩
theorem test_CopySteps_planes : let s := copyS 1 1 0x3F800111 none false
    let c : CopyCmd := ⟨1, scr + 2048, scr, 1, 0x3F800113, 0, 0, 0, 0, 0, 0, 0, false, none⟩
    planesOk c.fmt ∧ c.n ≠ 0 ∧
      copyApart s c (4 * c.n) (planesStored c.fmt * planeLen c.n) (0x1000000000000000 + ·) (0x1000000000000800 + ·) ∧
      copyApart s c (planesRead c.fmt * planeLen c.n) (4 * c.n) (0x1000000000000000 + ·) (0x1000000000000800 + ·) :=
  ⟨by unfold planesOk planesStored planesRead; decide, by decide, apart_of (scr_at (by decide +kernel)) (scr_at (by decide +kernel))
    (fun k h => not_pooled (by decide +kernel) k h) (by decide) rfl (by decide +kernel), apart_of (scr_at (by decide +kernel))
    (scr_at (by decide +kernel)) (fun k h => not_pooled (by decide +kernel) k h) (by decide) rfl (by decide +kernel)⟩
theorem test_CopySteps_complete : let s := copyS 0 5 0 (some 0) false
    (s.tile s.cur.a).copies[s.cur.b]?.any (fun c => c.status = some 0 ∧ c.yield = false) := by decide +kernel
theorem test_CopySteps_awake : noWaking (copyS 0 5 0 (some 0) false) := by unfold noWaking; decide +kernel
theorem test_CopySteps_complete_yield : let s := (copyS 0 5 0 (some 0) true).modBand 0 (fun b => { b with wait := .yieldc true 0x11004 none })
    (s.tile s.cur.a).copies[s.cur.b]?.any (fun c => c.yield = true ∧ (s.band c.band).wait = .yieldc true 0x11004 none) := by
  decide +kernel

/-- A running product of one element. -/
def mxE (running : Bool) (waited : Nat) : MxEntry :=
  ⟨7, 0, 0, 0, 0, 0, 0, 0, 0, 0x2000, 0, 0, .rne, rec1, rec1, [0], [0], 0, waited, 0, running, none, true, 0, .f32, 0, []⟩
def passS (running : Bool) (waited : Nat) : State := ev { holds W 1 with
  quads := [(0, { Quad.init with table := [mxE running waited] })] } 0 0
theorem test_EngineSteps_pass : (passS true 0).up = true ∧ passRuns (passS true 0) 0 0 (mxE true 0) :=
  ⟨by decide +kernel, by decide +kernel, by decide +kernel, by decide +kernel, by decide +kernel, by decide +kernel, by decide +kernel⟩
/-- The write of one f32 element at the scratchpad. -/
def outE : MxEntry := { mxE true 0 with kind := 5, ra := rec1 + scr.toNat }
def outS : State := { passS true 0 with quads := [(0, { Quad.init with table := [outE] })] }
theorem test_EngineSteps_out : (outS.up = true ∧ (outS.quad outS.cur.a).table[outS.cur.b]? = some outE ∧ outE.running = true ∧
      outE.kind = 5 ∧ (outS.quad outS.cur.a).bad = [] ∧ noWaking outS) ∧
    outPlaces outS outE (Format.ofNat outE.fa.toNat) (fun a => a - scr.toNat + 0x1000000000000000) := by
  have hits (a : Nat) : (∃ i j n, outInside outE i j ∧ n < outBytes (Format.ofNat outE.fa.toNat) ∧
      a = outAddr outE (Format.ofNat outE.fa.toNat) i j n) → ∃ n, n < 4 ∧ a = scr.toNat + n := by
    rintro ⟨i, j, n, h, hn, rfl⟩
    obtain ⟨h1, h2, -, -⟩ := h
    have e1 : opField outE.op 14 7 = 0 := by decide +kernel
    have e2 : opField outE.op 21 7 = 0 := by decide +kernel
    obtain rfl : i = 0 := by omega
    obtain rfl : j = 0 := by omega
    have e3 : outBytes (Format.ofNat outE.fa.toNat) = 4 := by decide +kernel
    have hn : n < 4 := by rw [e3] at hn; exact hn
    refine ⟨n, hn, ?_⟩
    have e4 : ∀ n, n < 4 → outAddr outE (Format.ofNat outE.fa.toNat) 0 0 n = scr.toNat + n := by decide +kernel
    exact e4 n hn
  refine ⟨⟨by decide +kernel, by decide +kernel, rfl, rfl, by decide +kernel, by unfold noWaking; decide +kernel⟩,
    by decide +kernel, by decide +kernel, by decide +kernel, fun a b ha hb h => ?_, fun a ha => ?_⟩
  · obtain ⟨m, -, rfl⟩ := hits a ha
    obtain ⟨n, -, rfl⟩ := hits b hb
    simp only at h
    omega
  · obtain ⟨n, hn, rfl⟩ := hits a ha
    have hx : ∀ n, n < 4 → xlByte outS outE.agent true (scr.toNat + n) = .ok (scr.toNat + n - scr.toNat + 0x1000000000000000) := by
      decide +kernel
    refine ⟨hx n hn, not_pooled (n := 0x1000000000000000) (by decide +kernel) _ (Nat.le_add_left _ _), fun h => ?_⟩
    have : spaceStep ≤ scr.toNat := by decide +kernel
    omega
theorem test_EngineSteps_aging : let s := passS false 4096
    s.up = true ∧ (s.quad s.cur.a).table[s.cur.b]? = some (mxE false 4096) ∧ (mxE false 4096).running = false ∧
      4096 ≤ (mxE false 4096).waited := by decide +kernel
theorem test_EngineSteps_arrival : let s := ev { W with arrivals := [⟨scr + 1, 0, 0, 0, 0, 0, 0, [], false⟩] } 0 0
    let t := ev { W with arrivals := [⟨scr + 1, 0, 0, 0, 0, 0, 0, [3], false⟩] } 0 0
    s.up = true ∧ s.arrivals[s.cur.a]?.any (fun a => a.need = []) ∧ t.arrivals[t.cur.a]?.any (fun a => a.need ≠ []) := by
  decide +kernel
/-- A decoder with a command, its descriptor at the scratchpad. -/
def decS (run : Option VRun) (mem : List Host.Cell) : State := ev { W with mem := mem, decoders := [(0, ⟨[⟨scr, 0, 0, 0, 0, 0⟩], run⟩)] } 0 0
/-- A descriptor of one frame of 2 × 2 luma samples. -/
def vdesc : Nat := 0x20000 + 2 ^ 64 + 0xFF00000000000400 * 2 ^ 128 + 2 * 2 ^ 224 + 2 * 2 ^ 240 + 64 * 2 ^ 256
theorem test_EngineSteps_decode_bad : let s := decS none W.mem
    let ag : Agent := ⟨0, some 0, some 0, false⟩
    s.up = true ∧ (s.dec s.cur.a).queue = ⟨scr, 0, 0, 0, 0, 0⟩ :: [] ∧ (s.dec s.cur.a).run = none ∧
      engCheck s ag false scr.toNat 128 = .ok 0x1000000000000000 ∧ anyPoison s (accessKeys s ag false scr.toNat 128) = false ∧
      vdecOk (leNat 128 (engBytes s ag scr.toNat 128)) = false := by decide +kernel
theorem test_EngineSteps_decode_waits : let s := (decS none W.mem).modTile 0 (fun t => { t with waking := [⟨.bank 0, 5⟩] })
    rangeWakes s ⟨0, some 0, some 0, false⟩ scr.toNat 128 = true ∧ s.up = true := by decide +kernel
theorem test_EngineSteps_decode : let s := decS none (memPuts W.mem 0x1000000000000000 (leBytes 128 vdesc))
    let ag : Agent := ⟨0, some 0, some 0, false⟩
    rangeWakes s ag scr.toNat 128 = false ∧ engCheck s ag false scr.toNat 128 = .ok 0x1000000000000000 ∧
      vdecOk (leNat 128 (engBytes s ag scr.toNat 128)) = true := by decide +kernel
theorem test_EngineSteps_wakes : noWaking (decS none W.mem) ∧ noWaking (ev { W with arrivals := [⟨scr + 1, 0, 0, 0, 0, 0, 0, [], false⟩] } 0 0) := by
  unfold noWaking; decide +kernel
theorem test_EngineSteps_frame : let s := decS (some ⟨0, 0, 0, 0, none, 0, 0, false, some 0x12⟩) W.mem
    (s.dec s.cur.a).run.any (fun r => decide (r.frame < r.word / 2 ^ 96 % 2 ^ 8 + 1) && r.stopped == some 0x12) := by decide +kernel
theorem test_EngineSteps_decoded : let s := decS (some ⟨0, 1, 0, 0, none, 0, 0, false, none⟩) W.mem
    let ag : Agent := ⟨0, some 0, some 0, false⟩
    (s.dec s.cur.a).run.any (fun r => decide (r.word / 2 ^ 96 % 2 ^ 8 + 1 ≤ r.frame)) ∧ scr.toNat + 96 ≤ 2 ^ 64 ∧
      ∀ i, i < 32 → ∃ x, Claims.placed s ag true (scr.toNat + 64) i x :=
  ⟨by decide +kernel, by decide, fun i h => ⟨_, scr_at (n := 32) (k := 0x1000000000000040) (by decide +kernel) i h⟩⟩
theorem test_EngineSteps_batch : let s := ev (W.modDctx 0 (fun d => { d with waiting := [⟨0x30000, 4096, 1, 0, 0, 5, 5, 0, 0, 0⟩] })) 0 0
    s.up = true ∧ (s.dctx s.cur.a).formed.length < 16 ∧ (s.dctx s.cur.a).waiting = ⟨0x30000, 4096, 1, 0, 0, 5, 5, 0, 0, 0⟩ :: [] := by
  decide +kernel
theorem test_EngineSteps_queue : W.up = true := by decide +kernel

/-! ### The Cabinet -/

/-- A table of 64 nodes at the band's scratchpad under two variables: node 3 is v1, node 2 is v0 ∨ v1, and node 4, ¬v1, is named by
nothing. Its order follows, then blocks of 32 bytes. -/
def mkBlock (v lo hi : Nat) : Nat := v + lo * 2 ^ 64 + hi * 2 ^ 128
@[irreducible] def cabM : List Host.Cell :=
  let put (at_ : Nat) (bs : List Byte) : List Host.Cell :=
    (bs.zipIdx.filter (fun e => e.1 != 0)).map (fun e => (0x1000000000000000 + at_ + e.2, e.1))
  put 0 ([⟨true, 0xFFFFF, 0, 5, 0xFFFF⟩, ⟨true, 0xFFFFF, 0, 5, 0xFFFF⟩, ⟨true, 0, 1, 3, 1⟩, ⟨true, 1, 1, 0, 1⟩,
    ⟨true, 1, 0, 1, 0⟩].flatMap (fun r : NodeRec => leBytes 16 r.toNat)) ++
  put (1024 + 8 * 34) (leBytes 8 2) ++ put (1024 + 8 * 40) (leBytes 8 4) ++ put (1024 + 8 * 46) (leBytes 8 3) ++
  put 1536 ([0, 1, 0, 1].flatMap (leBytes 4)) ++
  put 1664 ([mkBlock 0 0 3, mkBlock 2 0 1, mkBlock 0 0 10, mkBlock 1 0 2, mkBlock 0 3 3, mkBlock 1 0 1, mkBlock 3 2 0, mkBlock 2 3 4,
    mkBlock 9 3 0, mkBlock 2 0xFE00000000000690 0, 2 ^ 32, 1].flatMap (leBytes 32))
/-- The address of a block, and a command with an operand. -/
def blk (i : Nat) : W64 := scr + 1664 + BitVec.ofNat 64 (32 * i)
def cmdOf (op : Nat) (a : W64) : DdCmd := ⟨op, 8, a, 0, 0, 0, 0, 0, 0, 0, none, none⟩
/-- The command stands alone in its queue; `small`: the table's limit is reached. -/
def cabD (small : Bool) : DieCtx := { DieCtx.init with
  ddbase := scr, ddcap := if small then 0x506 else 0x4006, vobase := scr + 1536, vocount := 2, tableReady := true
  orderReady := true, l2v := [(0, 0), (1, 1)], v2l := [(0, 0), (1, 1)], peak := 5 }
def cabS (op : Nat) (a : W64) (small : Bool) : State :=
  ev { W.modDie 0 (fun d => { d with cab := [cmdOf op a] }) with
    mem := cabM
    dctxs := [(0, cabD small)] } 0 0
/-- The places of the table's bytes. -/
def cabAt (i : Nat) : Nat := 0x1000000000000000 + i

/-- The band's scratchpad is its first 4,096 bytes. -/
theorem slice_at {s : State} (hw : s.wgs = W.wgs) (ht : (s.tile 0).cordoned = false) (hr : s.regions = []) (w : Bool) (i : Nat) (h : i < 4096) :
    xlByte s ⟨0, some 0, some 0, false⟩ w (scr.toNat + i) = .ok (0x1000000000000000 + i) := by
  have e : scr.toNat = 0xFE00000000000000 := by decide +kernel
  unfold xlByte
  rw [e, if_neg (by unfold spaceStep; omega), if_pos (by simp; omega)]
  simp only [Nat.add_sub_cancel_left]
  unfold sramByte
  simp only [ht, allocated, scanArea, hw, hr]
  have h0 : W.wgs = [(0, ⟨0, 0, 0, 0, 0, 0, 4096, 1, 0, 0, none, [], false, false⟩)] := by decide +kernel
  simp [h0, h, sramKey, sramBase]
theorem area_of {s : State} {ag : Agent} {base n k : Nat} {P : Nat → Prop} (h : ∀ i, i < n → ∀ w, xlByte s ag w (base + i) = .ok (k + i))
    (hn : base + n ≤ 2 ^ 64) (hs : spaceStep ≤ base) (hp : s.poison = []) (hk : ∀ j, k ≤ j → ¬ pooled s j) :
    areaAt s ag base n P (k + ·) :=
  ⟨hn, fun i hi => ⟨h i hi, by rw [hp]; rfl, hk _ (Nat.le_add_right k i)⟩, fun i j _ _ h => Nat.add_left_cancel h,
    fun i _ h => absurd h (by omega)⟩
theorem reads_of {s : State} {ag : Agent} {va n k w : Nat} (h : engCheck s ag false va n = .ok k ∧ w = leNat n (engBytes s ag va n))
    (hp : s.poison = []) : readsAs s ag va n w :=
  ⟨⟨k, h.1⟩, by unfold anyPoison; rw [hp]; simp, h.2⟩
theorem ready_of {s : State} {c : DdCmd} (h : s.up = true ∧ (s.die s.cur.a).cab[s.cur.b]? = some c ∧ ddMayStart s s.cur.a s.cur.b = true)
    (hw : s.tiles.all (fun e => e.2.waking.isEmpty) = true) : cabinetReady s c :=
  ⟨h.1, h.2.1, h.2.2, fun e he => List.isEmpty_iff.mp (List.all_eq_true.mp hw e he)⟩

/-- The nodes and buckets as memory holds them. -/
def nodeC (n : Nat) : NodeRec := NodeRec.ofNat (leNat 16 ((List.range 16).map (fun i => memByte cabM (cabAt (16 * n + i)))))
def bucketC (b : Nat) : Nat := leNat 8 ((List.range 8).map (fun i => memByte cabM (cabAt (1024 + 8 * b + i)))) % 2 ^ 40
theorem peek_cab (op : Nat) (a : W64) (m : Bool) (k : Nat) : (cabS op a m).peek k = memByte cabM k := rfl
theorem nodeAt_cab (op : Nat) (a : W64) (m : Bool) : nodeAt (cabS op a m) cabAt = nodeC := by
  funext n
  unfold nodeAt nodeC
  simp only [peek_cab]
theorem dctx_cab (op : Nat) (a : W64) (m : Bool) (c : DdCmd) (h : c.ctx = 0) : ddRegs (cabS op a m) c = cabD m := by
  unfold ddRegs
  rw [h]
  change tget DieCtx.init [(0, cabD m)] (0 * 1024 + 0) = cabD m
  simp [tget, tget?]
theorem size_cab (op : Nat) (a : W64) (m : Bool) (c : DdCmd) (h : c.ctx = 0) : ddSize (ddRegs (cabS op a m) c) = 64 := by
  rw [dctx_cab op a m c h]
  cases m <;> decide +kernel
theorem named_cab {x : DieCtx} (h : ddSize x = 64) (n : Nat) : named x nodeC n ↔ n ≤ 4 := by
  have h0 : (nodeC 0).lo = 5 := by decide +kernel
  have hl : ∀ n, n < 5 → (nodeC n).live = true := by decide +kernel
  unfold named
  rw [h, h0]
  exact ⟨fun ⟨_, _, h⟩ => by omega, fun h => ⟨by omega, hl n (by omega), by omega⟩⟩
theorem buckets_cab : ∀ b, b < 64 → bucketC b ≤ 4 ∧ (2 ≤ bucketC b → b = [0, 0, 34, 46, 40].getD (bucketC b) 0) := by decide +kernel
theorem good_nodes (op : Nat) (a : W64) (m : Bool) (c : DdCmd) (h : c.ctx = 0) :
    goodNodes (cabS op a m) (ddRegs (cabS op a m) c) cabAt := by
  have hs := size_cab op a m c h
  have hb (b : Nat) : bucketAt (cabS op a m) (ddRegs (cabS op a m) c) cabAt b = bucketC b := by
    unfold bucketAt bucketC
    rw [hs]
    simp only [peek_cab]
  unfold goodNodes
  simp only [nodeAt_cab, hs, hb, named_cab hs]
  refine ⟨by decide +kernel, by decide +kernel, by decide +kernel, ?_, fun b hb => Or.inr (buckets_cab b hb).1, fun b c hb hc h2 he => ?_,
    [], show (nodeC 0).hi = 0 by decide +kernel⟩
  · have : ∀ n, n < 5 → (nodeC n).lo ≤ 5 ∧ (2 ≤ n → (nodeC n).lo ≤ 4 ∧ (nodeC n).hi ≤ 4) := by decide +kernel
    exact fun n h2 h4 => (this n (by omega)).2 h2
  · have h1 := (buckets_cab b hb).2 h2
    have h3 := (buckets_cab c hc).2 (by rw [← he]; exact h2)
    rw [h1, h3, he]
theorem regs_cab (op : Nat) (a : W64) (m : Bool) (c : DdCmd) (h : c.ctx = 0) :
    (ddRegs (cabS op a m) c).vocount = 2 ∧ (ddRegs (cabS op a m) c).l2v = [(0, 0), (1, 1)] ∧
      (ddRegs (cabS op a m) c).v2l = [(0, 0), (1, 1)] ∧ (ddRegs (cabS op a m) c).tableReady = true ∧
      (ddRegs (cabS op a m) c).orderReady = true := by
  rw [dctx_cab op a m c h]
  cases m <;> decide +kernel
theorem good_table (op : Nat) (a : W64) (m : Bool) (c : DdCmd) (h : c.ctx = 0) :
    goodTable (cabS op a m) (ddRegs (cabS op a m) c) cabAt := by
  have hs := size_cab op a m c h
  obtain ⟨h1, h2, h3, -, -⟩ := regs_cab op a m c h
  unfold goodTable sound inverseTables levelAt
  simp only [nodeAt_cab, named_cab hs, h1, h2, h3]
  refine ⟨good_nodes op a m c h, by decide, fun n hn => ?_, by decide +kernel, by decide +kernel⟩
  have : ∀ n, n < 5 → (n ≤ 4 ∧ (n ≤ 1 ∨ (nodeC n).var < 2)) ∧ (n ≤ 1 ∨ ((nodeC n).lo ≤ 4 ∧ ((nodeC n).lo ≤ 1 ∨ (nodeC (nodeC n).lo).var < 2)) ∧
      ((nodeC n).hi ≤ 4 ∧ ((nodeC n).hi ≤ 1 ∨ (nodeC (nodeC n).hi).var < 2)) ∧
      (if n ≤ 1 then 2 else tget 0 [(0, 0), (1, 1)] (nodeC n).var) <
        (if (nodeC n).lo ≤ 1 then 2 else tget 0 [(0, 0), (1, 1)] (nodeC (nodeC n).lo).var) ∧
      (if n ≤ 1 then 2 else tget 0 [(0, 0), (1, 1)] (nodeC n).var) <
        (if (nodeC n).hi ≤ 1 then 2 else tget 0 [(0, 0), (1, 1)] (nodeC (nodeC n).hi).var)) := by decide +kernel
  exact this n (by omega)
theorem not_pooled_cab (op : Nat) (a : W64) (m : Bool) (k : Nat) (h : 0x1000000000000000 ≤ k) : ¬ pooled (cabS op a m) k :=
  show ¬ pooled W k from not_pooled (by decide +kernel) k h
theorem table_at (op : Nat) (a : W64) (m : Bool) : tableAt (cabS op a m) (cmdOf op a) cabAt := by
  have hs := size_cab op a m (cmdOf op a) rfl
  refine ⟨by rw [dctx_cab _ _ _ _ rfl]; cases m <;> decide +kernel, ?_⟩
  rw [hs]
  rw [show (ddRegs (cabS op a m) (cmdOf op a)).ddbase = scr by rw [dctx_cab _ _ _ _ rfl]; rfl]
  exact area_of (fun i hi w => slice_at (s := cabS op a m) rfl (by rfl) rfl w i (by omega)) (by decide +kernel) (by decide +kernel) rfl
    (not_pooled_cab op a m)

theorem test_CabinetNodes_unready : let s := (cabS 0 (blk 0) false).modDctx 0 (fun d => { d with tableReady := false })
    cabinetReady s (cmdOf 0 (blk 0)) ∧ (ddRegs s (cmdOf 0 (blk 0))).tableReady = false :=
  ⟨ready_of (by decide +kernel) (by decide +kernel), by decide +kernel⟩
/-- The blocks of the tests' commands. -/
def blocks : List Nat := [mkBlock 0 0 3, mkBlock 2 0 1, mkBlock 0 0 10, mkBlock 1 0 2, mkBlock 0 3 3, mkBlock 1 0 1, mkBlock 3 2 0,
  mkBlock 2 3 4, mkBlock 9 3 0, mkBlock 2 0xFE00000000000690 0]
/-- A command of a number with the operand a block starts. -/
theorem meets : ∀ op, op < 13 → ∀ m : Bool, let s := cabS op (blk 0) m
    (s.up = true ∧ (s.die s.cur.a).cab[s.cur.b]? = some (cmdOf op (blk 0)) ∧ ddMayStart s s.cur.a s.cur.b = true) ∧
      s.tiles.all (fun e => e.2.waking.isEmpty) = true := by decide +kernel
theorem meets_at (op : Nat) (h : op < 13) (a : W64) (m : Bool) : cabinetReady (cabS op a m) (cmdOf op a) := by
  have := meets op h m
  exact ready_of ⟨this.1.1, rfl, this.1.2.2⟩ this.2
/-- The commands of the tests that read a block. -/
def reading : List (Nat × Nat × Bool) := [(0, 0, false), (0, 0, true), (0, 1, false), (0, 2, false), (0, 3, false), (0, 4, false),
  (0, 5, false), (1, 6, false), (2, 7, false), (3, 7, false), (4, 7, false), (3, 6, false), (4, 6, false), (1, 8, false), (5, 9, false),
  (6, 7, false)]
theorem reads_blk : ∀ e ∈ reading, let s := cabS e.1 (blk e.2.1) e.2.2
    let c := cmdOf e.1 (blk e.2.1)
    engCheck s c.agent false c.a.toNat 32 = .ok (0x1000000000000680 + 32 * e.2.1) ∧
      blocks.getD e.2.1 0 = leNat 32 (engBytes s c.agent c.a.toNat 32) := by decide +kernel
theorem reads_at {op i : Nat} {m : Bool} (h : (op, i, m) ∈ reading) :
    readsAs (cabS op (blk i) m) (cmdOf op (blk i)).agent (cmdOf op (blk i)).a.toNat 32 (blocks.getD i 0) :=
  reads_of (reads_blk (op, i, m) h) rfl

/-- Each `dd.mk`, `dd.apply`, `dd.ite`, `dd.restrict`, `dd.exists`, `dd.wcount` and `dd.satcount` of `reading` meets what its
statement asks of the device. -/
theorem test_CabinetNodes_mk : ∀ e ∈ reading, let s := cabS e.1 (blk e.2.1) e.2.2
    let c := cmdOf e.1 (blk e.2.1)
    cabinetReady s c ∧ tableAt s c cabAt ∧ goodTable s (ddRegs s c) cabAt ∧ cacheSound s 0 0 (ddRegs s c) (nodeAt s cabAt) ∧
      (ddRegs s c).tableReady = true ∧ (ddRegs s c).orderReady = true ∧
      readsAs s c.agent c.a.toNat 32 (blocks.getD e.2.1 0) := fun e he => by
  have h : e.1 < 13 := (by decide : ∀ e ∈ reading, e.1 < 13) e he
  obtain ⟨-, -, -, hr, ho⟩ := regs_cab e.1 (blk e.2.1) e.2.2 (cmdOf e.1 (blk e.2.1)) rfl
  exact ⟨meets_at _ h _ _, table_at _ _ _, good_table _ _ _ _ rfl, (fun _ h => by cases h), hr, ho, reads_at he⟩
/-- The buckets of the probes lie in the table; the new node (v0, 0, 3) finds a free one at once, and node 3 is found at once. -/
theorem test_CabinetNodes_buckets : (∀ b, b < 64 → bucketC b < 64) ∧
    bucketC ((0 * 0x9E3779B1 + 0 * 0x85EBCA77 + 3 * 0xC2B2AE3D + 0) % 64) = 0 ∧
    bucketC ((1 * 0x9E3779B1 + 0 * 0x85EBCA77 + 1 * 0xC2B2AE3D + 0) % 64) = 3 ∧ (nodeC 3).var = 1 ∧ (nodeC 3).lo = 0 ∧ (nodeC 3).hi = 1 :=
  ⟨fun b h => Nat.lt_of_le_of_lt (buckets_cab b h).1 (by decide), by decide +kernel⟩
/-- The operands of the other blocks: a variable that does not exist, no node, a child not above, two like children; a table that
is full, and one with room at NEXT. -/
theorem test_CabinetNodes_operands : let x := cabD false
    x.vocount.toNat ≤ 2 ∧ ¬ named x nodeC 10 ∧ ¬ (tget 0 x.v2l 1 < levelAt x nodeC 2) ∧
      (tget 0 x.v2l 0 < levelAt x nodeC 0 ∧ tget 0 x.v2l 0 < levelAt x nodeC 3) ∧ (nodeC 0).hi = 0 ∧ (nodeC 0).lo = 5 ∧ (nodeC 1).lo = 5 ∧
      ddLimit (cabD true) ≤ 5 ∧ 5 < ddLimit x ∧ 5 < ddSize x ∧ ∀ m, m ≤ 1 → (nodeC m).ref = 0xFFFF := by
  refine ⟨by decide +kernel, ?_, by unfold levelAt; decide +kernel, by unfold levelAt; decide +kernel, by decide +kernel, by decide +kernel,
    by decide +kernel, by decide +kernel, by decide +kernel, by decide +kernel, by decide +kernel⟩
  rw [named_cab (by decide +kernel)]
  decide
theorem test_CabinetNodes_ref : named (cabD false) nodeC 3 ∧ named (cabD false) nodeC 4 ∧ ¬ named (cabD false) nodeC 5 ∧
    (nodeC 3).ref ≠ 0 ∧ (nodeC 4).ref = 0 ∧ cabinetReady (cabS 8 4 false) (cmdOf 8 4) ∧ tableAt (cabS 8 4 false) (cmdOf 8 4) cabAt := by
  simp only [named_cab (show ddSize (cabD false) = 64 by decide +kernel)]
  exact ⟨by decide, by decide, by decide, by decide +kernel, by decide +kernel, meets_at _ (by decide) _ _, table_at _ _ _⟩
/-- A command that has ended with a status and a result. -/
def endedS (st : Nat) (r : Option (Nat × Nat × Nat)) : State :=
  ev (W.modDie 0 (fun d => { d with cab := [{ cmdOf 0 scr with status := some st, result := r }] })) 0 0
theorem test_CabinetNodes_result : let s := endedS 0 (some (24, 8, 3))
    ((s.die s.cur.a).cab[s.cur.b]?.any (fun c => c.status = some 0 ∧ c.result = some (24, 8, 3)) = true ∧ s.up = true) ∧ noWaking s ∧
      ∀ i, i < 8 → ∃ k, Claims.placed s ⟨0, some 0, some 0, false⟩ true (scr.toNat + 24) i k :=
  ⟨by decide +kernel, by unfold noWaking; decide +kernel,
    fun i h => ⟨_, scr_at (n := 8) (k := 0x1000000000000018) (by decide +kernel) i h⟩⟩
theorem test_CabinetNodes_failed : let s := endedS 0x151 none
    (s.die s.cur.a).cab[s.cur.b]?.any (fun c => c.status = some 0x151 ∧ c.op ≠ 5 ∧ c.result = none) ∧ (tget? s.bands 0).isSome := by
  decide +kernel

/-- Nodes 2 and 3 are cubes of neither and of both forms; node 9 does not exist. -/
theorem test_CabinetCombines : let x := cabD false
    (named x nodeC 2 ∧ named x nodeC 3 ∧ named x nodeC 4 ∧ ¬ named x nodeC 9) ∧ (cubeForm x nodeC true 3 ∧ cubeForm x nodeC false 3) ∧
      ¬ cubeForm x nodeC true 2 ∧ ¬ cubeForm x nodeC false 2 := by
  have e : (cabD false).vocount.toNat = 2 := rfl
  have h3 : (nodeC 3).lo = 0 ∧ (nodeC 3).hi = 1 := by decide +kernel
  have h2 : (nodeC 2).lo = 3 ∧ (nodeC 2).hi = 1 := by decide +kernel
  simp only [named_cab (show ddSize (cabD false) = 64 by decide +kernel), cubeForm, e]
  refine ⟨by decide, ?_, ?_, ?_⟩ <;> simp [formBelow, h2, h3]

/-- The nodes' REF counts cover their edges, and node 4 has none. -/
theorem test_CabinetCollectsAndCounts_gc : cabinetReady (cabS 11 0 false) (cmdOf 11 0) ∧ tableAt (cabS 11 0 false) (cmdOf 11 0) cabAt ∧
    goodNodes (cabS 11 0 false) (ddRegs (cabS 11 0 false) (cmdOf 11 0)) cabAt ∧
    (∀ n, n < 5 → 2 ≤ n → (nodeC n).ref = 0xFFFF ∨ edgesTo nodeC (decisions nodeC) n ≤ (nodeC n).ref) ∧ (nodeC 4).ref = 0 :=
  ⟨meets_at _ (by decide) _ _, table_at _ _ _, good_nodes _ _ _ _ rfl, by decide +kernel, by decide +kernel⟩
/-- The weights of both variables can be read. -/
theorem test_CabinetCollectsAndCounts_weights : let s := cabS 5 (blk 9) false
    let c := cmdOf 5 (blk 9)
    blocks.getD 9 0 / 2 ^ 64 % 2 ^ 64 = 0xFE00000000000690 ∧
      ∀ v, v < 2 → readsAs s c.agent (0xFE00000000000690 + 16 * v) 16 (leNat 16 (engBytes s c.agent (0xFE00000000000690 + 16 * v) 16)) := by
  refine ⟨by decide, fun v h => ?_⟩
  have : ∀ v, v < 2 → engCheck (cabS 5 (blk 9) false) (cmdOf 5 (blk 9)).agent false (0xFE00000000000690 + 16 * v) 16 =
    .ok (0x1000000000000690 + 16 * v) := by decide +kernel
  exact reads_of ⟨this v h, rfl⟩ rfl
theorem test_CabinetCollectsAndCounts_counted : satCount (cabD false) nodeC 2 = 3 := by decide +kernel
theorem test_CabinetCollectsAndCounts_stat : cabinetReady (cabS 12 scr false) (cmdOf 12 scr) ∧ freeChain nodeC [] (nodeC 0).hi :=
  ⟨meets_at _ (by decide) _ _, show (nodeC 0).hi = 0 by decide +kernel⟩

/-- Levels 0 and 1 can be exchanged; 1 and 2 cannot. Equal functions have one index. -/
theorem test_CabinetReorders_swap : cabinetReady (cabS 9 0 false) (cmdOf 9 0) ∧ toRewrite nodeC 0 1 = [2] ∧
    areaAt (cabS 9 0 false) (cmdOf 9 0).agent (scr.toNat + 1536) (8 * 2) (fun _ => False) (fun i => 0x1000000000000600 + i) ∧
    (∀ i j, i < 24 * 64 → j < 8 * 2 → cabAt i ≠ 0x1000000000000600 + j) ∧
    (∀ m n, named (cabD false) nodeC m → named (cabD false) nodeC n →
      (∀ ρ, valueAt (cabD false) nodeC ρ m = valueAt (cabD false) nodeC ρ n) → m = n) := by
  refine ⟨meets_at _ (by decide) _ _, by decide +kernel, ?_, fun i j hi hj h => ?_, fun m n hm hn h => ?_⟩
  · refine area_of (fun i hi w => ?_) (by decide +kernel) (by decide +kernel) rfl fun k hk => not_pooled_cab _ _ _ k (by omega)
    have := slice_at (s := cabS 9 0 false) rfl (by rfl) rfl w (1536 + i) (by omega)
    rw [← Nat.add_assoc, ← Nat.add_assoc] at this
    exact this
  · unfold cabAt at h
    omega
  · rw [named_cab (by decide +kernel)] at hm hn
    have : ∀ m, m < 5 → ∀ n, n < 5 → valueAt (cabD false) nodeC (fun _ => false) m = valueAt (cabD false) nodeC (fun _ => false) n →
        valueAt (cabD false) nodeC (fun _ => true) m = valueAt (cabD false) nodeC (fun _ => true) n →
        valueAt (cabD false) nodeC (fun v => v == 0) m = valueAt (cabD false) nodeC (fun v => v == 0) n → m = n := by decide +kernel
    exact this m (by omega) n (by omega) (h _) (h _) (h _)
theorem test_CabinetReorders_room : ddLimit (cabD true) < (nodeC 1).lo + 2 * 1 ∧
    ¬ (ddLimit (cabD false) < (nodeC 1).lo + 2 * 1 ∨ 0 + (ddSize (cabD false) - (nodeC 0).lo) < 2 * 1) := by decide +kernel
/-- An order that stands already, one that an exchange gives, and one that names no level of v1. -/
theorem test_CabinetReorders_order : ∀ e ∈ [(10, 0, 1), (11, 1, 0), (12, 0, 0)], let s := cabS 10 (blk e.1) false
    let c := cmdOf 10 (blk e.1)
    cabinetReady s c ∧ ∀ i, i < 2 → readsAs s c.agent (c.a.toNat + 4 * i) 4 (if i = 0 then e.2.1 else e.2.2) := fun e he =>
  ⟨meets_at _ (by decide) _ _, fun i hi => by
    have : ∀ e ∈ [(10, 0, 1), (11, 1, 0), (12, 0, 0)], ∀ i, i < 2 → let s := cabS 10 (blk e.1) false
        let c := cmdOf 10 (blk e.1)
        engCheck s c.agent false (c.a.toNat + 4 * i) 4 = .ok (0x1000000000000680 + 32 * e.1 + 4 * i) ∧
          (if i = 0 then e.2.1 else e.2.2) = leNat 4 (engBytes s c.agent (c.a.toNat + 4 * i) 4) := by decide +kernel
    exact reads_of (this e he i hi) rfl⟩

/-! ### Regions -/

/-- A workgroup whose yOne band waits in the `rlx.begin` of two steps. -/
def openS : State := waitEv (.rxBegin 2 0x122 0 [] 0)
theorem test_RegionSteps_open : (openS.up = true ∧ (∀ k ∈ bandsOf openS openS.cur.a, openS.awakeOut k = true)) ∧
    ∀ i t, [2][i]? = some t → openS.awake (0 + i) = true ∧ ∃ sb y, (openS.band (0 + i)).wait = .rxBegin t 0x122 sb y 0 ∧
      (i = 0 → y = []) ∧ (i ≠ 0 → sb = 0) :=
  ⟨by decide +kernel, fun i t h => by
    match i with
    | 0 =>
      cases h
      exact ⟨by decide +kernel, 0, [], by decide +kernel, fun _ => rfl, fun h => absurd rfl h⟩
    | n + 1 => simp at h⟩
/-- Two bands whose `rlx.begin` name other counts of bands, the later yOne at its trap handler. -/
def mismatch : State := { openS.modBand 0 (fun b => { b with wait := .rxBegin 2 0x122 0 [] 1 }) with
  bands := [(0, { openS.band 0 with wait := .rxBegin 2 0x122 0 [] 1 }),
    (1, { openS.band 0 with no := 1, slot := 1, tvec := 0x11000, wait := .rxBegin 2 0x122 0 [] 2 })] }
theorem test_RegionSteps_mismatch : let s := mismatch
    (s.up = true ∧ (∀ k ∈ bandsOf s s.cur.a, s.awakeOut k = true) ∧ s.awake (s.cur.a * 16) = true ∧
      s.awake (s.cur.a * 16 + 1) = true ∧ (s.band (s.cur.a * 16)).wait = .rxBegin 2 0x122 0 [] 1 ∧
      (s.band (s.cur.a * 16 + 1)).wait = .rxBegin 2 0x122 0 [] 2 ∧ (2 : Nat) ≠ 1 ∧ (s.band (s.cur.a * 16)).rx = none) ∧
    mayTrap s (s.cur.a * 16 + 1) ∧ ∀ j, j < 16 → 0 < j → j ≠ 1 → (s.band (s.cur.a * 16 + j)).wait = .none :=
  ⟨by decide +kernel, ⟨by decide +kernel, by decide +kernel, by decide +kernel, by decide +kernel, 0x11000, by decide +kernel⟩, by decide +kernel⟩
/-- A pass of n steps is over, with a configuration word, these results, and a change of the region. -/
def overR (n : Nat) (c : W64) (y : Tbl W32) (f : Region → Region) : Region :=
  f ⟨c, 1, n, false, [], y, [], 0, 0, 0, 5, none, none, [], none, false, [], none, 0, 0, [], false, [], false, false⟩
def overS (n : Nat) (c : W64) (y : Tbl W32) (f : Region → Region) : State := ev { W.modBand 0 (fun b => { b with
    rx := some ⟨0, 0, n, 2, 0, true, true, 0, 0x12000⟩
    run := b.run.map (fun r => { r with body := true })
    slot0 := none, tvec := 0x11000 }) with
  regions := [(0, overR n c y f)] } 0 0
theorem over_bodies (n : Nat) (c : W64) (y : Tbl W32) (f : Region → Region) (h : (overR n c y f).held = false ∧ (overR n c y f).nb = 1) :
    bodiesOver (overS n c y f) 0 (overR n c y f) :=
  ⟨h.1, fun i hi => match i, h.2 ▸ hi with
    | 0, _ => ⟨rfl, rfl, rfl, rfl, rfl, rfl⟩⟩
theorem over_steps (n : Nat) (c : W64) (y : Tbl W32) (f : Region → Region) (h : (overR n c y f).nb = 1 ∧ (overR n c y f).n = n) :
    ∀ i k, i < (overR n c y f).nb → ((overS n c y f).band (0 + i)).rx = some k → k.first + k.steps ≤ (overR n c y f).n :=
  fun i k hi hk => by
    have : i = 0 := by omega
    subst this
    cases hk
    rw [h.2]
    exact Nat.le_of_eq (Nat.zero_add n)
theorem within_of {r : Region} {t i m m' ma mr : Nat} {n n' na nr : Bool} {e e' ea er : Int}
    (h1 : fval single (delivered r t i).toNat = .fin n m e) (h2 : fval single (r.guess (t + 1) i).toNat = .fin n' m' e')
    (h3 : valueOf .bf16 (r.cfg.toNat / 2 ^ 20 % 2 ^ 16) = .fin na ma ea) (h4 : valueOf .bf16 (r.cfg.toNat / 2 ^ 36 % 2 ^ 16) = .fin nr mr er) :
    within r t i ↔ ((units (min (min e e') (min ea (er + e))) n m e - units (min (min e e') (min ea (er + e))) n' m' e').natAbs : Int) ≤
      units (min (min e e') (min ea (er + e))) false ma ea + units (min (min e e') (min ea (er + e))) false (mr * m) (er + e) := by
  unfold within
  simp only [h1, h2, h3, h4]

/-- All results are the guesses. -/
theorem test_RegionSteps_exact : let r := overR 2 0x522 [] id
    tget? (overS 2 0x522 [] id).regions 0 = some r ∧ bodiesOver (overS 2 0x522 [] id) 0 r ∧ r.seqAt = none ∧
      (∀ t, t < r.n → stepGone (overS 2 0x522 [] id) 0 r t = false) ∧ ∀ t, 1 ≤ t → t < r.n → exactAt r t :=
  ⟨rfl, over_bodies _ _ _ _ ⟨rfl, rfl⟩, rfl, by decide +kernel, fun t h1 h =>
    (show ∀ t, t < 2 → 1 ≤ t → exactAt (overR 2 0x522 [] id) t by unfold exactAt delivered; decide +kernel) t h h1⟩
/-- Component 0 of y[0] is 1.0 where the guess is 0, and ATOL is 1.0. -/
def yOne : Tbl W32 := [(0, 0x3F800000)]
theorem test_RegionSteps_tolerance : let r := overR 2 0x3F8000522 yOne id
    (¬ ∀ t, 1 ≤ t → t < r.n → exactAt r t) ∧ tolerance (r.cfg.toNat / 2 ^ 20 % 2 ^ 16) ∧ tolerance (r.cfg.toNat / 2 ^ 36 % 2 ^ 16) ∧
      ∀ t i, t + 1 < r.n → i < r.dim → within r t i := by
  refine ⟨fun h => absurd (h 1 (by decide) (by decide)) (by unfold exactAt delivered; decide +kernel), by unfold tolerance; decide +kernel,
    by unfold tolerance; decide +kernel, fun t i ht hi => ?_⟩
  have h : t = 0 := by
    have : t + 1 < 2 := ht
    omega
  subst h
  have : i = 0 ∨ i = 1 := by
    have : i < 2 := hi
    omega
  rcases this with h | h <;> subst h
  · exact (within_of (n := false) (m := 2 ^ 23) (e := -23) (n' := false) (m' := 0) (e' := -149) (na := false) (ma := 2 ^ 7) (ea := -7)
      (nr := false) (mr := 0) (er := -133) (by decide +kernel) (by decide +kernel) (by decide +kernel) (by decide +kernel)).mpr (by decide +kernel)
  · exact (within_of (n := false) (m := 0) (e := -149) (n' := false) (m' := 0) (e' := -149) (na := false) (ma := 2 ^ 7) (ea := -7)
      (nr := false) (mr := 0) (er := -133) (by decide +kernel) (by decide +kernel) (by decide +kernel) (by decide +kernel)).mpr (by decide +kernel)

/-- JACOBI, NEWTON and DIAG with each fallback, no tolerance, and a limit, a stall count or the best pass so far that makes yOne due. -/
def words : List W64 := [0x522, 0x502, 0x512, 0x562, 0x5A2, 0x10000000000522]
def changes : List (Region → Region) := [id, fun r => { r with limit := 1 },
  fun r => { r with stalls := 1, pass := 1, resprev := some (0, 0) },
  fun r => { r with limit := 1, resbest := some (some (0, 0)) }, fun r => { r with limit := 1, resbest := some (some (2, 0)) }]
theorem test_RegionSteps_open_pass : ∀ c ∈ words, ∀ f ∈ changes, passOpen (overS 2 c yOne f) 0 (overR 2 c yOne f) ∧
    exactPrefix (overR 2 c yOne f) (overR 2 c yOne f).n 1 := fun c hc f hf => by
  have he : f = id ∨ f = (fun r => { r with limit := 1 }) ∨ f = (fun r => { r with stalls := 1, pass := 1, resprev := some (0, 0) }) ∨
      f = (fun r => { r with limit := 1, resbest := some (some (0, 0)) }) ∨ f = (fun r => { r with limit := 1, resbest := some (some (2, 0)) }) := by
    simpa [changes] using hf
  have hw : ∀ c ∈ words, c.toNat / 2 ^ 20 % 2 ^ 16 = 0 ∧ c.toNat / 2 ^ 36 % 2 ^ 16 = 0 ∧ c.toNat % 16 = 2 := by simp [words]
  have hr : let r := overR 2 c yOne f
      r.cfg = c ∧ r.y = yOne ∧ r.g = [] ∧ r.n = 2 ∧ r.nb = 1 ∧ r.held = false ∧ r.seqAt = none ∧ r.abort = false := by
    rcases he with h | h | h | h | h <;> subst h <;> exact ⟨rfl, rfl, rfl, rfl, rfl, rfl, rfl, rfl⟩
  have hg : tget? (overS 2 c yOne f).regions 0 = some (overR 2 c yOne f) := rfl
  have hs : ∀ t, t < 2 → stepGone (overS 2 c yOne f) 0 (overR 2 c yOne f) t = false :=
    fun t ht => by simpa using List.all_eq_true.mp (List.all_eq_true.mp (List.all_eq_true.mp (show words.all (fun c =>
      changes.all (fun f => (List.range 2).all (fun t => !stepGone (overS 2 c yOne f) 0 (overR 2 c yOne f) t))) = true by
        decide +kernel) c hc) f hf) t (List.mem_range.mpr ht)
  revert hr hg hs
  generalize hR : overR 2 c yOne f = r
  intro ⟨h1, h2, h3, h4, h5, h6, h7, h8⟩ hg hs
  obtain ⟨a, b, d⟩ := hw c hc
  have hd : r.dim = 2 := by
    unfold Region.dim bitsN
    rw [h1, Nat.pow_zero, Nat.div_one]
    exact d
  have hx : ¬ exactAt r 1 := fun h => by
    have := h 0 (by rw [hd]; decide)
    unfold delivered Region.guess at this
    rw [h2, h3] at this
    revert this
    decide
  refine ⟨⟨by rfl, hg, by rw [← hR]; exact over_bodies _ _ _ _ (by rw [hR]; exact ⟨h6, h5⟩), h7, h8, by omega, by omega, by omega,
    by rw [h1, a]; exact Or.inl (by decide), by rw [h1, b]; exact Or.inl (by decide), by rw [← hR]; exact over_steps _ _ _ _ (by rw [hR]; exact ⟨h5, h4⟩),
    by rw [h4]; exact hs, fun h => hx (h 1 (by decide) (by omega)), fun h => ?_⟩, by decide, by omega, fun t _ _ => by omega, fun _ _ => hx⟩
  have := h 0 0 (by omega) (by omega)
  rw [within_of (n := false) (m := 2 ^ 23) (e := -23) (n' := false) (m' := 0) (e' := -149) (na := false) (ma := 0) (ea := -133)
      (nr := false) (mr := 0) (er := -133) (by rw [show delivered r 0 0 = 0x3F800000 by unfold delivered; rw [h2]; rfl]; decide +kernel)
      (by unfold Region.guess; rw [h3]; decide +kernel) (by rw [h1, a]; decide +kernel) (by rw [h1, b]; decide +kernel)] at this
  revert this
  decide +kernel
/-- The further pass, and the fallback that is due: at the limit, and at the second stall. -/
theorem test_RegionSteps_again : let r := overR 2 0x522 yOne id
    ¬ (r.stalls = 1 ∧ stallsNow r) ∧ r.pass + 1 < r.limit := ⟨fun h => absurd h.1 (by decide), by decide⟩
theorem test_RegionSteps_limit : fallsBack (overR 2 0x522 yOne (fun r => { r with limit := 1 })) 0x141 :=
  Or.inr ⟨fun h => absurd h.1 (by decide), by decide, rfl⟩
theorem test_RegionSteps_stall :
    fallsBack (overR 2 0x10000000000522 yOne (fun r => { r with stalls := 1, pass := 1, resprev := some (0, 0) })) 0x142 :=
  Or.inl ⟨rfl, ⟨by decide, by decide +kernel, 0, 0, by decide, by decide +kernel, by decide +kernel⟩, rfl⟩
theorem test_RegionSteps_modes : let m (c : W64) : Nat := c.toNat / 2 ^ 6 % 2 ^ 2
    m 0x522 = 0 ∧ m 0x562 = 1 ∧ m 0x5A2 = 2 := by decide
theorem test_RegionSteps_trap : mayTrap (overS 2 0x562 yOne (fun r => { r with limit := 1 })) 0 :=
  ⟨by decide +kernel, by decide +kernel, by decide +kernel, by decide +kernel, 0x11000, by decide +kernel⟩
theorem test_RegionSteps_best : let r (b : Nat) := overR 2 0x5A2 yOne (fun r => { r with limit := 1, resbest := some (some (b, 0)) })
    (residLe (some (2, 0)) (residual (r 2) 0 0) = false ∧ residLe (some (2, 0)) (residual (r 2) 0 1) = false) ∧
      residLe (some (0, 0)) (residual (r 0) 0 0) = true ∧ (r 0).resbest = some (some (0, 0)) ∧ (r 2).resbest = some (some (2, 0)) := by decide +kernel
/-- An in-order run at step 0, which has a step to go or is over. -/
theorem test_RegionSteps_order (e : Nat) : let f (r : Region) : Region := { r with seqAt := some 0, seqEnd := e, seqOut := 4 }
    let r := overR 2 0x522 [] f
    tget? (overS 2 0x522 [] f).regions 0 = some r ∧ bodiesOver (overS 2 0x522 [] f) 0 r ∧ r.seqAt = some 0 ∧ r.dim ≤ 8 ∧ r.seqEnd = e ∧
      (r.seqOut = 7 → r.cfg.toNat / 2 ^ 6 % 2 ^ 2 ≠ 1) ∧ r.seqOut < 16 :=
  ⟨rfl, over_bodies _ _ _ _ ⟨rfl, rfl⟩, rfl, show (overR 2 0x522 [] id).dim ≤ 8 by decide, rfl, fun h => absurd h (show ¬ 4 = 7 by decide),
    show 4 < 16 by decide⟩
/-- The lane of the third step is dead; the second step's evaluation was exact, or not. -/
theorem test_RegionSteps_dead : let s (y : Tbl W32) := (overS 3 0x522 y id).modBand 0 (fun b => { b with dead := ~~~3 })
    (∀ y, tget? (s y).regions 0 = some (overR 3 0x522 y id) ∧ bodiesOver (s y) 0 (overR 3 0x522 y id)) ∧
      stepGone (s []) 0 (overR 3 0x522 [] id) 2 = true ∧ (∀ t, t < 2 → stepGone (s []) 0 (overR 3 0x522 [] id) t = false) ∧
      exactPrefix (overR 3 0x522 [] id) 2 3 ∧ stepGone (s yOne) 0 (overR 3 0x522 yOne id) 2 = true ∧
      (∀ t, t < 2 → stepGone (s yOne) 0 (overR 3 0x522 yOne id) t = false) ∧ exactPrefix (overR 3 0x522 yOne id) 2 1 := by
  refine ⟨fun y => ⟨rfl, ⟨rfl, fun i hi => match i, hi with
    | 0, _ => ⟨rfl, rfl, rfl, rfl, rfl, rfl⟩⟩⟩, by decide +kernel, by decide +kernel, ⟨by decide, by decide, ?_, fun h => absurd h (by decide)⟩,
    by decide +kernel, by decide +kernel, by decide, by decide, fun t _ _ => by omega, fun _ _ => ?_⟩
  · have : ∀ t, t < 3 → 1 ≤ t → t ≤ 2 ∧ exactAt (overR 3 0x522 [] id) t := by unfold exactAt delivered; decide +kernel
    exact fun t h1 h => this t h h1
  · unfold exactAt delivered
    decide +kernel
/-- The region is held, its leader in its handler. -/
theorem test_RegionSteps_held : let s := (overS 2 0x562 yOne (fun r => { r with held := true })).modBand 0 (fun b => { b with
      held := some ⟨0x11000, true, 0, 0, 0, 0, .region, .none⟩ })
    s.cb.held = some ⟨0x11000, true, 0, 0, 0, 0, .region, .none⟩ ∧ s.cb.rx = some ⟨0, 0, 2, 2, 0, true, true, 0, 0x12000⟩ ∧
      (tget? s.regions 0).any (fun r => r.held) = true := by
  decide +kernel

/-! ### Steps of the device: dispatcher, containment, power -/

/-- A launch of one workgroup whose descriptor has no scratchpad, and `more` in it; nothing of it is placed. -/
def work (more prio : Nat) : Launch :=
  newLaunch 0 0x30000 (2 ^ 288 + more) prio 0 none oneImage 0
/-- The device with that launch alone. -/
def idle (l : Launch) : State := (State.modVif { W with launches := [(0, l)], wgs := [], bands := [] } 0
  (fun v => { v with share0 := 96, share1 := 96 }))

theorem firstBy_some {α : Type} (f : α → α → Bool) : ∀ l : List α, l ≠ [] → (firstBy f l).isSome = true
  | [], h => absurd rfl h
  | x :: xs, _ => by
    unfold firstBy
    split
    · rfl
    · split <;> rfl
/-- A band and no scratchpad have room wherever a slot is open. -/
theorem room_some {s : State} {p d ix : Nat} (hb : dBands d = 1) (hs : dScratch d = 0)
    (h : openSlots (residents s p) (footprint (dBudget d) (dLanes d)) [] ≠ []) : (roomAt s p d ix).isSome = true := by
  have hl := List.length_pos_iff.mpr h
  unfold roomAt
  rw [hb, hs]
  simp only [pickSlots, pickScratch, if_true]
  rw [List.getElem?_eq_getElem (Nat.mod_lt _ hl)]
  rfl
/-- A launch that has tiles is served when it is the only one. -/
theorem served_of {l : Launch} (hp : l.prio = 0) (hc : l.ctx = 0) (hw : pendingLaunch (idle l) 0 l = true)
    (ht : (tilesFor (idle l) 0 l).isSome = true) :
    ∃ ts, nextLaunchOf (idle l) = some (0, l, ts) ∧ tget? (idle l).launches 0 = some l := by
  have hs : (nextLaunchOf (idle l)).isSome = true := by
    unfold nextLaunchOf
    refine List.findSome?_isSome_iff.mpr ⟨0, by decide, List.findSome?_isSome_iff.mpr ⟨0, by change 0 ∈ List.range 64; decide, ?_⟩⟩
    refine List.findSome?_isSome_iff.mpr ⟨(0, l), ?_, ?_⟩
    · refine List.mem_filter.mpr ⟨List.mem_singleton.mpr rfl, ?_⟩
      simp only [hp, hc, hw]
      rfl
    · simp only [Option.isSome_map]
      exact ht
  cases h : nextLaunchOf (idle l) with
  | none => rw [h] at hs; cases hs
  | some x =>
    unfold nextLaunchOf at h
    obtain ⟨_, _, h⟩ := List.exists_of_findSome?_eq_some h
    obtain ⟨_, _, h⟩ := List.exists_of_findSome?_eq_some h
    obtain ⟨e, he, h⟩ := List.exists_of_findSome?_eq_some h
    have he := List.mem_singleton.mp (List.mem_filter.mp he).1
    subst he
    obtain ⟨ts, _, rfl⟩ := Option.map_eq_some_iff.mp h
    exact ⟨ts, rfl, rfl⟩
theorem idle_room (d : Nat) (l : Launch) (hb : dBands d = 1) (hs : dScratch d = 0) (hf : footprint (dBudget d) (dLanes d) = 512)
    (k t : Nat) : (memberRoom (idle l) 0 d k t).isSome = true := by
  unfold memberRoom
  refine room_some hb hs ?_
  rw [hf, show residents (idle l) (State.phys (idle l) 0 t) = [] from rfl]
  decide
theorem test_PlacementSteps_single : let s := idle (work 0 0)
    (s.up = true ∧ lostGang s = none) ∧ ∃ ts, nextLaunchOf s = some (0, work 0 0, ts) ∧ tget? s.launches 0 = some (work 0 0) := by
  refine ⟨by decide +kernel, served_of (by decide +kernel) (by decide +kernel) (by decide +kernel) ?_⟩
  have hg : dGang (work 0 0).desc.toNat = 0 := by decide +kernel
  unfold tilesFor
  simp only [hg, if_true, Option.isSome_map]
  unfold tileFor
  refine firstBy_some _ _ (List.ne_nil_of_mem (a := 0) (List.mem_filter.mpr ⟨by decide, ?_⟩))
  rw [show mayReceive (idle (work 0 0)) 0 (work 0 0).ctx 0 = true by decide +kernel,
    show shareOk (idle (work 0 0)) ((work 0 0).ctx / 16) (0 / 96) [(idle (work 0 0)).phys (work 0 0).ctx 0] = true by decide +kernel]
  exact idle_room _ _ (by decide +kernel) (by decide +kernel) (by decide +kernel) 0 0
theorem corner_mem {l : Launch} (h : logicalAt (idle l) 0 0 0 0 = some 0 ∧ placeable (idle l) 0 0 = true) :
    (⟨1, 1, [0]⟩ : Rect) ∈ rectsOf (idle l) 0 0 1 := by
  unfold rectsOf
  refine List.mem_flatMap.mpr ⟨(1, 1), by decide, List.mem_flatMap.mpr ⟨0, by decide, List.mem_filterMap.mpr ⟨0, by decide, ?_⟩⟩⟩
  simp [h.1, h.2]
theorem test_PlacementSteps_gang : let L := work (2 ^ 284) 0
    ((idle L).up = true ∧ lostGang (idle L) = none ∧ descField L 284 4 ≠ 0) ∧
      ∃ ts, nextLaunchOf (idle L) = some (0, L, ts) ∧ tget? (idle L).launches 0 = some L := by
  refine ⟨by decide +kernel, served_of (by decide +kernel) (by decide +kernel) (by decide +kernel) ?_⟩
  have hg : dGang (work (2 ^ 284) 0).desc.toNat = 1 := by decide +kernel
  have hi : (nextIndices (work (2 ^ 284) 0)).length = 1 := by decide +kernel
  have hc : (work (2 ^ 284) 0).ctx = 0 := by decide +kernel
  unfold tilesFor
  simp only [hg, hi, hc, Nat.succ_ne_self, if_false]
  unfold rectFor
  rw [Option.isSome_map]
  refine firstBy_some _ _ (List.ne_nil_of_mem (a := ⟨1, 1, [0]⟩) (List.mem_filter.mpr ⟨?_, ?_⟩))
  · exact List.mem_flatMap.mpr ⟨0, by decide, corner_mem (by decide +kernel)⟩
  · unfold rectFits
    have h1 : mayReceive (idle (work (2 ^ 284) 0)) 0 0 0 = true := by decide +kernel
    have h2 : shareOk (idle (work (2 ^ 284) 0)) (0 / 16) (0 / 96) [(idle (work (2 ^ 284) 0)).phys 0 0] = true := by decide +kernel
    have h3 := idle_room (work (2 ^ 284) 0).desc.toNat (work (2 ^ 284) 0) (by decide +kernel) (by decide +kernel) (by decide +kernel) 0 0
    simp [List.range_succ, h1, h2, h3]
/-- A gang of 13 fits in no rectangle. -/
theorem test_PlacementSteps_lost : let s := idle (work (13 * 2 ^ 284 + 12 * 2 ^ 288) 0)
    s.up = true ∧ lostGang s = some 0 ∧ (tget? s.launches 0).any (fun L => L.status = none ∧ L.parent = none ∧ L.children = []) := by
  decide +kernel
/-- A gang of one that has waited 16 windows on die 0. -/
def longWait : Launch := { work (2 ^ 284) 0 with waited := [(0, 16)] }
theorem test_PlacementSteps_reserve : let s := idle longWait
    (s.up = true ∧ (s.die 0).reserve = none ∧ descField longWait 284 4 ≠ 0 ∧ pendingLaunch s 0 longWait = true ∧
      16 ≤ tget 0 longWait.waited 0 ∧ s.launches = [(0, longWait)]) ∧
    ∃ r, firstBy rectBefore (rectsOf s longWait.ctx 0 (nextIndices longWait).length) = some r := by
  refine ⟨by decide +kernel, Option.isSome_iff_exists.mp (firstBy_some _ _ (List.ne_nil_of_mem (a := ⟨1, 1, [0]⟩) ?_))⟩
  rw [show longWait.ctx = 0 by decide +kernel, show (nextIndices longWait).length = 1 by decide +kernel]
  exact corner_mem (by decide +kernel)

/-- A workgroup whose bands have ended, in a launch of a window and a contain word. -/
def ended (window : List WinEntry) (more reported : Nat) : State := ev { W with
  bands := []
  launches := [(0, { work more 0 with next := 1, window := window, contain := 0, reported := reported })] } 0 0
theorem test_CompletionSteps : let s := ended [⟨0, false, 0⟩] (2 ^ 128 * 0x30000) 0
    s.up = true ∧ (tget? s.wgs s.cur.a).any (fun x => x.launch = 0 ∧ x.index = 0 ∧ x.saved = none ∧ x.dying = false) ∧
      (tget? s.launches 0).any (fun L => L.status = none ∧ L.dying = none ∧ L.window = [⟨0, false, 0⟩] ∧
        L.reported + 1 = descField L 288 32 ∧ L.parent = none ∧ L.children = [] ∧ L.contain.getLsbD 0 = false ∧
        descField L 128 64 = 0x30000) ∧
      (s.ctx 0).dying = false ∧ s.bands = [] ∧ engineBusy s s.cur.a = false ∧
      xlAccess s ⟨0, none, none, false⟩ true true 0x30000 8 = .ok 0x30000 ∧ noWaking s := by unfold noWaking; decide +kernel
theorem test_CompletionSteps_others : (tget? (ended [⟨1, false, 0⟩, ⟨0, false, 0⟩] 0 0).launches 0).any (fun L =>
      L.window = ⟨1, false, 0⟩ :: [⟨0, false, 0⟩]) ∧
    (tget? (ended [⟨0, false, 0⟩, ⟨1, false, 0⟩] 0 0).launches 0).any (fun L => L.window = ⟨0, false, 0⟩ :: ⟨1, false, 0⟩ :: []) ∧
    descField (work 0 0) 128 64 = 0 ∧ (tget? W.bands 0).any (fun y => y.wg == 0) = true := by decide +kernel

/-- A launch of the highest priority whose band takes the registers of a partition; the workgroup has a band in every
partition of the one tile that may take it. -/
def evictL : Launch := work (31 * 2 ^ 256 + 127 * 2 ^ 264) 7
def evictS : State := ev { W.modVif 0 (fun v => { v with share0 := 96, share1 := 96 }) with
  launches := W.launches ++ [(1, evictL)]
  bands := (List.range 16).map (fun i => (i, { W.band 0 with no := i, slot := 6 * i }))
  tiles := (0, W.tile 0) :: (List.range 199).map (fun p => (p + 1, { Tile.init with cordoned := true })) } 0 0
theorem evict_room (i : Nat) : (roomAt (evictS.without (victims evictS (evictS.phys 0 0) 7)) (evictS.phys 0 0) evictL.desc.toNat i).isSome =
    true :=
  room_some (by decide +kernel) (by decide +kernel) (by decide +kernel)
theorem evict_tiles : (evictTiles evictS 1 evictL).contains 0 = true := by
  unfold evictTiles
  simp only [show dGang evictL.desc.toNat = 0 by decide +kernel, show evictL.ctx = 0 by decide +kernel, show evictL.prio = 7 by decide +kernel,
    if_true]
  rw [show List.range 192 = 0 :: List.range' 1 191 by decide +kernel, List.filter_cons_of_pos]
  · rw [show (List.range' 1 191).filter _ = [] by decide +kernel]
    decide +kernel
  · rw [evict_room]
    decide +kernel
theorem evict_leavers : ((leavers evictS 0 evictL.desc.toNat 7).head?).map (·.1) = some 0 := by
  have hv : victims evictS 0 7 = [(0, ⟨0, 0, 0, 0, 0, 0, 4096, 1, 0, 0, none, [], false, false⟩)] := by decide +kernel
  unfold leavers
  simp only [hv, List.mergeSort_singleton, List.foldl_cons, List.foldl_nil]
  decide +kernel
theorem test_EvictionSteps_leavers : (roomAt (evictS.without (victims evictS 0 7)) 0 evictL.desc.toNat (evictS.freeIx 0)).isSome = true :=
  evict_room _
theorem test_EvictionSteps_evict : evictS.up = true ∧ (tget? evictS.wgs evictS.cur.a).isSome ∧ mayEvict evictS evictS.cur.a = true := by
  refine ⟨by decide +kernel, by decide +kernel, ?_⟩
  have hh : (leavers evictS 0 evictL.desc.toNat 7).head?.any (fun y => y.1 == 0) = true := by
    have := evict_leavers
    cases hl : (leavers evictS 0 evictL.desc.toNat 7).head? with
    | none => rw [hl] at this; cases this
    | some y => rw [hl] at this; exact beq_iff_eq.mpr (Option.some.inj this)
  have h : evictS.launches.any (fun e => decide (0 < e.2.prio) && starved evictS e.1 e.2 && (evictTiles evictS e.1 e.2).contains 0 &&
      (leavers evictS 0 e.2.desc.toNat e.2.prio).head?.any (fun y => y.1 == 0)) = true :=
    List.any_eq_true.mpr ⟨(1, evictL), by decide +kernel, by
      rw [evict_tiles, show evictL.prio = 7 by decide +kernel, hh]
      decide +kernel⟩
  have hw : tget? evictS.wgs evictS.cur.a = some ⟨0, 0, 0, 0, 0, 0, 4096, 1, 0, 0, none, [], false, false⟩ := by decide +kernel
  have hl : tget? evictS.launches 0 = tget? W.launches 0 := by decide +kernel
  obtain ⟨L, hL⟩ := Option.isSome_iff_exists.mp (show (tget? W.launches 0).isSome = true by decide +kernel)
  have hp : (tget? W.launches 0).any (fun L => L.prio == 0 && L.status.isNone && L.dying.isNone) = true := by decide +kernel
  rw [hL] at hp
  simp only [Option.any_some, Bool.and_eq_true, beq_iff_eq, Option.isNone_iff_eq_none] at hp
  rw [show evictS.cur.a = 0 from rfl] at hw ⊢
  unfold mayEvict
  rw [hw]
  simp only [hl, hL, hp.1.1, hp.1.2, hp.2, h]
  decide +kernel
theorem test_EvictionSteps_not : mayEvict W 0 = false := by decide +kernel
/-- A saved workgroup without scratchpad, and its launch. -/
def savedS : State := ev { W with
  wgs := [(0, ⟨0, 0, 0, 0, 0, 0, 0, 1, 0, 0, some [], [], false, false⟩)]
  launches := [(0, { work 0 0 with next := 1, window := [⟨0, false, 0⟩] })]
  bands := W.bands.map (fun e => (e.1, savedBand e.2)) } 0 0
theorem test_EvictionSteps_readmit : (savedS.up = true ∧ (tget? savedS.wgs 0).any (fun x => x.saved = some [] ∧ x.scrSize = 0 ∧
      x.dying = false ∧ x.savedBad = false ∧ x.savedAcc = [] ∧ x.acc = 0) ∧ (savedS.ctx 0).dying = false ∧
      (savedS.ctx 0).stopped = false ∧ (savedS.tile 0).cordoned = false ∧ (bandsOf savedS 0).Nodup) ∧
    (∃ slots, pickSlots (residents savedS 0) 512 (savedS.freeIx 0) (bandsOf savedS 0).length [] = some slots) ∧
    pickScratch savedS 0 0 (savedS.freeIx 64) = some 0 := by
  refine ⟨by decide +kernel, ?_, rfl⟩
  have h : openSlots (residents savedS 0) 512 [] ≠ [] := by decide +kernel
  rw [show (bandsOf savedS 0).length = 1 by decide +kernel]
  simp only [pickSlots]
  rw [List.getElem?_eq_getElem (Nat.mod_lt _ (List.length_pos_iff.mpr h))]
  exact ⟨_, rfl⟩
/-- The tile is a member of another gang's reservation. -/
theorem test_EvictionSteps_readmit_reserved : let s := savedS.modDie 0 (fun d => { d with reserve := some ⟨7, [0]⟩ })
    reserved s 0 0 = true ∧ reserved savedS 0 0 = false := by decide +kernel
/-- No launch of a higher priority is there, and one waits that fits on the tile. -/
theorem test_EvictionSteps_readmit_alone : wantedAbove savedS 0 0 = false := by
  unfold wantedAbove
  exact List.any_eq_false.mpr fun e he => by
    have : savedS.launches.all (fun e => decide (e.2.prio ≤ 0)) = true := by decide +kernel
    have := List.all_eq_true.mp this e he
    simp only [decide_eq_true_eq] at this
    simp [Nat.le_zero.mp this]
theorem test_EvictionSteps_readmit_wanted : wantedAbove (idle (work 0 7)) 0 0 = true := by
  have hg : dGang (work 0 7).desc.toNat = 0 := by decide +kernel
  have hf : fitsOn (idle (work 0 7)) 0 (work 0 7) 0 = true := by
    unfold fitsOn
    simp only [hg, if_true]
    refine List.any_eq_true.mpr ⟨0, by decide, ?_⟩
    have := idle_room (work 0 7).desc.toNat (work 0 7) (by decide +kernel) (by decide +kernel) (by decide +kernel) 0 0
    rw [show (work 0 7).ctx = 0 by decide +kernel, this]
    decide +kernel
  unfold wantedAbove
  refine List.any_eq_true.mpr ⟨(0, work 0 7), List.mem_singleton.mpr rfl, ?_⟩
  rw [hf]
  decide +kernel
theorem test_EvictionSteps_readmit_waits : let s := { savedS with wgs := [(0, ⟨0, 0, 0, 0, 0, 0, 0, 1, 0, 1, some [], [], false, false⟩),
      (1, ⟨1, 0, 0, 0, 0, 0, 0, 1, 0, 1, none, [], false, false⟩)] }
    ∃ n, n < 64 ∧ (1 : W64).getLsbD n = true ∧ (accHolder s 0 n).isSome = true := ⟨0, by decide +kernel⟩

/-- A workgroup that is to be killed. -/
def killS (more contain : Nat) : State := ev { W.modWg 0 (fun w => { w with dying := true }) with
  launches := [(0, { work more 0 with contain := BitVec.ofNat 64 contain, next := 1, window := [⟨0, false, 0⟩] })] } 0 0
theorem test_ContainmentSteps_kill : let s := killS (2 ^ 280) (2 ^ 5)
    s.up = true ∧ (tget? s.wgs s.cur.a).any (fun x => x.dying = true ∧ x.launch = 0 ∧ x.gang = 0 ∧ x.saved = none) ∧
      (tget? s.launches 0).any (fun L => L.status = none ∧ descField L 280 1 = 1 ∧
        tget 0 L.relaunches 0 < L.contain.toNat / 2 ^ 5 % 2 ^ 3) := by decide +kernel
theorem test_ContainmentSteps_kill_outer : let s := killS 0 0
    (tget? s.launches 0).any (fun L => descField L 280 1 ≠ 1 ∧ L.contain.getLsbD 0 = false) := by decide +kernel
theorem test_ContainmentSteps_kill_not : (ev W 0 0).up = true ∧ (tget? (ev W 0 0).wgs 0).any (fun x => x.dying = false) := by
  decide +kernel
/-- A launch that is to be replayed or killed. -/
def replayS (dying contain : Nat) : State := ev { W with
  wgs := [], bands := []
  launches := [(0, { work 0 0 with dying := some dying, contain := BitVec.ofNat 64 contain, next := 1, replayable := true })] } 0 0
theorem test_ContainmentSteps_replay : let s := replayS 0 4
    s.up = true ∧ (tget? s.launches s.cur.a).any (fun L => L.status = none ∧ L.dying = some 0 ∧ L.contain.getLsbD 0 = false ∧
      L.replayable = true ∧ L.replays < L.contain.toNat / 2 ^ 2 % 2 ^ 3 ∧ L.parent = none) ∧ s.wgs = [] ∧ s.dctxs = [] ∧ s.arrivals = [] ∧ s.decoders = [] ∧ s.launches.length = 1 ∧
      (∀ e ∈ s.tiles, e.2.copies = []) ∧ ∀ e ∈ s.dies, e.2.cab = [] := by
  decide +kernel
theorem test_ContainmentSteps_launch : (tget? (replayS 1 0).launches 0).any (fun L => L.dying = some 1 ∧ L.parent = none ∧ L.children = []) ∧
    (tget? (replayS 0 1).launches 0).any (fun L => L.dying = some 0 ∧ L.contain.getLsbD 0 = true) := by decide +kernel
theorem test_ContainmentSteps_space : let s := ev (W.modCtx 0 (fun c => { c with dying := true })) 0 0
    s.up = true ∧ s.cur.a < 1024 ∧ (s.ctx s.cur.a).dying = true := by decide +kernel
/-- Peer 5 has link 3 alone, and a load of a band has it under way. -/
def linkS : State := ev { W.modBand 0 (fun b => { b with pend := [⟨false, [(1, 5)], [], [], [227], false⟩] }) with peerLinks := [(5, 8)] } 3 0
theorem test_ContainmentSteps_link : linkS.up = true ∧ linkS.cur.a < 12 ∧ linkS.cur.a ∉ linkS.linksLost ∧ peersCut linkS 3 = [5] ∧
    peersCut linkS 4 = [] ∧ (linkS.band 0).pend.any (fun p => p.ports.contains (222 + 5)) ∧ (tget? linkS.launches 0).isSome := by
  decide +kernel
theorem test_ContainmentSteps_link_lost : (3 : Nat) ∈ ({ linkS with linksLost := [3] } : State).linksLost := by decide +kernel

theorem test_PowerAndSystemSteps_wake : let s := ev (W.modTile 0 (fun t => { t with waking := [⟨.bank 0, 0⟩] })) 0 0
    s.up = true ∧ (s.tile s.cur.a).waking[s.cur.b]? = some ⟨.bank 0, 0⟩ := by decide +kernel
theorem test_PowerAndSystemSteps_governor : let s := { ev (W.modDie 0 (fun d => { d with window := 256 })) 0 0 with
      cur := { Cur.none with inp := .measured ⟨0, 0, 0, []⟩ } }
    s.up = true ∧ s.cur.inp = .measured ⟨0, 0, 0, []⟩ ∧ 256 ≤ (s.die s.cur.a).window ∧
      (s.die s.cur.a).windows ≤ (s.die (1 - s.cur.a)).windows := by decide +kernel


/-! ### The system's own steps -/

/-- No storage of W wakes. -/
theorem awake {s : State} (h : s.tiles = W.tiles) : noWaking s := fun e he =>
  List.isEmpty_iff.mp (List.all_eq_true.mp (show W.tiles.all (fun e => e.2.waking.isEmpty) = true by decide +kernel) e (h ▸ he))

/-- A ring that waits for an object. -/
def ringWaits (n : Nat) : State := ev (W.modVif 0 (fun v => { v with waiting := some ⟨0x30000, 0, n, 0⟩ })) 0 0
theorem test_PowerAndSystemSteps_wait : let s := ringWaits 1
    accessOk s (hostAgent 0) false true (0x30000 : W64).toNat 8 ∧ Claims.placed s (hostAgent 0) false (0x30000 : W64).toNat 0 0x30000 ∧
      s.up = true ∧ (s.vif s.cur.a).enabled = true ∧ (s.vif s.cur.a).waiting = some ⟨0x30000, 0, 1, 0⟩ ∧
      memNat s.view 0x30000 8 % 2 ^ 48 < 1 ∧ memNat s.view 0x30000 8 / 2 ^ 48 = 0 :=
  ⟨access_of 0x30000 (by decide +kernel) rfl, by unfold Claims.placed; decide +kernel, by decide +kernel⟩
theorem test_PowerAndSystemSteps_wait_over : let s := ringWaits 0
    accessOk s (hostAgent 0) false true (0x30000 : W64).toNat 8 ∧ 0 ≤ memNat s.view 0x30000 8 % 2 ^ 48 :=
  ⟨access_of 0x30000 (by decide +kernel) rfl, Nat.zero_le _⟩
theorem test_PowerAndSystemSteps_scale : let s := ev ({ W with launches := [] }.modCtx 0 (fun c => { c with
      stepOpen := true, stepClosing := true, stepMark := 1 })) 0 0
    s.up = true ∧ (s.ctx s.cur.a).stepClosing = true ∧ s.launches = [] := by decide +kernel
theorem test_PowerAndSystemSteps_awake : noWaking (ringWaits 0) ∧
    noWaking (ev ({ W with launches := [] }.modCtx 0 (fun c => { c with stepOpen := true, stepClosing := true, stepMark := 1 })) 0 0) :=
  ⟨awake rfl, awake rfl⟩
theorem test_PowerAndSystemSteps_scale_waits : let s := ev (W.modCtx 0 (fun c => { c with stepClosing := true, stepMark := 1 })) 0 0
    ∃ l L, (l, L) ∈ s.launches ∧ L.ctx = s.cur.a ∧ L.status = none ∧ l < (s.ctx s.cur.a).stepMark :=
  ⟨0, _, List.mem_cons_self, by decide +kernel⟩
theorem test_PowerAndSystemSteps_attcfg : let v : W64 := 0x0228004020031000
    attField v 60 4 = 0 ∧ 1 ≤ attField v 56 4 ∧ 1 ≤ attField v 52 4 ∧ 4 ≤ attField v 48 4 ∧ 1 ≤ attField v 32 16 ∧
      64 ≤ attField v 20 12 ∧ 2 * attField v 20 12 < attField v 0 16 ∧ 2 ≤ attField v 16 4 ∧ 1024 ≤ attField v 0 16 ∧
      2 * (attField v 0 16 + attField v 20 12) ≤ attField v 32 16 * 256 := by decide +kernel
theorem test_PowerAndSystemSteps_errcnt : attField (2 ^ 55 : W64) 56 8 = 0 ∧ attField (2 ^ 56 : W64) 56 8 ≠ 0 ∧
    (W.up = true ∧ ({ Cur.none with inp := .value (2 ^ 55) } : Cur).inp = .value (2 ^ 55) ∧ W.cur.a < 200) := by decide +kernel
theorem test_PowerAndSystemSteps_ceiling : 1200 ≤ (1200 : W64).toNat ∧ (3000 : W64).toNat ≤ 3000 ∧ W.up = true := by decide +kernel
theorem test_PowerAndSystemSteps_links : (4095 : W64).toNat < 4096 ∧ (63 : Nat) < 64 ∧ (SysReg.pwrceil ≠ .peerLinks 0) ∧
    ({ Cur.none with inp := .sysRead (.attstat 3) } : Cur).inp = .sysRead (.attstat 3) := by decide +kernel
theorem test_PowerAndSystemSteps_bringUp : State.reset.up = false ∧ State.reset.inRecovery = false ∧ W.up = true := by decide +kernel

/-! ### Attendants -/

/-- Tile 0 has a message of its neighbour to the east, and what it knows of it. -/
def hears (w : W64) (f : Watch → Watch) : State :=
  ev ((W.modAtt 0 (fun a => { a with bufs := [(1, [w])] })).modWatch 0 1 f) 0 1
/-- SHA-512 of "abc" (FIPS 180-4). -/
theorem test_PowerAndSystemSteps_sha : shaBytes [0x61, 0x62, 0x63] = beBytes 64
    0xddaf35a193617abacc417349ae20413112e6fa4e89a97ea20a9eeee64b55d39a2192992a274fc1a836ba3c23a3feebbd454d4423643ce80e2a9ac94fa54ca49f := by
  decide +kernel
/-- Nothing is to be judged in a device whose attendants have seen nothing. -/
theorem test_VoteSteps_quiet : votesQuiet W := fun a y d w x h => by
  rw [show W.atts = [] from rfl] at h
  cases h
theorem test_HeartbeatSteps_send : (W.att 0).toBeat = 0 ∧ ((W.modAtt 0 (fun a => { a with toBeat := 7 })).att 0).toBeat ≠ 0 ∧
    W.up = true := by decide +kernel
/-- A heartbeat of tile 1. -/
def beat : W64 := 1 * 2 ^ 60 + 1 * 2 ^ 52
theorem test_HeartbeatSteps_good : let s := hears beat id
    let y := s.watch 0 1
    s.up = true ∧ nbr 0 1 = some 1 ∧ tget [] (s.att 0).bufs 1 = beat :: [] ∧ letterType beat = 1 ∧ letterFrom beat = 1 ∧
      y.msgs < attField (s.att 0).cfg 48 4 ∧ attField beat 48 4 = 0 ∧ y.beat = none ∧ y.vote ≠ .voting := by decide +kernel
theorem test_HeartbeatSteps_withdraws : let s := hears beat (fun y => { y with vote := .voting, reason := 1 })
    (s.watch 0 1).vote = .voting ∧ (s.watch 0 1).reason = 1 := by decide +kernel
theorem test_HeartbeatSteps_anomaly : let s := hears beat (fun y => { y with beat := some (4096, 0) })
    let y := s.watch 0 1
    y.beat = some (4096, 0) ∧ (BitVec.ofNat 32 (attField beat 16 32) : W32) ≠ 0 + 1 ∧
      (0 :: y.anoms).countP (fun t => t ≤ voteWindow (s.att 0).cfg) < attField (s.att 0).cfg 52 4 := by decide +kernel
theorem test_HeartbeatSteps_evidence : let s := hears beat (fun y => { y with beat := some (0, 0), anoms := [0, 0, 0] })
    let y := s.watch 0 1
    attField (s.att 0).cfg 52 4 ≤ (List.replicate 2 0 ++ y.anoms).countP (fun t => t ≤ voteWindow (s.att 0).cfg) ∧ y.vote = .clear := by
  decide +kernel
theorem test_HeartbeatSteps_cordoned : (hears beat (fun y => { y with vote := .cordoned, anoms := [0, 0, 0] })).watch 0 1 ≠ Watch.init := by
  decide +kernel
/-- The neighbour to the east has been silent for so long. -/
def silent (n misses : Nat) (v : VoteState) : State :=
  ev (W.modWatch 0 1 (fun y => { y with since := n, misses := misses, vote := v })) 0 1
theorem test_HeartbeatSteps_miss : let s := silent 4608 0 .clear
    let y := s.watch 0 1
    attField (s.att 0).cfg 0 16 + attField (s.att 0).cfg 20 12 ≤ y.since ∧ tget [] (s.att 0).bufs 1 = [] ∧
      min 15 (y.misses + 1) < attField (s.att 0).cfg 16 4 ∧ nbr 0 1 = some 1 ∧ s.up = true :=
  ⟨by decide +kernel, by decide +kernel, by decide +kernel, by decide +kernel, by decide +kernel⟩
theorem test_HeartbeatSteps_missed : let s := silent 4608 2 .clear
    attField (s.att 0).cfg 16 4 ≤ min 15 ((s.watch 0 1).misses + 1) ∧ (s.watch 0 1).vote = .clear := by decide +kernel
theorem test_HeartbeatSteps_missed_voting : ((silent 4608 2 .voting).watch 0 1).vote = .voting ∧
    (silent 4607 2 .voting |>.watch 0 1).since < 4096 + 512 := by decide +kernel
theorem test_HeartbeatSteps_unassigned : let w : W64 := 9 * 2 ^ 60 + 1 * 2 ^ 52
    let s := hears w id
    tget [] (s.att 0).bufs 1 = w :: [] ∧ 9 ≤ letterType w ∧ nbr 0 1 = some (letterFrom w) ∧
      (s.watch 0 1).msgs < attField (s.att 0).cfg 48 4 ∧
      (0 :: (s.watch 0 1).anoms).countP (fun t => t ≤ voteWindow (s.att 0).cfg) < attField (s.att 0).cfg 52 4 := by decide +kernel
theorem test_HeartbeatSteps_unassigned_routed : ∀ e, e < 4 → nbr 0 e ≠ some (letterFrom (9 * 2 ^ 60 + 0x44 * 2 ^ 52 : W64)) := by
  decide +kernel

/-- Tile 0 has a message that a tile at (4, 4) sent about its neighbour to the east. -/
def told (w : W64) (f : Watch → Watch) : State :=
  ev ((W.modAtt 0 (fun a => { a with bufs := [(4, [w])] })).modWatch 0 1 f) 0 4
/-- A message of the tile at (4, 4) about tile 1. -/
def news (ty rest : Nat) : W64 := BitVec.ofNat 64 (ty * 2 ^ 60 + 44 * 2 ^ 52 + 1 * 2 ^ 44 + rest)
theorem test_VoteSteps : let w := news 2 (1 * 2 ^ 42)
    let s := told w id
    s.up = true ∧ nbr 0 1 = some 1 ∧ tget [] (s.att 0).bufs 4 = w :: [] ∧ letterAbout w = 1 ∧
      (∀ e, e < 4 → nbr 0 e ≠ some (letterFrom w)) ∧ attField w 0 42 = 0 ∧ letterReason w = 1 ∧ letterType w = 2 ∧
      (s.watch 0 1).vote = .clear := by decide +kernel
theorem test_VoteSteps_states : (∀ v : VoteState, v = ((told (news 2 0) (fun y => { y with vote := v })).watch 0 1).vote) ∧
    letterType (news 3 0) = 3 ∧ letterType (news 4 0) = 4 := by
  refine ⟨fun v => ?_, by decide, by decide⟩
  cases v <;> decide +kernel
/-- The sender itself is cordoned, and its message does not count. -/
theorem test_VoteSteps_sender : let s := (told (news 2 0) id).modTile (ofAttNo 44) (fun t => { t with cordoned := true })
    (s.tile (letterFrom (news 2 0))).cordoned = true ∧ ((told (news 2 0) id).tile (letterFrom (news 2 0))).cordoned = false := by
  decide +kernel
/-- The window of a vote on the neighbour to the east ends with this tally. -/
def windowEnds (ps : List Nat) (v : VoteState) : State := ev (W.modWatch 0 1 (fun y => { y with vote := v, tally := ps })) 0 1
theorem test_VoteSteps_window : let s := windowEnds [0] .voting
    (s.up = true ∧ (s.watch 0 1).window = 0 ∧ (s.watch 0 1).vote = .voting ∧ nbr 0 1 = some 1 ∧
      ¬ inMajority s 1 (s.watch 0 1).tally.length) ∧ inMajority (windowEnds [0, 2, 101] .voting) 1 3 ∧
    ((windowEnds [0] .pending).watch 0 1).vote = .pending ∧ ((windowEnds [0] .clear).watch 0 1).vote = .clear := by decide +kernel
theorem test_VoteSteps_cordon : let w := news 5 (1 * 2 ^ 42 + 2 ^ 38 + 2 ^ 39 + 2 ^ 40)
    let s := told w id
    tget [] (s.att 0).bufs 4 = w :: [] ∧ letterType w = 5 ∧ (∀ e, e < 4 → nbr 0 e ≠ some (letterFrom w)) ∧ attField w 0 38 = 0 ∧
      letterReason w = 1 ∧ inMajority s 1 (letterMask w) ∧ nbr 0 1 = some (letterAbout w) ∧ (s.watch 0 1).vote ≠ .cordoned := by
  decide +kernel
theorem test_VoteSteps_cordon_few : ¬ inMajority W 1 (letterMask (news 5 (2 ^ 38))) := by decide +kernel

/-- A cordoned tile. -/
def outcast (testing : Bool) (appeals : Nat) : State :=
  ev ((W.modTile 0 (fun t => { t with cordoned := true })).modAtt 0 (fun a => { a with testing := testing, appeals := appeals })) 0 0
theorem not_under {s : State} {x : Nat} (h : ∀ q ∈ [0, 1, 2, 3].filterMap (nbr x), ∀ d, d < 4 →
      (s.watch q d).verdicts = none ∧ tget [] (s.att q).bufs d = []) :
    ¬ ∃ q d, nbr q d = some x ∧ d < 4 ∧ ([0, 1, 2, 3].filterMap (nbr x)).contains q = true ∧
      ((s.watch q d).verdicts ≠ none ∨ ∃ w, w ∈ tget [] (s.att q).bufs d ∧ letterType w = 6) := by
  rintro ⟨q, d, -, hd, hq, hv⟩
  obtain ⟨h1, h2⟩ := h q (List.contains_iff_mem.mp hq) d hd
  rcases hv with hv | ⟨w, hw, -⟩
  · exact hv h1
  · rw [h2] at hw
    cases hw
theorem test_AppealSteps_test : let s := outcast true 2
    (s.up = true ∧ (s.tile s.cur.a).cordoned = true ∧ (s.att s.cur.a).testing = true ∧ (s.att s.cur.a).state ≠ 3 ∧
      (s.att s.cur.a).appeals < 3) ∧
    ¬ ∃ q d, nbr q d = some s.cur.a ∧ d < 4 ∧ ([0, 1, 2, 3].filterMap (nbr s.cur.a)).contains q = true ∧
      ((s.watch q d).verdicts ≠ none ∨ ∃ w, w ∈ tget [] (s.att q).bufs d ∧ letterType w = 6) :=
  ⟨by decide +kernel, not_under (by decide +kernel)⟩
theorem test_AppealSteps_test_over : ((outcast true 3).att 0).appeals = 3 ∧ ((outcast false 0).att 0).testing = false := by
  decide +kernel
/-- An appeal of tile 1. -/
def appealOf (n sig : Nat) : W64 := BitVec.ofNat 64 (6 * 2 ^ 60 + 1 * 2 ^ 52 + n * 2 ^ 48 + sig)
theorem test_AppealSteps_appeal : let w := appealOf 1 State.reset.golden.toNat
    let s := hears w (fun y => { y with vote := .cordoned })
    (s.up = true ∧ s.cur.b = 1 ∧ nbr 0 1 = some (letterFrom w) ∧ tget [] (s.att 0).bufs 1 = w :: [] ∧ letterType w = 6 ∧
      attField w 32 16 = 0 ∧ (s.watch 0 1).msgs < attField (s.att 0).cfg 48 4 ∧ (s.watch 0 1).vote = .cordoned) ∧
    (attField w 0 32 = s.golden.toNat ∧ 1 ≤ attField w 48 4 ∧ attField w 48 4 ≤ 3) := by decide +kernel
theorem test_AppealSteps_appeal_bad : attField (appealOf 4 0) 48 4 = 4 ∧ ((hears 0 id).watch 0 1).vote ≠ .cordoned := by decide +kernel
theorem test_AppealSteps_verdict : let w := news 7 (2 ^ 43)
    let s := told w (fun y => { y with vote := .cordoned, verdicts := some 9 })
    letterAbout w = 1 ∧ letterType w = 7 ∧ attField w 0 43 = 0 ∧ w.getLsbD 43 = true ∧ (s.watch 0 1).vote = .cordoned ∧
      (s.watch 0 1).verdicts ≠ none ∧ (s.tile (letterFrom w)).cordoned = false ∧ (news 7 0).getLsbD 43 = false := by decide +kernel
theorem test_AppealSteps_readmit : let w := news 8 (2 ^ 38 + 2 ^ 39 + 2 ^ 40)
    let s := told w (fun y => { y with vote := .cordoned })
    letterType w = 8 ∧ attField w 0 38 = 0 ∧ attField w 42 2 = 0 ∧ inMajority s (letterAbout w) (letterMask w) ∧
      (s.watch 0 1).vote = .cordoned := by decide +kernel
/-- Tile 0's verdicts on its neighbour to the east, which is cordoned, are due. -/
def judged (appeals : Nat) : State :=
  ev (((W.modWatch 0 1 (fun y => { y with verdicts := some 0 })).modTile 1 (fun t => { t with cordoned := true })).modAtt 1
    (fun a => { a with appeals := appeals })) 0 1
theorem test_AppealSteps_windowEnd : ∀ n, n = 2 ∨ n = 3 → let s := judged n
    let u := s.modWatch 0 1 (fun y => { y with verdicts := none, accepts := [] })
    (s.up = true ∧ nbr 0 1 = some 1 ∧ (s.watch 0 1).verdicts = some 0 ∧ (s.tile 1).cordoned = true ∧ (s.att 1).state ≠ 3 ∧
      (s.att 1).appeals = n ∧ ¬ inMajority s 1 (s.watch 0 1).accepts.length) ∧
    ¬ ∃ q d, nbr q d = some 1 ∧ d < 4 ∧ ([0, 1, 2, 3].filterMap (nbr 1)).contains q = true ∧
      ((u.watch q d).verdicts ≠ none ∨ ∃ w, w ∈ tget [] (u.att q).bufs d ∧ letterType w = 6) := by
  rintro n (rfl | rfl) <;> exact ⟨by decide +kernel, not_under (by decide +kernel)⟩

theorem test_AppealSteps_windowEnd_kept : let s := (judged 1).modWatch 0 1 (fun y => { y with accepts := [0, 2, 101] })
    (s.watch 0 1).verdicts = some 0 ∧ inMajority s 1 (s.watch 0 1).accepts.length := by decide +kernel

/-! ### The host -/

/-- A transaction of the host. -/
def sends (x : Input) : State := { W with cur := { Cur.none with inp := x } }
theorem walk_unit {s : State} {ag : Agent} {w : Bool} {a b : Nat} (h : a / 65536 = b / 65536) (ha : a < spaceStep) (hb : b < spaceStep)
    (hw : isOk (xlByte s ag w a) = true) (hq : s.quar = []) : isOk (xlByte s ag w b) = true := by
  have e1 : ∀ l, lvlIndex l a = lvlIndex l b := fun l => by
    unfold lvlIndex bitsN
    split <;> omega
  have e2 : ∀ (m : List Host.Cell) (p : List Nat) (l t : Nat), walkFrom m p l t a = walkFrom m p l t b := fun m p l => by
    induction l with
    | zero => intro t; unfold walkFrom leafOf; simp only [e1, h]
    | succ l ih => intro t; unfold walkFrom leafOf; simp only [e1, h, ih]
  have e3 : unitEntry s ag a = unitEntry s ag b := by unfold unitEntry cachedWalks tlbKey; rw [h, e2]
  have e4 : ∀ e, (bitsN e 7 2 == 0 && decide (hbmSize ≤ pteKey e b)) = (bitsN e 7 2 == 0 && decide (hbmSize ≤ pteKey e a)) := fun e => by
    cases hz : bitsN e 7 2 == 0 with
    | false => rfl
    | true =>
      simp only [Bool.true_and, decide_eq_decide, pteKey, hbmSize, eq_of_beq hz]
      omega
  unfold xlByte at hw ⊢
  rw [if_pos ha] at hw
  rw [if_pos hb, ← e3]
  cases hu : unitEntry s ag a with
  | poisoned => rw [hu] at hw; cases hw
  | none => rw [hu] at hw; cases hw
  | badLeaf e => rw [hu] at hw; simp only at hw; cases hw
  | leaf e =>
    rw [hu] at hw
    simp only [hq, List.contains_nil, Bool.or_false] at hw ⊢
    generalize (!(if w = true then e.testBit 3 else e.testBit 2)) = g at hw ⊢
    rw [e4]
    generalize (bitsN e 7 2 == 0 && decide (hbmSize ≤ pteKey e a)) = z at hw ⊢
    generalize (bitsN e 7 2 == 2 && s.peerGone (bitsN e 10 6)) = p at hw ⊢
    generalize e.testBit 9 = r at hw ⊢
    cases g <;> cases z <;> cases p <;> cases r <;> first | rfl | cases hw
theorem good_of {s : State} {ag : Agent} {w : Bool} {va n : Nat} (hp : s.poison = []) (hq : s.quar = [])
    (hv : va % 65536 + n ≤ 65536) (hs : va + n ≤ spaceStep) (h : isOk (xlByte s ag w va) = true) : rangeGood s ag w va n := fun i hi => by
  have hs' : va + n ≤ 2 ^ 52 := hs
  have h1 := walk_unit (b := (va + i) % 2 ^ 64) (by omega) (by unfold spaceStep; omega) (by unfold spaceStep; omega) h hq
  unfold isOk at h1
  split at h1
  · next k e => exact ⟨k, e, by rw [hp]; rfl⟩
  · cases h1
theorem test_HostTransactions_mrd : let s := sends (.mrd 0x30000 256)
    s.cur.inp = .mrd 0x30000 256 ∧ hostReaches s 0 ∧ rangeGood s (hostAgent 0) false (0x30000 : W64).toNat 256 :=
  ⟨rfl, by unfold hostReaches; decide +kernel, good_of rfl rfl (by decide) (by decide) (by decide +kernel)⟩
theorem test_HostTransactions_awake (x : Input) : noWaking (sends x) := awake rfl
theorem test_HostTransactions_fails : rangeFails W (hostAgent 0) false 0x40000 1 :=
  ⟨fun i h => by obtain rfl : i = 0 := by omega
                 decide +kernel,
    0, by decide, fun k h => by
      have : isOk (xlByte W (hostAgent 0) false ((0x40000 + 0) % 2 ^ 64)) = false := by decide +kernel
      rw [h] at this
      cases this⟩
theorem test_HostTransactions_mwr : let s := sends (.mwr 0x30000 [7])
    s.cur.inp = .mwr 0x30000 [7] ∧ hostReaches s 0 ∧ rangeGood s (hostAgent 0) true (0x30000 : W64).toNat 1 :=
  ⟨rfl, by unfold hostReaches; decide +kernel, good_of rfl rfl (by decide) (by decide) (by decide +kernel)⟩
theorem test_HostTransactions_matom : let s := sends (.matom 0x30000 .add .f32 5 0)
    s.cur.inp = .matom 0x30000 .add .f32 5 0 ∧ hostReaches s 0 ∧ hostAtomic .add .f32 ∧ (5 : W64).toNat < 2 ^ bitsOf .f32 ∧
      (0x30000 : W64).toNat % 4 = 0 ∧ rangeGood s (hostAgent 0) true (0x30000 : W64).toNat 4 ∧
      Claims.placed s (hostAgent 0) true (0x30000 : W64).toNat 0 0x30000 :=
  ⟨rfl, by unfold hostReaches; decide +kernel, by unfold hostAtomic; decide, by decide, by decide, good_of rfl rfl (by decide) (by decide) (by decide +kernel), by unfold Claims.placed; decide +kernel⟩
theorem test_HostTransactions_matom_refused : ¬ hostAtomic .add .f64 ∧ ¬ hostAtomic .and .f32 ∧ hostAtomic .cas .f32 := by
  unfold hostAtomic; decide
theorem test_HostTransactions_dbell : W.up = true ∧ (W.vif 0).enabled = true ∧ (W.vif 1).enabled = false := by decide +kernel
theorem test_HostTransactions_mgmt : W.up = true ∧ W.inRecovery = false ∧ (W.vif 1).enabled = false ∧
    settingRange W 1 (.ringBase) 64 ∧ settingRange W 1 (.root 15) 0x10000 ∧ ¬ settingRange W 1 (.ringSize) 5 ∧
    (sends (.mgmt .status)).cur.inp = .mgmt .status ∧ State.reset.up = false := by
  unfold settingRange; decide +kernel
theorem test_HostTransactions_enable : let v : Vif := { Vif.init with ringBase := 64, ringK := 6, faultBase := 32, faultK := 4, saveBase := 4096, saveSize := 4096, share0 := 1, share1 := 96 }
    interfaceWhole v ∧ v.enabled = false ∧ ¬ interfaceWhole Vif.init := by unfold interfaceWhole; decide +kernel

/-- A command slot. -/
def slotOf (op a0 a1 a2 : Nat) : Nat := op + a0 * 2 ^ 64 + a1 * 2 ^ 128 + a2 * 2 ^ 192
/-- A ring of the first interface that holds it. -/
def ring (w : Nat) : State :=
  bytesAt ((ev W 0 0).modVif 0 (fun v => { v with ringBase := 0x500000, ringK := 6, tail := 1 })) 0x500000 (leBytes 64 w)
theorem command_of {s : State} {ctx w op : Nat} (h : (s.up = true ∧ (s.vif 0).enabled = true ∧ (s.vif 0).waiting = none ∧
      (s.vif 0).head ≠ (s.vif 0).tail ∧
      w = leNat 64 ((List.range 64).map (fun i => s.peek ((s.vif 0).ringBase.toNat + 64 * ((s.vif 0).head % 2 ^ (s.vif 0).ringK) + i))) ∧
      ctx = 0 * 16 + slotField w 8 4) ∧
      (1 ≤ slotField w 0 8 ∧ slotField w 0 8 ≤ 10 ∧ slotField w 12 52 = 0 ∧ slotField w 256 192 = 0 ∧ (s.ctx ctx).root ≠ 0 ∧
        (slotField w 448 64 = 0 ∨ slotField w 448 64 % 8 = 0 ∨ slotField w 448 64 % 16 = 1)) ∧
      slotField w 0 8 = op ∧ (s.ctx ctx).stopped = false) (hp : s.poison = [])
    (hw : s.tiles.all (fun e => e.2.waking.isEmpty) = true) : command s 0 ctx w op := by
  obtain ⟨⟨h1, h2, h3, h4, h5, h6⟩, h7, h8, h9⟩ := h
  exact ⟨⟨h1, h2, h3, h4, h5, fun _ _ => by rw [hp]; rfl, h6, fun e he => List.isEmpty_iff.mp (List.all_eq_true.mp hw e he)⟩, h7, h8,
    .inl h9⟩
theorem test_RingCommands_launch : command (ring (slotOf 1 0x30000 0 0)) 0 0 (slotOf 1 0x30000 0 0) 1 ∧ slotA0 (slotOf 1 0x30000 0 0) % 64 = 0 ∧
    rangeGood (ring (slotOf 1 0x30000 0 0)) (hostAgent 0) false 0x30000 64 :=
  ⟨command_of (by decide +kernel) rfl (by decide +kernel), by decide, good_of rfl rfl (by decide) (by decide) (by decide +kernel)⟩
/-- The header of an image of one page in each stream. -/
def header : List Byte :=
  [0x4E424C48, 1, 0x40, 4, 0x44, 0, 0x1000, 0, 256, 0, 0, 0, 0, 0, 0, 0].flatMap (leBytes 4)
/-- The descriptor of one workgroup. -/
def one : Nat := 0x30000 + 2 ^ 288 + 255 * 2 ^ 256
/-- A ring that launches it. -/
def launching : State := bytesAt (bytesAt (ring (slotOf 1 0x20000 0 0)) 0x20000 (leBytes 64 one)) 0x30000 header
theorem test_RingCommands_launch_admitted : let s := launching
    command s 0 0 (slotOf 1 0x20000 0 0) 1 ∧ rangeGood s (hostAgent 0) false 0x20000 64 ∧
      (one = leNat 64 (engBytes s (hostAgent 0) 0x20000 64) ∧ (admissible s 0 one).any (fun e => e.2 == []) = true ∧
        inQueue s 0 (slotField one 281 3) < 1024) :=
  ⟨command_of (by decide +kernel) rfl (by decide +kernel), good_of rfl rfl (by decide) (by decide) (by decide +kernel), by decide +kernel⟩
theorem test_RingCommands_launch_bad : ¬ descriptorFormed 0 ∧ descriptorFormed one := by unfold descriptorFormed; decide +kernel
theorem test_RingCommands_launch_block : let s := (bytesAt launching 0x20000 (leBytes 64 (one + 1 * 2 ^ 240))).modVif 0 (fun v => { v with
      saveBase := 0x10000, saveSize := 0x1000 })
    (admissible s 0 (one + 1 * 2 ^ 240)).any (fun e => e.2 != []) = true ∧ paramSlot s 0 = some 0x10000 ∧ paramSlot launching 0 = none := by
  decide +kernel
theorem test_RingCommands_signal : command (ring (slotOf 2 0x30000 1 0)) 0 0 (slotOf 2 0x30000 1 0) 2 ∧ targetFormed (slotA0 (slotOf 2 0x30000 1 0)) ∧
    ¬ targetFormed 2 := ⟨command_of (by decide +kernel) rfl (by decide +kernel), by unfold targetFormed; decide, by unfold targetFormed; decide⟩
theorem test_RingCommands_wait : let w := slotOf 3 0x30000 1 0
    let s := ring w
    command s 0 0 w 3 ∧ slotA1 w < 2 ^ 48 ∧ accessOk s (hostAgent 0) false true (slotA0 w) 8 ∧
      Claims.placed s (hostAgent 0) false (slotA0 w) 0 0x30000 ∧ memNat s.view 0x30000 8 % 2 ^ 48 < slotA1 w ∧
      memNat s.view 0x30000 8 / 2 ^ 48 = 0 :=
  ⟨command_of (by decide +kernel) rfl (by decide +kernel), by decide, access_of 0x30000 (by decide +kernel) rfl, by unfold Claims.placed; decide +kernel,
    by decide +kernel⟩
theorem test_RingCommands_wait_over : 2 ^ 48 ≤ slotA1 (slotOf 3 0x30000 (2 ^ 48) 0) ∧
    slotA1 (slotOf 3 0x30000 0 0) ≤ memNat (ring (slotOf 3 0x30000 0 0)).view 0x30000 8 % 2 ^ 48 := by decide +kernel
theorem test_RingCommands_wrreg : let w := slotOf 4 0x063 (127 * 2 ^ 23) 0
    command (ring w) 0 0 w 4 ∧ slotA0 w = 0x063 ∧ powerWord (slotA1 w) ∧ ((ring w).ctx 0).stepOpen = false ∧ ¬ powerWord 1 ∧
      settingRange (ring w) 0 .gpatCnt 16 ∧ ¬ settingRange (ring w) 0 .gpatCnt 17 :=
  ⟨command_of (by decide +kernel) rfl (by decide +kernel), by decide, by unfold powerWord; decide, by decide +kernel, by unfold powerWord; decide,
    by unfold settingRange; decide +kernel, by unfold settingRange; decide +kernel⟩
theorem test_RingCommands_wrreg_die : let w := slotOf 4 0x045 4096 3
    let s := ring w
    let dies := [0, 1].filter (fun d => (slotA2 w).testBit d)
    command s 0 0 w 4 ∧ slotA2 w < 4 ∧ dies ≠ [] ∧ (∀ d ∈ dies, slotA1 w ≤ (s.dctx (d * 1024 + 0)).bfqmax) ∧
      (∀ d ∈ dies, (s.dctx (d * 1024 + 0)).waiting = []) := ⟨command_of (by decide +kernel) rfl (by decide +kernel), by decide +kernel⟩
theorem test_RingCommands_wrreg_max : let s := ring 0
    4096 ≤ 4096 ∧ (∀ d ∈ [0, 1], (s.dctx (d * 1024 + 0)).bfqthr ≤ 4096) := by decide +kernel
theorem test_RingCommands_wrreg_cabinet : let w := slotOf 4 0x040 0 1
    let s := ring w
    command s 0 0 w 4 ∧ [0, 1].filter (fun d => (slotA2 w).testBit d) = [0] ∧ (∀ d ∈ [0, 1], (s.die d).cab = []) :=
  ⟨command_of (by decide +kernel) rfl (by decide +kernel), by decide +kernel⟩
/-- A command of the context that runs holds the write up, and one of another context does not. -/
theorem test_RingCommands_wrreg_blocked : let s := (ring 0).modDie 0 (fun d => { d with cab := [⟨11, 0, 0, 0, 0, 0, 0, 0, 0, 0, some 0, none⟩] })
    ringBlocked s 0 0 ∧ ¬ ringBlocked s 0 5 :=
  ⟨⟨[], _, [], rfl, rfl, Or.inl (by decide)⟩, by
    rintro ⟨p, k, q, h, hc, -⟩
    have hk : k ∈ ((ring 0).modDie 0 (fun d => { d with cab := [⟨11, 0, 0, 0, 0, 0, 0, 0, 0, 0, some 0, none⟩] }) |>.die 0).cab := by
      rw [h]; simp
    have := List.mem_singleton.mp hk
    rw [this] at hc
    exact absurd hc (by decide)⟩
theorem test_RingCommands_depth : let w := slotOf 5 0x8001 0 3
    command (ring w) 0 0 w 5 ∧ slotA2 w < 4 ∧ (∀ e ∈ (List.range 16).map (fun i => slotField (slotA0 w + slotA1 w * 2 ^ 64) (8 * i) 8), e ≤ 128) :=
  ⟨command_of (by decide +kernel) rfl (by decide +kernel), by decide +kernel⟩
theorem test_RingCommands_inval : let w := slotOf 6 0x10000 0x10000 0
    command (ring w) 0 0 w 6 ∧ slotA0 w + slotA1 w ≤ 2 ^ 52 := ⟨command_of (by decide +kernel) rfl (by decide +kernel), by decide⟩
theorem test_RingCommands_stepbegin : command (ring (slotOf 7 0 0 0)) 0 0 (slotOf 7 0 0 0) 7 ∧ ((ring (slotOf 7 0 0 0)).ctx 0).stepOpen = false :=
  ⟨command_of (by decide +kernel) rfl (by decide +kernel), by decide +kernel⟩
theorem test_RingCommands_stepend : let s := (ring (slotOf 8 0 0 0)).modCtx 0 (fun c => { c with stepOpen := true })
    command s 0 0 (slotOf 8 0 0 0) 8 ∧ (s.ctx 0).stepOpen = true ∧ (s.ctx 0).stepClosing = false :=
  ⟨command_of (by decide +kernel) rfl (by decide +kernel), by decide +kernel⟩
theorem test_RingCommands_ctxreset : command (ring (slotOf 10 0 0 0)) 0 0 (slotOf 10 0 0 0) 10 := command_of (by decide +kernel) rfl (by decide +kernel)
theorem test_RingCommands_refused : let s := (ring (slotOf 2 0 0 0)).modCtx 0 (fun c => { c with stopped := true })
    let t := ring 11
    (s.ctx 0).stopped = true ∧ slotFormed s 0 (slotOf 2 0 0 0) ∧ ¬ slotFormed t 0 11 := by
  unfold slotFormed targetFormed; decide +kernel

/-- The ring that writes the page of the first 64 KiB. -/
def paging : State := ring (slotOf 9 0 0x10000 0)
theorem test_RingCommands_pagewr : let s := paging
    let w := slotOf 9 0 0x10000 0
    (command s 0 0 w 9 ∧ Memory.wf s.mem = true ∧ s.poison = []) ∧
    (((ctxPages s 0).find? (fun p => p.va == slotA0 w)).any (fun p => p == ⟨0, 65536, 0x430000, 0xF⟩ && pteKey p.pte p.va == 0) = true ∧
      0x430000 % 8 = 0 ∧ slotA1 w + 65536 ≤ 2 ^ 52) ∧
    rangeGood s (hostAgent 0) false (slotA1 w) 65536 :=
  ⟨⟨command_of (by decide +kernel) rfl (by decide +kernel), by decide +kernel, rfl⟩, by decide +kernel,
    good_of rfl rfl (by decide) (by decide) (by decide +kernel)⟩
theorem pages_nil {m : List Host.Cell} {n : Nat} (hm : ∀ k, n ≤ k → memNat m k 8 = 0) {t : Nat} (ht : n ≤ t) (l v : Nat) :
    pagesUnder m l t v = [] := by
  unfold pagesUnder
  refine List.flatMap_eq_nil_iff.mpr fun i _ => ?_
  simp only [hm (t + 8 * i) (by omega)]
  rfl
theorem memNat_zero {m : List Host.Cell} {n : Nat} (h : ∀ e ∈ m, e.1 < n) (k : Nat) (hk : n ≤ k) : memNat m k 8 = 0 := by
  have h0 : ∀ i, memByte m (k + i) = 0 := fun i => by
    unfold memByte tget
    cases hg : tget? m (k + i) with
    | none => rfl
    | some b => exact absurd (h _ (mem_of_tget hg)) (by simp only; omega)
  have : memBytes m k 8 = List.replicate 8 0 := by
    unfold memBytes
    simp only [h0]
    rfl
  unfold memNat
  rw [this]
  rfl
theorem test_RingCommands_pagewr_unmapped : let s := paging.modCtx 0 (fun c => { c with root := 0x600000 })
    (ctxPages s 0).find? (fun p => p.va == 0) = none := by
  have h : ctxPages (paging.modCtx 0 (fun c => { c with root := 0x600000 })) 0 = [] := by
    unfold ctxPages
    exact pages_nil (n := 0x600000) (memNat_zero (by decide +kernel)) (by decide +kernel) 3 0
  show List.find? _ (ctxPages _ 0) = none
  rw [h]
  rfl

/-! ### Decoding: a word of every row, put together from the tables of the spec's encodings -/

/-- Whether a scalar word stands for an instruction, with a source register of its own where it has one. -/
def reads (e : Nat × Instr × SReg) : Bool :=
  decide (decodeScalar (BitVec.ofNat 32 e.1) 0 = .ok e.2.1 ⟨⟨0, false, 0⟩, e.2.2, 0⟩) && e.2.1.wf
/-- Whether a lane word stands for an instruction, under (!p3) unless it takes no guard, with the stall count 6. -/
def readsL (e : Nat × Instr) : Bool :=
  decide (decodeLane (BitVec.ofNat 96 e.1) = .ok e.2 ⟨if e.2.unguarded then ⟨0, false, 6⟩ else ⟨3, true, 6⟩, 0, 0⟩) && e.2.wf
theorem test_decode_scalar_0 : ([
    (0x02958D01, .add 41 22 13, 0),
    (0x02958D02, .sub 41 22 13, 0),
    (0x02958D03, .mul 41 22 13, 0),
    (0x02958D04, .mulhI64 41 22 13, 0),
    (0x02958D05, .mulhN64 41 22 13, 0),
    (0x02958D06, .and 41 22 13, 0),
    (0x02958D07, .or 41 22 13, 0),
    (0x02958D08, .xor 41 22 13, 0),
    (0x02958D09, .shl 41 22 13, 0),
    (0x02958D0A, .shr 41 22 13, 0),
    (0x02958D0B, .sar 41 22 13, 0),
    (0x02958D0C, .minI64 41 22 13, 0),
    (0x02958D0D, .maxI64 41 22 13, 0),
    (0x02958D0E, .minN64 41 22 13, 0),
    (0x02958D0F, .maxN64 41 22 13, 0),
    (0x04658D12, .cmp .lt true 6 22 13, 0),
    (0x0A95BFEC, .addi 41 22 16364, 0),
    (0x0E95BFEB, .andi 41 22 16363, 0),
    (0x1295BFEA, .ori 41 22 16362, 0),
    (0x1695BFE9, .xori 41 22 16361, 0),
    (0x1A95802B, .shli 41 22 43, 0),
    (0x1E95802B, .shri 41 22 43, 0),
    (0x2295802B, .sari 41 22 43, 0),
    (0x2695BFE5, .muli 41 22 16357, 0)
    ] : List (Nat × Instr × SReg)).all reads = true := by decide +kernel
theorem test_decode_scalar_1 : ([
    (0x2A9FFFE4, .movi 41 1048548, 0),
    (0x2E9FFFE3, .la 41 1048547, 0),
    (0x32958D65, .adds 41 22 13 37, 0),
    (0x32958DA5, .addsw 41 22 13 37, 0),
    (0x32958DC0, .hins 41 22 13, 0),
    (0x36958028, .sext .b16 41 22, 0),
    (0x36958048, .zext .b16 41 22, 0),
    (0x36958D60, .ext 41 22 13, 0),
    (0x36958D80, .exts 41 22 13, 0),
    (0x36958DA0, .ins 41 22 13, 0),
    (0x369580C0, .clz 41 22, 0),
    (0x369580E0, .popc 41 22, 0),
    (0x3A958D0D, .csel 41 22 13 5 true, 0),
    (0x4295BFD7, .ldN8 41 22 16343, 0),
    (0x4695BFD6, .ldN16 41 22 16342, 0),
    (0x4A95BFD5, .ldN32 41 22 16341, 0),
    (0x4E95BFD4, .ldN64 41 22 16340, 0),
    (0x5295BFD3, .stN8 41 22 16339, 0),
    (0x5695BFD2, .stN16 41 22 16338, 0),
    (0x5A95BFD1, .stN32 41 22 16337, 0),
    (0x5E95BFD0, .stN64 41 22 16336, 0),
    (0x62FFFFFB, .br 5 true 4194299, 0),
    (0x66FFFFFB, .call 5 true 4194299, 0),
    (0x68058001, .jr 22, 0)
    ] : List (Nat × Instr × SReg)).all reads = true := by decide +kernel
theorem test_decode_scalar_2 : ([
    (0x68058002, .ret 22, 0),
    (0x6C058100, .jt 22 256, 0),
    (0x70058100, .callt 22 256, 0),
    (0x80081234, .lpost 528948, 0),
    (0x84000000, .lsync, 0),
    (0x8A900081, .srr 41 129, 0),
    (0x8C058061, .srw 97 22, 0),
    (0x8C058013, .srwBudleft, 22),
    (0x8C058040, .srwDdbase, 22),
    (0x8C058041, .srwDdcap, 22),
    (0x8C058042, .srwVobase, 22),
    (0x8C058043, .srwVocount, 22),
    (0x8C058044, .srwSpecdepth, 22),
    (0x8C058045, .srwBfqthr, 22),
    (0x8C058046, .srwBfqmax, 22),
    (0x900FFFBD, .tgtBind 1048509, 0),
    (0x9A958072, .ldScoped .w4 .dv 41 22, 0),
    (0x98058D76, .stScoped .w4 .dv 22 13, 0),
    (0x98000078, .scalarFence .dv, 0),
    (0x9A958079, .scalarLdy .dv 41 22, 0),
    (0xA2958D32, .copy 41 22 13 50, 0),
    (0xA2958D72, .copyPack 41 22 13 50, 0),
    (0xA2958DB2, .copyUnpack 41 22 13 50, 0),
    (0xA6958DFB, .yieldc 41 22 13 251, 0)
    ] : List (Nat × Instr × SReg)).all reads = true := by decide +kernel
theorem test_decode_scalar_3 : ([
    (0xA8058D70, .binit .dv 22 13, 0),
    (0xAA958D71, .barr .dv 41 22 13, 0),
    (0xAA958D72, .barrT .dv 41 22 13, 0),
    (0xAA958D73, .barrP .dv 41 22 13, 0),
    (0xAA958D74, .bwait .dv 41 22 13, 0),
    (0xA8058075, .bclr .dv 22, 0),
    (0xA8058D76, .barrMx .dv 22 13, 0),
    (0xAE958D70, .cwait .dv 41 22 13, 0),
    (0xAC058D71, .csig .dv 22 13, 0),
    (0xB0058008, .vdec 22 8, 0),
    (0xB4058D00, .gpatSet 22 13, 0),
    (0xB4058001, .gpatClr 22, 0),
    (0xB6958002, .gpatGet 41 22, 0),
    (0xBA958000, .bfqReg 41 22, 0),
    (0xB8058001, .bfqUnreg 22, 0),
    (0xB8058D02, .bfqSlack 22 13, 0),
    (0xBA958003, .bfqPost 41 22, 0),
    (0xBA958004, .bfqTake 41 22, 0),
    (0xBA900005, .bfqNext 41, 0),
    (0xB8058D06, .bfqDone 22 13, 0),
    (0xC2958001, .accAlloc 41 22, 0),
    (0xC0058002, .accFree 22, 0),
    (0xC2900003, .accHeld 41, 0),
    (0xC4058001, .rfenceQdAddr 22, 0)
    ] : List (Nat × Instr × SReg)).all reads = true := by decide +kernel
theorem test_decode_scalar_4 : ([
    (0xC4000002, .rfenceQd, 0),
    (0xC4058003, .rfenceDvAddr 22, 0),
    (0xC4000004, .rfenceDv, 0),
    (0xCA900000, .mstat 41, 0),
    (0xC8058071, .mwait .dv 22, 0),
    (0xD2958D09, .rlxBegin 41 22 13 9, 0),
    (0xD6900001, .rlxWait 41, 0),
    (0xD4000002, .rlxAbort, 0),
    (0xE0058D00, .ddMk 22 13, 0),
    (0xE0058D61, .ddApply 22 13 6, 0),
    (0xE0058D02, .ddIte 22 13, 0),
    (0xE0058D03, .ddRestrict 22 13, 0),
    (0xE0058D04, .ddExists 22 13, 0),
    (0xE4058D00, .ddWcount 22 13, 0),
    (0xE4058D01, .ddSatcount 22 13, 0),
    (0xE8058D00, .ddRef 22 13, 0),
    (0xE8058D01, .ddDeref 22 13, 0),
    (0xE8058D02, .ddSwap 22 13, 0),
    (0xE8058D03, .ddOrder 22 13, 0),
    (0xEC000D00, .ddGc 13, 0),
    (0xEC058D01, .ddStat 22 13, 0),
    (0xF0000000, .exit, 0),
    (0xF0000001, .tretRetry, 0),
    (0xF0000002, .tretSkip, 0)
    ] : List (Nat × Instr × SReg)).all reads = true := by decide +kernel
theorem test_decode_scalar_5 : ([
    (0xF0000003, .lflush, 0),
    (0xF40001F5, .trap 501, 0),
    (0xFA958D00, .hgetN32 41 22 13, 0),
    (0xFA958D01, .hgetN64 41 22 13, 0),
    (0xFA958D02, .hgetp 41 22 13, 0),
    (0xFA958003, .hstat 41 22, 0),
    (0xFA958D08, .hputN32 41 22 13, 0),
    (0xFA958D09, .hputN64 41 22 13, 0),
    (0xFA958D0A, .hputp 41 22 13, 0),
    (0xF805800B, .hkill, 22)
    ] : List (Nat × Instr × SReg)).all reads = true := by decide +kernel
theorem test_decode_lane_0 : ([
    (0x005DA0102980C00002000000, .laneAdd ⟨.i32, 1026, .s 41, .v 1030⟩),
    (0x205DA0140400100000002000, .laneAddImm ⟨.i32, 1026, .v 1028, 0x80000001⟩),
    (0x009DA0102980C00042000000, .laneSub ⟨.n32, 1026, .s 41, .v 1030⟩),
    (0x209DA0140400100000002200, .laneSubImm ⟨.n32, 1026, .v 1028, 0x80000001⟩),
    (0x00DDA0102980C00082000000, .laneMul ⟨.i64, 1026, .s 41, .v 1030⟩),
    (0x20DDA0140400100000002400, .laneMulImm ⟨.i64, 1026, .v 1028, 0x80000001⟩),
    (0x011DA0102980C000C2000000, .mulhi ⟨.n64, 1026, .s 41, .v 1030⟩),
    (0x211DA0140400100000002600, .mulhiImm ⟨.n64, 1026, .v 1028, 0x80000001⟩),
    (0x019DA0102980C00102000000, .addsat ⟨.i16, 1026, .s 41, .v 1030⟩),
    (0x219DA0140400100000002800, .addsatImm ⟨.i16, 1026, .v 1028, 0x80000001⟩),
    (0x01DDA0102980C00142000000, .subsat ⟨.n16, 1026, .s 41, .v 1030⟩),
    (0x21DDA0140400100000002A00, .subsatImm ⟨.n16, 1026, .v 1028, 0x80000001⟩),
    (0x021DA0102980C00182000000, .laneAnd ⟨.i8, 1026, .s 41, .v 1030⟩),
    (0x221DA0140400100000002C00, .laneAndImm ⟨.i8, 1026, .v 1028, 0x80000001⟩),
    (0x025DA0102980C001C2000000, .laneOr ⟨.n8, 1026, .s 41, .v 1030⟩),
    (0x225DA0140400100000002E00, .laneOrImm ⟨.n8, 1026, .v 1028, 0x80000001⟩),
    (0x029DA0102980C00002000000, .laneXor ⟨.i32, 1026, .s 41, .v 1030⟩),
    (0x229DA0140400100000002000, .laneXorImm ⟨.i32, 1026, .v 1028, 0x80000001⟩),
    (0x02DDA0102980C00042000000, .andn ⟨.n32, 1026, .s 41, .v 1030⟩),
    (0x22DDA0140400100000002200, .andnImm ⟨.n32, 1026, .v 1028, 0x80000001⟩)
    ] : List (Nat × Instr)).all readsL = true := by decide +kernel
theorem test_decode_lane_1 : ([
    (0x031DA0102980C00082000000, .laneShl ⟨.i64, 1026, .s 41, .v 1030⟩),
    (0x231DA0140400100000002400, .laneShlImm ⟨.i64, 1026, .v 1028, 0x80000001⟩),
    (0x035DA0102980C000C2000000, .laneShr ⟨.n64, 1026, .s 41, .v 1030⟩),
    (0x235DA0140400100000002600, .laneShrImm ⟨.n64, 1026, .v 1028, 0x80000001⟩),
    (0x039DA0102980C00102000000, .laneMin ⟨.i16, 1026, .s 41, .v 1030⟩),
    (0x239DA0140400100000002800, .laneMinImm ⟨.i16, 1026, .v 1028, 0x80000001⟩),
    (0x03DDA0102980C00142000000, .laneMax ⟨.n16, 1026, .s 41, .v 1030⟩),
    (0x23DDA0140400100000002A00, .laneMaxImm ⟨.n16, 1026, .v 1028, 0x80000001⟩),
    (0x049DA0102980C00182000000, .div ⟨.i8, 1026, .s 41, .v 1030⟩),
    (0x249DA0140400100000002C00, .divImm ⟨.i8, 1026, .v 1028, 0x80000001⟩),
    (0x04DDA0102980C001C2000000, .laneRem ⟨.n8, 1026, .s 41, .v 1030⟩),
    (0x24DDA0140400100000002E00, .laneRemImm ⟨.n8, 1026, .v 1028, 0x80000001⟩),
    (0x015D80100400E01881000000, .mad ⟨.i64, 2, .v 4, .s 7, .v 6⟩),
    (0x041DA0140400000180000000, .abs ⟨.i8, 1026, .v 1028⟩),
    (0x045DA0140400000140000000, .neg ⟨.n16, 1026, .v 1028⟩),
    (0x059DA0140400000000000000, .lanePopc ⟨.i32, 1026, .v 1028⟩),
    (0x05DDA01404000000C0000000, .laneClz ⟨.n64, 1026, .v 1028⟩),
    (0x061DA0140400000080000000, .ctz ⟨.i64, 1026, .v 1028⟩),
    (0x065DA01404000001C0000000, .brev ⟨.n8, 1026, .v 1028⟩),
    (0x051D80080300A00001000000, .bfe ⟨.i32, 1, .v 3, .s 5⟩)
    ] : List (Nat × Instr)).all readsL = true := by decide +kernel
theorem test_decode_lane_2 : ([
    (0x251D80080300000001008000, .bfeImm ⟨.i32, 1, .v 3, 0x804⟩),
    (0x055D80080300A00041000000, .bfi ⟨.n32, 1, .v 3, .s 5⟩),
    (0x255D80080300000001008200, .bfiImm ⟨.n32, 1, .v 3, 0x804⟩),
    (0x069D80080300A01A80000001, .sel ⟨.bf16, 1, .v 3, .v 5, 6, true⟩),
    (0x06DD80100300000302000000, .mov ⟨.f64, 2, .s 3⟩),
    (0x26DD80100000000007801200, .movImm ⟨.f16, 2, 0x3C00⟩),
    (0x071D80280300800140018000, .icmp ⟨.le, .n16, 5, .v 3, .v 4⟩),
    (0x271D8028030000000000EC05, .icmpImm ⟨.ge, .i8, 5, .v 3, 7⟩),
    (0x075D80480000000000000000, .lidx 9),
    (0x405D80100400C00301000000, .fadd ⟨.f64, .rne, 2, .v 4, .s 6⟩),
    (0x605D8010040007F000001000, .faddImm ⟨.f32, .rne, 2, .v 4, 0x3F800000⟩),
    (0x409D80100400C00309000000, .fsub ⟨.f64, .rtz, 2, .v 4, .s 6⟩),
    (0x609D8010040007F000001040, .fsubImm ⟨.f32, .rtz, 2, .v 4, 0x3F800000⟩),
    (0x40DD80100400C00311000000, .fmul ⟨.f64, .rup, 2, .v 4, .s 6⟩),
    (0x60DD8010040007F000001080, .fmulImm ⟨.f32, .rup, 2, .v 4, 0x3F800000⟩),
    (0x411D80100400C00319000000, .fdiv ⟨.f64, .rdn, 2, .v 4, .s 6⟩),
    (0x611D8010040007F0000010C0, .fdivImm ⟨.f32, .rdn, 2, .v 4, 0x3F800000⟩),
    (0x415D80100400000260000000, .fsqrt ⟨.f16, .rto, 2, .v 4⟩),
    (0x431D80100400000290000000, .frnd ⟨.bf16, .rup, 2, .v 4⟩),
    (0x419D80100400C00200000000, .fmax ⟨.f32, 2, .v 4, .v 6⟩)
    ] : List (Nat × Instr)).all readsL = true := by decide +kernel
theorem test_decode_lane_3 : ([
    (0x619D80100400000007F01400, .fmaxImm ⟨.bf16, 2, .v 4, 0x3F80⟩),
    (0x41DD80100400C00200000000, .fmin ⟨.f32, 2, .v 4, .v 6⟩),
    (0x61DD80100400000007F01400, .fminImm ⟨.bf16, 2, .v 4, 0x3F80⟩),
    (0x421D80180201400609000000, .ffma ⟨.f32, .rtz, 3, .v 2, .s 10, .v 1⟩),
    (0x425D80100400000300000000, .fabs ⟨.f64, 2, .v 4⟩),
    (0x429D80100400000300000000, .fneg ⟨.f64, 2, .v 4⟩),
    (0x42DD80180401600201038000, .fcmp ⟨.uno, .f32, 3, .v 4, .s 11⟩),
    (0x62DD801804000FF000001006, .fcmpImm ⟨.ord, .f32, 3, .v 4, 0x7F800000⟩),
    (0x441D80100400000200000000, .fexp ⟨.f32, 2, .v 4⟩),
    (0x445D80100400000240000000, .fexp2 ⟨.f16, 2, .v 4⟩),
    (0x449D80100400000280000000, .flog ⟨.bf16, 2, .v 4⟩),
    (0x44DD80100400000200000000, .flog2 ⟨.f32, 2, .v 4⟩),
    (0x451D80100400000240000000, .ftanh ⟨.f16, 2, .v 4⟩),
    (0x455D80100400000280000000, .fsig ⟨.bf16, 2, .v 4⟩),
    (0x459D80100400000200000000, .frsqrt ⟨.f32, 2, .v 4⟩),
    (0x45DD80100400000240000000, .fsin ⟨.f16, 2, .v 4⟩),
    (0x461D80100400000280000000, .fcos ⟨.bf16, 2, .v 4⟩),
    (0x481D80180200000198000008, .cvt ⟨.i8, .f32, .rdn, 3, .v 2, none⟩),
    (0x4C1D80180200E02601800000, .rng ⟨.f32, 3, .v 2, 7, 9⟩),
    (0xC01D80200900E000C67FFFFC, .laneLd ⟨.n64, .dv, ⟨some 7, some 9, 0xFFFFC⟩, 4⟩)
    ] : List (Nat × Instr)).all readsL = true := by decide +kernel
theorem test_decode_lane_4 : ([
    (0xC05D80280000E00105200006, .laneSt ⟨.i16, .wg, ⟨some 7, none, 6⟩, .s 5⟩),
    (0xC09D802009000000C2500008, .laneLdy ⟨.gg, ⟨none, some 9, 8⟩, 4⟩),
    (0xC41D80180900E02006700004, .atomAdd ⟨.i32, .dv, ⟨some 7, some 9, 4⟩, 3, 8⟩),
    (0xC81D80200900E000C6800008, .redAdd ⟨.n64, .sy, ⟨some 7, some 9, 8⟩, .v 4⟩),
    (0xC45D80180900E02006700004, .atomMin ⟨.i32, .dv, ⟨some 7, some 9, 4⟩, 3, 8⟩),
    (0xC85D80200900E000C6800008, .redMin ⟨.n64, .sy, ⟨some 7, some 9, 8⟩, .v 4⟩),
    (0xC49D80180900E02006700004, .atomMax ⟨.i32, .dv, ⟨some 7, some 9, 4⟩, 3, 8⟩),
    (0xC89D80200900E000C6800008, .redMax ⟨.n64, .sy, ⟨some 7, some 9, 8⟩, .v 4⟩),
    (0xC4DD80180900E02006700004, .atomAnd ⟨.i32, .dv, ⟨some 7, some 9, 4⟩, 3, 8⟩),
    (0xC8DD80200900E000C6800008, .redAnd ⟨.n64, .sy, ⟨some 7, some 9, 8⟩, .v 4⟩),
    (0xC51D80180900E02006700004, .atomOr ⟨.i32, .dv, ⟨some 7, some 9, 4⟩, 3, 8⟩),
    (0xC91D80200900E000C6800008, .redOr ⟨.n64, .sy, ⟨some 7, some 9, 8⟩, .v 4⟩),
    (0xC55D80180900E02006700004, .atomXor ⟨.i32, .dv, ⟨some 7, some 9, 4⟩, 3, 8⟩),
    (0xC95D80200900E000C6800008, .redXor ⟨.n64, .sy, ⟨some 7, some 9, 8⟩, .v 4⟩),
    (0xC59D80180900E02006700004, .atomAddsat ⟨.i32, .dv, ⟨some 7, some 9, 4⟩, 3, 8⟩),
    (0xC99D80200900E000C6800008, .redAddsat ⟨.n64, .sy, ⟨some 7, some 9, 8⟩, .v 4⟩),
    (0xC5DD80180000E02204400004, .atomXchg ⟨.f32, .qd, ⟨some 7, none, 4⟩, 3, 8⟩),
    (0xC61D80180000E02044600004, .atomCas ⟨.n32, .di, ⟨some 7, none, 4⟩, 3, 8⟩),
    (0xA80180000000000000280000, .laneFence .gg),
    (0x801D806802000000C4000001, .ballot (.s 13 true) 2)
    ] : List (Nat × Instr)).all readsL = true := by decide +kernel
theorem test_decode_lane_5 : ([
    (0x805D80680300000004000000, .voteCnt 13 3),
    (0x805D80280300000004000001, .voteAny 5 3),
    (0x805D80280300000004000002, .voteAll 5 3),
    (0x805D80280400000304000003, .voteUni ⟨.f64, 5, 4⟩),
    (0x809D80100400A000C1000032, .shfl ⟨.down, true, 2, 4, .s 5, 6⟩),
    (0x80DD80100400A00040000030, .perm ⟨false, 2, 4, .v 5, 6⟩),
    (0x811D80100400000214000000, .lred ⟨.add, .f32, .rup, .s 2, 4⟩),
    (0xA01D8008020060000000000B, .plog ⟨11, 1, 2, 3⟩),
    (0xA05D800804000000C0000000, .ptest .n64 1 4),
    (0xA09D80480400000000000000, .pget 9 4),
    (0xA41D800000001FFFFFFFC000, .bra 0xFFFFFFFE),
    (0xA45D80000700000002000010, .bri (.s 7) 0x1000),
    (0xA49D8000000000000000A000, .lcall 5),
    (0xA4DD80000700000002000000, .lcalli (.v 7) 0x1000),
    (0xA50180000000000000000000, .lret),
    (0xA5418000000000000000A000, .join 5),
    (0xA58180000000000000000000, .lend),
    (0xA5DD80000000000000000000, .lexit),
    (0xAA1D80480400000000000000, .dlaunch 9 (.v 4)),
    (0xF81D800000000000003C0000, .ltrap 0x1E0)
    ] : List (Nat × Instr)).all readsL = true := by decide +kernel
theorem test_decode_lane_6 : ([
    (0xF8418000000002468ACF0000, .lsigChk 0x12345678),
    (0xF89D80480000000000000000, .lcause 9),
    (0xE01D80A01E03E08013800000, .mma ⟨.rup, 20, 30, 31, 32⟩),
    (0xE09D80A01E03E08013800000, .mmah ⟨.rup, 20, 30, 31, 32⟩),
    (0xE0DD80A01E03E08013800000, .mmav ⟨.rup, 20, 30, 31, 32⟩),
    (0xE21D80A81E0000029A000000, .accLd ⟨.bf16, .rdn, 21, 30⟩),
    (0xE25D80001E00A00202000000, .accSt 30 (.v 5)),
    (0xE31D80A81E03E0000B000000, .accOut ⟨.rtz, 21, 30, 31⟩),
    (0xE41D80A81E00000004000000, .fvote 21 (.v 30)),
    (0xF00180480000000000000003, .rlxIn 9 3),
    (0xF05D80000900000000000003, .rlxOut 9 3),
    (0xF09D80480000000000000003, .rlxGet 9 3),
    (0xF0DD80480000000000000000, .rlxStep 9),
    (0xF11D80480000000000000000, .rlxRes 9)
    ] : List (Nat × Instr)).all readsL = true := by decide +kernel
theorem test_decode_sigChk : decodeScalar 0x94000000 0x12345678 = .ok .sigChk ⟨⟨0, false, 0⟩, 0, 0x12345678⟩ := by decide +kernel

/-! ### Well-formed instructions: a term that each check refuses -/

theorem test_wf_scalar : ([
    .cmp .ord false 1 2 3, .jt 1 0, .callt 1 257, .srr 1 0x009, .srw 0x03F 1, .srw 0x013 1, .srw 0x046 1, .vdec 1 9, .trap 0x1DF,
    .trap 0x200] : List Instr).all (fun i => !i.wf) = true := by decide +kernel
theorem test_wf_types : ([
    .laneAdd ⟨.f32, 1, .v 1, .v 2⟩, .laneAddImm ⟨.bpi, 1, .v 1, 0⟩, .mad ⟨.f16, 1, .v 1, .v 2, .v 3⟩, .bfe ⟨.i64, 2, .v 2, .v 4⟩,
    .bfiImm ⟨.i16, 1, .v 1, 0⟩, .abs ⟨.n32, 1, .v 1⟩, .neg ⟨.bf16, 1, .v 1⟩, .sel ⟨.bpi, 1, .v 1, .v 2, 1, false⟩, .mov ⟨.bpi, 1, .v 1⟩,
    .movImm ⟨.bpi, 1, 0⟩, .icmp ⟨.eq, .f32, 1, .v 1, .v 2⟩, .icmp ⟨.uno, .i32, 1, .v 1, .v 2⟩, .icmpImm ⟨.ord, .i32, 1, .v 1, 0⟩,
    .fcmp ⟨.eq, .i32, 1, .v 1, .v 2⟩, .fcmpImm ⟨.eq, .n8, 1, .v 1, 0⟩, .fadd ⟨.i32, .rne, 1, .v 1, .v 2⟩,
    .fmulImm ⟨.n32, .rne, 1, .v 1, 0⟩, .fsqrt ⟨.i32, .rne, 1, .v 1⟩, .fmax ⟨.i32, 1, .v 1, .v 2⟩, .fminImm ⟨.i32, 1, .v 1, 0⟩,
    .ffma ⟨.bpi, .rne, 1, .v 1, .v 2, .v 3⟩, .fabs ⟨.i32, 1, .v 1⟩, .fexp ⟨.f64, 2, .v 2⟩] : List Instr).all (fun i => !i.wf) = true := by
  decide +kernel
theorem test_wf_pairs : ([
    .laneAdd ⟨.i64, 1, .v 2, .v 4⟩, .laneAdd ⟨.i64, 2, .v 1, .v 4⟩, .laneAdd ⟨.i64, 2, .v 4, .v 1⟩, .laneAddImm ⟨.i64, 1, .v 2, 0⟩,
    .mad ⟨.i64, 2, .v 2, .v 4, .v 1⟩, .laneShl ⟨.n64, 2, .v 1, .v 4⟩, .fadd ⟨.f64, .rne, 2, .v 1, .v 4⟩, .ffma ⟨.f64, .rne, 2, .v 2, .v 4, .v 5⟩,
    .sel ⟨.f64, 1, .v 2, .v 4, 1, false⟩, .voteUni ⟨.n64, 1, 3⟩, .shfl ⟨.idx, true, 1, 2, .v 4, 0⟩, .shfl ⟨.idx, true, 2, 4, .v 5, 0⟩,
    .perm ⟨true, 2, 3, .v 4, 0⟩, .lred ⟨.add, .n64, .rne, .v 1, 2⟩, .lred ⟨.add, .n64, .rne, .s 1, 3⟩, .ptest .n64 1 3, .dlaunch 1 (.v 3),
    .mma ⟨.rne, 1, 2, 3, 4⟩, .laneLdy ⟨.bd, ⟨some 1, none, 0⟩, 3⟩, .atomAdd ⟨.n64, .bd, ⟨some 1, none, 0⟩, 2, 3⟩] : List Instr).all
    (fun i => !i.wf) = true := by decide +kernel
theorem test_wf_forms : ([
    .faddImm ⟨.f64, .rne, 2, .v 2, 0⟩, .faddImm ⟨.f16, .rne, 2, .v 2, 0x10000⟩, .movImm ⟨.f64, 2, 0⟩, .cvt ⟨.bpi, .bpi, .rne, 1, .v 1, some (.s 1)⟩,
    .cvt ⟨.f32, .i32, .rne, 1, .v 1, some (.s 1)⟩, .cvt ⟨.bpi, .i32, .rne, 1, .v 1, none⟩, .rng ⟨.i32, 1, .v 1, 1, 2⟩,
    .laneLd ⟨.i32, .bd, ⟨none, none, 0⟩, 1⟩, .laneLd ⟨.bpi, .bd, ⟨some 1, none, 0⟩, 1⟩, .laneSt ⟨.bpi, .bd, ⟨some 1, none, 0⟩, .v 1⟩,
    .laneSt ⟨.i32, .bd, ⟨none, none, 0⟩, .v 1⟩, .atomAdd ⟨.f64, .bd, ⟨some 1, none, 0⟩, 2, 4⟩, .atomAnd ⟨.f32, .bd, ⟨some 1, none, 0⟩, 2, 4⟩,
    .redAdd ⟨.i16, .bd, ⟨some 1, none, 0⟩, .v 1⟩, .redAddsat ⟨.f32, .bd, ⟨some 1, none, 0⟩, .v 1⟩, .lred ⟨.and, .f32, .rne, .s 1, 3⟩,
    .lred ⟨.add, .i16, .rne, .s 1, 3⟩, .lred ⟨.min, .f32, .rtz, .s 1, 3⟩, .ptest .i16 1 3, .ltrap 0x200, .accLd ⟨.f64, .rne, 2, 3⟩,
    .accLd ⟨.f32, .rtz, 2, 3⟩] : List Instr).all (fun i => !i.wf) = true := by decide +kernel
theorem test_wf_guard : Instr.guardFits (.join 5) ⟨1, false, 0⟩ = false ∧ Instr.guardFits .lend ⟨0, true, 0⟩ = false ∧
    Instr.guardFits .lexit ⟨0, true, 0⟩ = false ∧ Instr.guardFits .lexit ⟨1, true, 0⟩ = true := by decide +kernel

end Sys2Proof.Tests
end

section
/-!
SUPPORT. Fields of a word as arithmetic, and O8: the scalar compares (spec/06 R112).
-/
namespace Sys2Proof.Machine
open Sys2Proof.Claims

/-! ### The condition of a compare: the model's integers against the spec's patterns (R112) -/

theorem intCond_toNat {c : Cond} (hc : c.intOk = true) (x y : W64) :
    intCond c (x.toNat : Int) (y.toNat : Int) = scalarHolds c true x y := by
  cases c with
  | eq | ne => simp [intCond, scalarHolds, bne, Bool.beq_eq_decide_eq, BitVec.toNat_inj]
  | lt | gt => simp [intCond, scalarHolds, BitVec.ult_eq_decide]
  | le | ge => simp [intCond, scalarHolds, BitVec.ule_eq_decide]
  | ord | uno => cases hc

theorem intCond_toInt {c : Cond} (hc : c.intOk = true) (x y : W64) :
    intCond c x.toInt y.toInt = scalarHolds c false x y := by
  cases c with
  | eq | ne => simp [intCond, scalarHolds, bne, Bool.beq_eq_decide_eq, BitVec.toInt_inj]
  | lt | gt => simp [intCond, scalarHolds, BitVec.slt_eq_decide]
  | le | ge => simp [intCond, scalarHolds, BitVec.sle_eq_decide]
  | ord | uno => cases hc

/-- R112: what a compare with a condition of integers does. -/
theorem exec_cmp {c : Cond} (hc : c.intOk = true) (unsigned : Bool) (d : QReg) (a b : SReg) (s : State) :
    exec (.cmp c unsigned d a b) s =
      .next (scalarDone s (fun x => x.setQ d (scalarHolds c unsigned (s.cb.s a) (s.cb.s b)))) := by
  rw [scalarDone_eq]
  cases unsigned with
  | false => rw [← intCond_toInt hc]; rfl
  | true => rw [← intCond_toNat hc]; rfl

/-! ### Fields of a word as arithmetic -/

theorem fld_eq_ofNat {k : Nat} (w : BitVec k) (lo n : Nat) : fld w lo n = BitVec.ofNat n (w.toNat / 2 ^ lo) :=
  BitVec.eq_of_toNat_eq (by simp [fld, Nat.shiftRight_eq_div_pow])

theorem toNat_fld {k : Nat} (w : BitVec k) (lo n : Nat) : (fld w lo n).toNat = w.toNat / 2 ^ lo % 2 ^ n := by
  simp [fld_eq_ofNat]

theorem bit1_eq_decide {k : Nat} (w : BitVec k) (i : Nat) : bit1 w i = decide (w.toNat / 2 ^ i % 2 = 1) := by
  rw [bit1, ← BitVec.testBit_toNat, Nat.testBit_eq_decide_div_mod_eq]

theorem fld_ne_zero_iff {k : Nat} (w : BitVec k) (lo n : Nat) :
    (fld w lo n != 0#n) = true ↔ w.toNat / 2 ^ lo % 2 ^ n ≠ 0 := by
  rw [bne_iff_ne, ne_eq, ← BitVec.toNat_inj, toNat_fld, BitVec.toNat_ofNat, Nat.zero_mod]

/-! ### Which words of major 0x01 are compares (R112) -/

/-- The function field of a compare: [7:5] and [3] zero, and [2:0] a condition of integers. -/
def CmpFormed (n : Nat) : Prop := n % 2 ^ 8 / 2 ^ 5 = 0 ∧ n / 2 ^ 3 % 2 = 0 ∧ n % 2 ^ 3 ≤ 5

theorem decodeScalar_of_major01 {w : W32} (next : W32) (h : w.toNat / 2 ^ 26 = 1) : decodeScalar w next = decCmp w := by
  have hm : (fld w 26 6).toNat = 0x01 := by rw [toNat_fld, h]; rfl
  simp only [decodeScalar, hm]

theorem condOf_code (c : Cond) : condOf c.code = c := by cases c <;> rfl

/-- A word with one field that may be unassigned and one reserved field: the two causes in the order of R91. -/
theorem give_ckIll_ckZero (b : Bool) {n : Nat} (x : BitVec n) (i : Instr) :
    (Chk.all [ckIll b, ckZero x]).give i =
      if b then .bad .illegalEncoding else if x != 0#n then .bad .reservedNonzero else .ok i Extra.none := by
  simp [Chk.all, Chk.both, ckIll, ckZero, Chk.give, Chk.giveWith]

/-- The decoder's check of a compare's function field is `CmpFormed`. -/
theorem cmpIll_iff_not_formed (w : W32) :
    (decide (5 < (fld w 0 3).toNat) || bit1 w 3 || fld w 5 3 != 0#3) = true ↔ ¬ CmpFormed w.toNat := by
  rw [Bool.or_eq_true, Bool.or_eq_true, fld_ne_zero_iff, bit1_eq_decide, toNat_fld, decide_eq_true_iff, decide_eq_true_iff,
    CmpFormed]
  omega

theorem decCmp_of_not_formed {w : W32} (h : ¬ CmpFormed w.toNat) : decCmp w = .bad .illegalEncoding := by
  rw [decCmp, give_ckIll_ckZero, if_pos ((cmpIll_iff_not_formed w).2 h)]

theorem decCmp_of_reserved {w : W32} (h : CmpFormed w.toNat) (hr : w.toNat / 2 ^ 23 % 2 ^ 3 ≠ 0) :
    decCmp w = .bad .reservedNonzero := by
  rw [decCmp, give_ckIll_ckZero, if_neg (fun e => (cmpIll_iff_not_formed w).1 e h), if_pos ((fld_ne_zero_iff w 23 3).2 hr)]

theorem decCmp_of_formed {w : W32} {c : Cond} (h : CmpFormed w.toNat) (hc : w.toNat % 2 ^ 3 = c.code)
    (hr : w.toNat / 2 ^ 23 % 2 ^ 3 = 0) :
    decCmp w = .ok (.cmp c (decide (w.toNat / 2 ^ 4 % 2 = 1)) (BitVec.ofNat 3 (w.toNat / 2 ^ 20))
      (BitVec.ofNat 6 (w.toNat / 2 ^ 14)) (BitVec.ofNat 6 (w.toNat / 2 ^ 8))) Extra.none := by
  have hcond : condOf (fld w 0 3).toNat = c := by rw [toNat_fld, Nat.pow_zero, Nat.div_one, hc, condOf_code]
  rw [decCmp, give_ckIll_ckZero, if_neg (fun e => (cmpIll_iff_not_formed w).1 e h),
    if_neg (fun e => (fld_ne_zero_iff w 23 3).1 e hr), hcond, bit1_eq_decide, fld_eq_ofNat]
  simp only [sA, sB, fld_eq_ofNat]

/-- Settles O8: the step by `exec_cmp`, the words of major 0x01 by the three cases of `decCmp`. -/
theorem scalarCompares : Obligations.ScalarCompares := by
  unfold Obligations.ScalarCompares
  refine ⟨fun s c unsigned d a b hc => exec_cmp hc unsigned d a b s, fun w next c hmajor => ?_⟩
  intro code formed
  have hcode : code c = c.code := by cases c <;> rfl
  rw [decodeScalar_of_major01 next hmajor, hcode]
  exact ⟨fun h hc => ⟨decCmp_of_formed h hc, decCmp_of_reserved h⟩, decCmp_of_not_formed⟩

end Sys2Proof.Machine
end

section
/-!
SUPPORT. Lane results in the words of the statements (spec/03 R49 to R52, R71, spec/05 R107, spec/07 R135 to R139): a source as its
pattern, a destination as what each register is left with, and the rule that a lane instruction follows.
-/
namespace Sys2Proof.Machine
open Sys2Proof.Claims

/-! ### Patterns of a type -/

theorem tyBits_eq_bitsOf (ty : Ty) : tyBits ty = bitsOf ty := by cases ty <;> rfl

theorem bitsOf_of_wide {ty : Ty} (h : ty.wide = true) : bitsOf ty = 64 := by
  cases ty with
  | i64 | n64 | f64 => rfl
  | _ => cases h

theorem bitsOf_pos (ty : Ty) : 0 < bitsOf ty := by cases ty <;> decide

/-- A pattern's sign bit says on which side of half the range it stands. -/
theorem toInt_eq_signedField {w : Nat} (hw : 0 < w) (x : Nat) : toInt w x = signedField w (x % 2 ^ w) := by
  obtain ⟨k, rfl⟩ : ∃ k, w = k + 1 := ⟨w - 1, by omega⟩
  have hlt : x % 2 ^ (k + 1) < 2 ^ (k + 1) := Nat.mod_lt _ (by positivity)
  have hpow : 2 ^ (k + 1) = 2 * 2 ^ k := by ring
  have hbit : (x % 2 ^ (k + 1)).testBit k = decide (2 ^ k ≤ x % 2 ^ (k + 1)) := by
    by_cases h : 2 ^ k ≤ x % 2 ^ (k + 1)
    · rw [decide_eq_true h, Nat.testBit_eq_decide_div_mod_eq, decide_eq_true_iff,
        Nat.div_eq_of_lt_le (k := 1) (by omega) (by omega)]
    · rw [decide_eq_false h, Nat.testBit_lt_two_pow (by omega)]
  simp only [toInt, signedField, Nat.add_sub_cancel, hbit, decide_eq_true_iff]
  by_cases h : 2 ^ k ≤ x % 2 ^ (k + 1)
  · rw [if_neg (by omega), if_pos h]; push_cast; rfl
  · rw [if_pos (by omega), if_neg h]

theorem w32_ofInt (x : Int) : w32 (ofInt 32 x) = BitVec.ofInt 32 x :=
  BitVec.eq_of_toNat_eq (by simp [w32, ofInt, BitVec.toNat_ofInt]; omega)

theorem extend32_eq_extended (ty : Ty) (x : Nat) : extend32 ty x = extended ty x := by
  unfold extend32 extended
  split
  · rw [sextN, w32_ofInt, tyBits_eq_bitsOf, toInt_eq_signedField (bitsOf_pos ty)]
  · rw [tyBits_eq_bitsOf, w32]

theorem toInt_toNat (x : W32) : toInt 32 x.toNat = x.toInt := by
  rw [toInt, Nat.mod_eq_of_lt x.isLt, BitVec.toInt]

theorem immAt_eq_immediateOf (ty : Ty) (x : W32) : immAt ty x = immediateOf ty x := by
  cases ty with
  | i64 => rw [immAt, sextN, toInt_toNat]; rfl
  | _ => rfl

/-! ### Sources without a result under way -/

/-- A steady source reads as its pattern. -/
theorem rd_of_steady {s : State} {ty : Ty} {x : Src} (h : steady s ty x) (l : Nat) :
    s.rd ty x l = patternOf s.cb ty x l := by
  cases x with
  | s n => rw [State.rd, patternOf, tyBits_eq_bitsOf]
  | v n =>
    obtain ⟨hlow, hhigh⟩ := h l
    by_cases hw : ty.wide = true
    · have hlt : (s.cb.v n.toNat l).toNat + (s.cb.v (n.toNat + 1) l).toNat * 2 ^ 32 < 2 ^ 64 := by
        have := (s.cb.v n.toNat l).isLt
        have := (s.cb.v (n.toNat + 1) l).isLt
        omega
      simp only [State.rd, patternOf, hw, if_true, bitsOf_of_wide hw, Nat.mod_eq_of_lt hlt, State.vread64, hlow, hhigh hw]
      rfl
    · simp [State.rd, patternOf, hw, State.vread, hlow, tyBits_eq_bitsOf]

theorem Band.tan_of_none {b : Band} (h : b.rx = none) : b.tan = none := by simp [Band.tan, h]

theorem Band.tan_of_some {b : Band} {k : RxBand} (h : b.rx = some k) :
    b.tan = if b.inBody = true ∧ k.jacobi = false then some (k.d, k.rt) else none := by
  rw [Band.tan, h, Option.bind_some]
  cases b.inBody <;> cases k.jacobi <;> rfl

/-- A steady source has the tangents of the statements. -/
theorem tanOf_of_steady {s : State} {ty : Ty} {x : Src} (h : steady s ty x) (l j : Nat) :
    s.tanOf x l j = tangentOf s.cb x l j := by
  cases x with
  | s n => cases htan : s.cb.tan <;> simp only [State.tanOf, tangentOf, htan]
  | v n =>
    obtain ⟨hlow, -⟩ := h l
    cases hrx : s.cb.rx with
    | none => simp only [State.tanOf, tangentOf, hrx, Band.tan_of_none hrx]
    | some k =>
      simp only [State.tanOf, tangentOf, hrx, Band.tan_of_some hrx, ← and_assoc]
      by_cases hc : s.cb.inBody = true ∧ k.jacobi = false
      · simp [hc, hlow, tanReg]
      · simp only [hc, if_false, false_and]

/-- The second source of a rule in the model's words. -/
def lastOf : Src ⊕ W32 → Last
  | .inl x => .src x
  | .inr i => .imm i

theorem rdLast_of_steady {s : State} {ty : Ty} {c : Src ⊕ W32} (h : ∀ e ∈ secondSrc ty c, steady s e.1 e.2) (l : Nat) :
    s.rdLast ty (lastOf c) l = secondOf s.cb ty c l := by
  cases c with
  | inl x => exact rd_of_steady (h (ty, x) (List.mem_singleton.2 rfl)) l
  | inr i => exact immAt_eq_immediateOf ty i

theorem tanLast_of_steady {s : State} {ty : Ty} {c : Src ⊕ W32} (h : ∀ e ∈ secondSrc ty c, steady s e.1 e.2) (l j : Nat) :
    s.tanLast (lastOf c) l j = secondTangent s.cb c l j := by
  cases c with
  | inl x => exact tanOf_of_steady (h (ty, x) (List.mem_singleton.2 rfl)) l j
  | inr i => rfl

/-! ### The last of a list of register writes -/

/-- What a list of writes leaves in a register, `none` where none is of it. -/
def lastWrite (ws : List (Nat × W32)) (k : Nat) : Option W32 := (ws.reverse.find? (fun e => e.1 == k)).map (·.2)

@[simp] theorem lastWrite_nil (k : Nat) : lastWrite [] k = none := rfl

theorem lastWrite_append (xs ys : List (Nat × W32)) (k : Nat) :
    lastWrite (xs ++ ys) k = (lastWrite ys k).or (lastWrite xs k) := by
  simp only [lastWrite, List.reverse_append, List.find?_append]
  cases ys.reverse.find? (fun e => e.1 == k) <;> rfl

@[simp] theorem lastWrite_singleton (e : Nat × W32) (k : Nat) : lastWrite [e] k = if e.1 = k then some e.2 else none := by
  by_cases h : e.1 = k <;> simp [lastWrite, h]

theorem lastWrite_cons (e : Nat × W32) (ws : List (Nat × W32)) (k : Nat) :
    lastWrite (e :: ws) k = (lastWrite ws k).or (if e.1 = k then some e.2 else none) := by
  rw [← lastWrite_singleton, ← lastWrite_append]; rfl

theorem lastWrite_eq_none_iff {ws : List (Nat × W32)} {k : Nat} : lastWrite ws k = none ↔ ∀ e ∈ ws, e.1 ≠ k := by
  simp [lastWrite]

/-- Writes of one register each: the one of the register sought. -/
theorem lastWrite_map {f : Nat → Nat} (hf : f.Injective) (t : Nat → W32) (js : List Nat) (k : Nat) :
    lastWrite (js.map (fun j => (f j, t j))) k = (js.find? (fun j => k == f j)).map t := by
  induction js with
  | nil => rfl
  | cons a js ih =>
    rw [List.map_cons, lastWrite_cons, ih, List.find?_cons]
    by_cases h : f a = k
    · have hk : (k == f a) = true := by simp [h]
      rw [if_pos h, hk]
      cases hj : js.find? (fun j => k == f j) with
      | none => rfl
      | some j =>
        have hkj : k = f j := by simpa using List.find?_some hj
        have : j = a := hf (hkj.symm.trans h.symm)
        rw [this]; rfl
    · have hk : (k == f a) = false := by simpa using Ne.symm h
      rw [if_neg h, hk, Option.or_none]

/-- Writes lane by lane, each in its own lane. -/
theorem lastWrite_flatMap {f : Nat → List (Nat × W32)} {ls : List Nat} {k : Nat}
    (hf : ∀ l ∈ ls, ∀ e ∈ f l, e.1 % 128 = l) :
    lastWrite (ls.flatMap f) k = if k % 128 ∈ ls then lastWrite (f (k % 128)) k else none := by
  induction ls with
  | nil => rfl
  | cons a ls ih =>
    rw [List.flatMap_cons, lastWrite_append, ih (fun l hl => hf l (List.mem_cons_of_mem _ hl))]
    by_cases h : k % 128 = a
    · subst h
      split <;> simp
    · have hnone : lastWrite (f a) k = none :=
        lastWrite_eq_none_iff.2 fun e he hk => h (by rw [← hf a List.mem_cons_self e he, hk])
      simp [hnone, h]

/-! ### The register writes of a lane instruction -/

theorem vkey_mod {r l : Nat} (h : l < 128) : vkey r l % 128 = l := by unfold vkey; omega

theorem vkey_div_mod (k : Nat) : vkey (k / 128) (k % 128) = k := by unfold vkey; omega

theorem vkey_inj {r q l : Nat} : vkey r l = vkey q l ↔ r = q := by unfold vkey; omega

theorem tanReg_injective (b : Band) (d q : Nat) {rt : Nat} (h : q < rt) : (tanReg b d rt · q).Injective := by
  intro i j hij
  have : i * rt = j * rt := by simp only [tanReg] at hij; omega
  exact Nat.eq_of_mul_eq_mul_right (by omega) this

/-- The registers of the tangents, by the dimension and Rt of the body that runs. -/
theorem tangentAt_eq (b : Band) (q r : Nat) : tangentAt b q r =
    match b.tan with
    | some (d, rt) => if q < rt then (List.range d).find? (fun j => r == tanReg b d rt j q) else none
    | none => none := by
  cases hrx : b.rx with
  | none => simp only [tangentAt, hrx, Band.tan_of_none hrx]
  | some k =>
    simp only [tangentAt, hrx, Band.tan_of_some hrx, ← and_assoc]
    by_cases hc : b.inBody = true ∧ k.jacobi = false
    · simp only [hc, and_self, true_and, if_true, tanReg]
    · simp only [hc, if_false, false_and]

theorem lastWrite_tanWrites (b : Band) (q r l : Nat) (t : Nat → W32) :
    lastWrite (tanWrites b q l t) (vkey r l) = (tangentAt b q r).map t := by
  rw [tangentAt_eq]
  unfold tanWrites
  cases b.tan with
  | none => rfl
  | some e =>
    obtain ⟨d, rt⟩ := e
    by_cases h : q < rt
    · have hinj : (fun j => vkey (tanReg b d rt j q) l).Injective := fun i j hij =>
        tanReg_injective b d q h (vkey_inj.1 hij)
      have hkey : (fun j => vkey r l == vkey (tanReg b d rt j q) l) = (fun j => r == tanReg b d rt j q) := by
        funext j; rw [Bool.eq_iff_iff, beq_iff_eq, beq_iff_eq, vkey_inj]
      simp only [h, if_true]
      rw [lastWrite_map hinj, hkey]
    · simp [h]

theorem lastWrite_resultWrites (ty : Ty) (d r l x : Nat) :
    lastWrite (resultWrites ty d l x) (vkey r l) =
      if ty.wide then
        if r = d + 1 then some (BitVec.ofNat 32 (x / 2 ^ 32)) else if r = d then some (BitVec.ofNat 32 x) else none
      else if r = d then some (extended ty x) else none := by
  unfold resultWrites
  split
  · rw [lastWrite_cons, lastWrite_singleton]
    by_cases h1 : r = d + 1
    · simp [h1, w32]
    · simp [h1, vkey_inj, w32, eq_comm]
  · rw [lastWrite_singleton, extend32_eq_extended]
    simp [vkey_inj, eq_comm]

/-- The writes of one lane. -/
def oneLane (s : State) (ty : Ty) (d : VReg) (x : Nat → Nat) (t : Nat → Nat → W32) (l : Nat) : List (Nat × W32) :=
  resultWrites ty d.toNat l (x l) ++ tanWrites s.cb d.toNat l (t l) ++
    (if ty.wide then tanWrites s.cb (d.toNat + 1) l (fun _ => 0) else [])

theorem laneWs_eq (s : State) (ty : Ty) (d : VReg) (x : Nat → Nat) (t : Nat → Nat → W32) :
    laneWs s ty d x t = (lanesOf s.act).flatMap (oneLane s ty d x t) := rfl

theorem mem_resultWrites {ty : Ty} {d l x : Nat} {e : Nat × W32} (h : e ∈ resultWrites ty d l x) :
    ∃ r, e.1 = vkey r l := by
  unfold resultWrites at h
  split at h
  · rcases List.mem_pair.1 h with rfl | rfl <;> exact ⟨_, rfl⟩
  · rw [List.mem_singleton.1 h]; exact ⟨_, rfl⟩

theorem mem_tanWrites {b : Band} {q l : Nat} {t : Nat → W32} {e : Nat × W32} (h : e ∈ tanWrites b q l t) :
    ∃ r, e.1 = vkey r l := by
  unfold tanWrites at h
  split at h
  · split at h
    · obtain ⟨j, -, rfl⟩ := List.mem_map.1 h; exact ⟨_, rfl⟩
    · cases h
  · cases h

theorem mem_oneLane {s : State} {ty : Ty} {d : VReg} {x : Nat → Nat} {t : Nat → Nat → W32} {l : Nat} {e : Nat × W32}
    (h : e ∈ oneLane s ty d x t l) : ∃ r, e.1 = vkey r l := by
  rcases List.mem_append.1 h with h | h
  · rcases List.mem_append.1 h with h | h
    · exact mem_resultWrites h
    · exact mem_tanWrites h
  · split at h
    · exact mem_tanWrites h
    · cases h

theorem mem_lanesOf {m : Mask} {l : Nat} : l ∈ lanesOf m ↔ l < 128 ∧ m.getLsbD l = true := by simp [lanesOf]

/-- What the writes of a lane instruction leave in each register is what the statements say. -/
theorem lastWrite_laneWs (s : State) (ty : Ty) (d : VReg) (x : Nat → Nat) (t : Nat → Nat → W32) {r l : Nat} (hl : l < 128) :
    lastWrite (laneWs s ty d x t) (vkey r l) = laneWrites s ty d x t r l := by
  have hlane : ∀ l ∈ lanesOf s.act, ∀ e ∈ oneLane s ty d x t l, e.1 % 128 = l := fun l hl e he => by
    obtain ⟨r, hr⟩ := mem_oneLane he
    rw [hr, vkey_mod (mem_lanesOf.1 hl).1]
  rw [laneWs_eq, lastWrite_flatMap hlane, vkey_mod hl, laneWrites]
  by_cases ha : s.act.getLsbD l = true
  · rw [if_pos (mem_lanesOf.2 ⟨hl, ha⟩), if_pos ha, oneLane, lastWrite_append, lastWrite_append, lastWrite_tanWrites,
      lastWrite_resultWrites]
    by_cases hw : ty.wide = true
    · rw [if_pos hw, lastWrite_tanWrites]
      cases tangentAt s.cb (d.toNat + 1) r <;> cases tangentAt s.cb d.toNat r <;> simp [hw]
    · rw [if_neg hw]
      cases tangentAt s.cb d.toNat r <;> simp [hw]
  · rw [if_neg (fun h => ha (mem_lanesOf.1 h).2), if_neg ha]

theorem isSome_laneWrites (s : State) (ty : Ty) (d : VReg) (x : Nat → Nat) (t : Nat → Nat → W32) (r l : Nat) :
    (laneWrites s ty d x t r l).isSome = (laneWrites s ty d (fun _ => 0) (fun _ _ => 0) r l).isSome := by
  unfold laneWrites
  cases tangentAt s.cb d.toNat r <;> split_ifs <;> rfl

/-- A destination where nothing is under way is written nowhere early. -/
theorem not_early_of_landable {s : State} {ty : Ty} {d : VReg} (h : landable s ty d) {x : Nat → Nat} {t : Nat → Nat → W32}
    {e : Nat × W32} (he : e ∈ laneWs s ty d x t) : s.early s.cb false (e.1 / 128) (e.1 % 128) = false := by
  have hsome : lastWrite (laneWs s ty d x t) e.1 ≠ none := fun hn => lastWrite_eq_none_iff.1 hn e he rfl
  rw [← vkey_div_mod e.1, lastWrite_laneWs s ty d x t (Nat.mod_lt _ (by decide))] at hsome
  exact h _ _ (by rw [← isSome_laneWrites s ty d x t]; exact Option.isSome_iff_ne_none.2 hsome)

/-! ### Writing the registers -/

/-- Every write of a list, none of them open. -/
def Band.putRegs (b : Band) (ws : List (Nat × W32)) : Band := ws.foldl (fun b e => b.putReg e.1 e.2) b

theorem foldl_putV_of_not_early {s : State} {ws : List (Nat × W32)} {b : Band}
    (h : ∀ e ∈ ws, s.early b false (e.1 / 128) (e.1 % 128) = false) : ws.foldl s.putV b = b.putRegs ws := by
  induction ws generalizing b with
  | nil => rfl
  | cons e ws ih =>
    have he : s.putV b e = b.putReg e.1 e.2 := by simp [State.putV, h e List.mem_cons_self]
    rw [List.foldl_cons, he]
    exact ih (fun f hf => h f (List.mem_cons_of_mem _ hf))

theorem kept_of_not_early {s : State} {ws : List (Nat × W32)} {b : Band}
    (h : ∀ e ∈ ws, s.early b false (e.1 / 128) (e.1 % 128) = false) : s.kept b ws = ws :=
  List.filter_eq_self.2 fun e he => by simp [h e he]

/-- The writes of registers change these and the errors that lay there. -/
theorem putRegs_frame (b : Band) (ws : List (Nat × W32)) :
    b.putRegs ws = { b with vregs := (b.putRegs ws).vregs, errV := (b.putRegs ws).errV } := by
  induction ws generalizing b with
  | nil => rfl
  | cons e ws ih => exact ih (b.putReg e.1 e.2)

theorem reg_putRegs (b : Band) (ws : List (Nat × W32)) (k : Nat) :
    tget 0 (b.putRegs ws).vregs k = (lastWrite ws k).getD (tget 0 b.vregs k) := by
  induction ws generalizing b with
  | nil => rfl
  | cons e ws ih =>
    refine (ih (b.putReg e.1 e.2)).trans ?_
    rw [lastWrite_cons, Band.reg_putReg]
    cases lastWrite ws k with
    | some v => rfl
    | none =>
      by_cases h : e.1 = k
      · simp [h]
      · simp [h, Ne.symm h]

theorem errV_putRegs (b : Band) (ws : List (Nat × W32)) (k : Nat) :
    (b.putRegs ws).errV.contains k = true ↔ b.errV.contains k = true ∧ lastWrite ws k = none := by
  induction ws generalizing b with
  | nil => simp [Band.putRegs]
  | cons e ws ih =>
    refine (ih (b.putReg e.1 e.2)).trans ?_
    rw [lastWrite_cons]
    cases lastWrite ws k with
    | some v => simp
    | none =>
      by_cases h : e.1 = k
      · simp [h, Band.putReg]
      · simp [h, Ne.symm h, Band.putReg]

end Sys2Proof.Machine
end

section
/-!
SUPPORT. The rule that a lane instruction follows (spec/03 R71, spec/05 R107, spec/07 R138, R139): what a write of a destination does,
with either latency, and after the count of ±Inf and NaN.
-/
namespace Sys2Proof.Machine
open Sys2Proof.Claims

/-! ### A band that is not there -/

/-- With no band at its turn an instruction has no active lane. -/
theorem act_of_no_band {s : State} (h : tget? s.bands s.cur.band = none) : s.act = 0 := by
  have hcb : s.cb = Band.init := by rw [State.cb, State.band, tget, h]; rfl
  have hcf : s.cf.mask = 0 := by
    rw [State.cf, hcb]
    unfold Band.frag
    split <;> rfl
  rw [State.act, hcf]
  simp

theorem laneWs_of_act_zero {s : State} (h : s.act = 0) (ty : Ty) (d : VReg) (x : Nat → Nat) (t : Nat → Nat → W32) :
    laneWs s ty d x t = [] := by
  have : lanesOf s.act = [] := by simp [lanesOf, h]
  rw [laneWs_eq, this]; rfl

/-- The vector registers after a lane instruction, whose band, when it is not there, is changed in none. -/
theorem finishL_vregs {s : State} {f : Band → Band}
    (h : tget? s.bands s.cur.band = none → (f s.cb).vregs = s.cb.vregs ∧ (f s.cb).errV = s.cb.errV) :
    (finishL s f).cb.vregs = (f s.cb).vregs ∧ (finishL s f).cb.errV = (f s.cb).errV := by
  cases hb : tget? s.bands s.cur.band with
  | none =>
    have hsame : finishL s f = s := by
      rw [finishL_frame, State.modBand, tmod, hb]
    rw [hsame]
    exact ⟨(h hb).1.symm, (h hb).2.symm⟩
  | some b =>
    have hcb := State.cb_modCb (s := s) (fun b => (f b).moveL s.cur (s.cycleOf s.cb) (s.cf.pc + 12) true) (by rw [hb]; rfl)
    rw [finishL, hcb]
    simp

/-! ### A destination written with either latency -/

/-- A latency of the rules in the model's words. -/
def latencyOf : Option Nat → Latency
  | some n => .fixed n
  | none => .variable

theorem latencyOf_latFor (ty : Ty) (n w : Option Nat) : latencyOf (latFor ty n w) = latOf ty (latencyOf n) (latencyOf w) := by
  unfold latFor latOf; split <;> rfl

/-- What a fixed-latency destination does to the band. -/
def Band.written (s : State) (ty : Ty) (d : VReg) (n : Nat) (ws : List (Nat × W32)) (b : Band) : Band :=
  { b.putRegs ws with
    ready := b.ready ++ readyAt s d.toNat n :: (if ty.wide then [readyAt s (d.toNat + 1) n] else []) }

theorem Band.due_false (b : Band) (reg : Nat) (m : Mask) (c : Nat) (old : List (Nat × W32)) :
    b.due false reg m c old = { b with ready := b.ready ++ [⟨false, reg, m, c, old⟩] } := rfl

theorem cycleOf_due (s : State) (b : Band) (p : Bool) (reg : Nat) (m : Mask) (c : Nat) (old : List (Nat × W32)) :
    s.cycleOf (b.due p reg m c old) = s.cycleOf b := by simp [State.cycleOf]

/-- A write of fixed latency, of a destination where nothing is under way. -/
theorem laneWriteO_fixed {s : State} {ty : Ty} {d : VReg} (hland : landable s ty d) (n : Nat) (x : Nat → Nat)
    (t : Nat → Nat → W32) (ovf : Bool) :
    laneWriteO s ty d (.fixed n) x t ovf = .next (finishL s (Band.written s ty d n (laneWs s ty d x t))) := by
  unfold laneWriteO
  simp only
  congr 1
  refine State.modCb_congr s ?_
  have hcycle : s.cycleOf (s.cb.putRegs (laneWs s ty d x t)) = s.cycleOf s.cb := by rw [putRegs_frame]; rfl
  have hready : (s.cb.putRegs (laneWs s ty d x t)).ready = s.cb.ready := by rw [putRegs_frame]
  simp only [foldl_putV_of_not_early (fun e he => not_early_of_landable hland he), cycleOf_due, hcycle]
  congr 1
  by_cases hw : ty.wide = true
  · simp only [hw, if_true, Band.due_false, hready, List.append_assoc, Band.written]; rfl
  · simp only [hw, Band.due_false, hready, Band.written]; rfl

theorem laneFixed_finishL {s : State} {ty : Ty} {d : VReg} (n : Nat) (x : Nat → Nat) (t : Nat → Nat → W32) :
    laneFixed s s (finishL s (Band.written s ty d n (laneWs s ty d x t))) ty d n (laneWrites s ty d x t) := by
  obtain ⟨hv, he⟩ := finishL_vregs (s := s) (f := Band.written s ty d n (laneWs s ty d x t)) (fun hb => by
    rw [laneWs_of_act_zero (act_of_no_band hb)]; exact ⟨rfl, rfl⟩)
  refine ⟨?_, fun r l hl => ⟨?_, ?_⟩⟩
  · rw [laneDone_eq]
    refine State.modCb_congr s ?_
    simp only [hv, he]
    rw [Band.written, putRegs_frame]
  · rw [Band.v, hv, ← lastWrite_laneWs s ty d x t hl]
    exact reg_putRegs s.cb _ _
  · rw [he, ← lastWrite_laneWs s ty d x t hl]
    exact errV_putRegs s.cb _ _

/-- A write of variable latency, of a destination where nothing is under way. -/
theorem laneWriteO_variable {s : State} {ty : Ty} {d : VReg} (hland : landable s ty d) (x : Nat → Nat)
    (t : Nat → Nat → W32) (ovf : Bool) :
    laneWriteO s ty d .variable x t ovf =
      .next (finishL s (fun b => b.later ⟨true, [], [], laneWs s ty d x t, [], ovf⟩)) := by
  unfold laneWriteO
  simp only [kept_of_not_early (fun e he => not_early_of_landable hland he)]

theorem laneVariable_finishL {s : State} {ty : Ty} {d : VReg} (x : Nat → Nat) (t : Nat → Nat → W32) (ovf : Bool) :
    laneVariable s (finishL s (fun b => b.later ⟨true, [], [], laneWs s ty d x t, [], ovf⟩)) (laneWrites s ty d x t) ovf :=
  ⟨laneWs s ty d x t, (laneDone_eq s _).symm, fun _ _ hl => lastWrite_laneWs s ty d x t hl⟩

/-! ### The count of ±Inf and NaN -/

/-- State u is state s but for what a lane write does not look at. -/
structure SameLanes (s u : State) : Prop where
  cur : u.cur = s.cur
  nonce : u.nonce = s.nonce
  tiles : u.tiles = s.tiles
  cb : u.cb = { s.cb with rx := u.cb.rx }
  tan : u.cb.tan = s.cb.tan

theorem SameLanes.cycleOf {s u : State} (h : SameLanes s u) (b : Band) : u.cycleOf b = s.cycleOf b := by
  rw [State.cycleOf, State.tile, h.tiles]; rfl

theorem SameLanes.early {s u : State} (h : SameLanes s u) (p : Bool) (r l : Nat) :
    u.early u.cb p r l = s.early s.cb p r l := by
  unfold State.early
  rw [h.cb, h.cycleOf]; rfl

theorem SameLanes.pread {s u : State} (h : SameLanes s u) (n : Nat) : u.pread u.cb n = s.pread s.cb n := by
  have hready : u.cb.ready = s.cb.ready := by rw [h.cb]
  have hmask : u.cb.pmask n = s.cb.pmask n := Band.pmask_congr (by rw [h.cb]) n
  simp only [State.pread, h.early, hready, hmask, State.freeIx, h.nonce]

theorem SameLanes.cf {s u : State} (h : SameLanes s u) : u.cf = s.cf := by
  rw [State.cf, h.cb, h.cur]; rfl

theorem SameLanes.act {s u : State} (h : SameLanes s u) : u.act = s.act := by
  have hdead : u.cb.dead = s.cb.dead := by rw [h.cb]
  rw [State.act, h.cf, hdead, h.cur, h.pread]; rfl

theorem SameLanes.v {s u : State} (h : SameLanes s u) (r l : Nat) : u.cb.v r l = s.cb.v r l :=
  Band.v_congr (by rw [h.cb]) r l

theorem SameLanes.laneWrites {s u : State} (h : SameLanes s u) (ty : Ty) (d : VReg) (x : Nat → Nat) (t : Nat → Nat → W32) :
    laneWrites u ty d x t = laneWrites s ty d x t := by
  have hbudget : u.cb.budget = s.cb.budget := by rw [h.cb]
  have htan (q r : Nat) : tangentAt u.cb q r = tangentAt s.cb q r := by
    simp only [tangentAt_eq, h.tan, tanReg, hbudget]
  funext r l
  simp only [Claims.laneWrites, h.act, htan]

theorem SameLanes.landable {s u : State} (h : SameLanes s u) {ty : Ty} {d : VReg} (hl : landable s ty d) : landable u ty d := by
  intro r l hw
  rw [h.laneWrites] at hw
  rw [h.early]; exact hl r l hw

theorem SameLanes.readyAt {s u : State} (h : SameLanes s u) (reg n : Nat) : readyAt u reg n = readyAt s reg n := by
  have htile : u.cb.ptile = s.cb.ptile := by rw [h.cb]
  simp only [Claims.readyAt, activeLanes, h.act, h.v, htile, State.tile, h.tiles]

theorem SameLanes.laneFixed {s u t : State} (h : SameLanes s u) {ty : Ty} {d : VReg} {n : Nat}
    {w : Nat → Nat → Option W32} (hf : laneFixed u u t ty d n w) : laneFixed s u t ty d n w := by
  have herr : u.cb.errV = s.cb.errV := by rw [h.cb]
  simpa only [Claims.laneFixed, h.readyAt, h.v, herr] using hf

/-- The count of ±Inf and NaN, in the words of the statements. -/
theorem flagged_eq_setOverflowLanes (s : State) (sp : Bool) (m : Mask) : flagged s sp m = setOverflowLanes s sp m := by
  cases sp with
  | false => rfl
  | true =>
    by_cases hbody : s.cb.inBody = true
    · simp [flagged, setOverflowLanes, hbody]
    · cases hlaunch : tget? s.launches s.cb.launch <;>
        simp [flagged, setOverflowLanes, setOverflow, State.scaledG, hbody, hlaunch]

theorem cb_modCb_rx (s : State) (f : RxBand → RxBand) :
    (s.modCb (fun b => { b with rx := b.rx.map f })).cb = { s.cb with rx := s.cb.rx.map f } := by
  have := tget_tmod_of_default Band.init s.bands s.cur.band s.cur.band (fun b => { b with rx := b.rx.map f }) rfl
  rwa [if_pos rfl] at this

theorem sameLanes_modCb_rx (s : State) (m : Mask) :
    SameLanes s (s.modCb (fun b => { b with rx := b.rx.map (fun r => { r with ovf := r.ovf ||| m }) })) := by
  have hcb := cb_modCb_rx s (fun r => { r with ovf := r.ovf ||| m })
  refine ⟨rfl, rfl, rfl, by rw [hcb], ?_⟩
  rw [hcb]
  unfold Band.tan
  cases s.cb.rx <;> rfl

theorem sameLanes_setOverflowLanes (s : State) (sp : Bool) (m : Mask) : SameLanes s (setOverflowLanes s sp m) := by
  unfold setOverflowLanes setOverflow
  simp only
  split
  · exact ⟨rfl, rfl, rfl, rfl, rfl⟩
  · split
    · exact sameLanes_modCb_rx s m
    · split <;> exact ⟨rfl, rfl, rfl, rfl, rfl⟩

/-! ### Rules -/

theorem special_eq_maskWhere {r : LaneRule} (hc : r.counts = true) (s : State) :
    r.special s = maskWhere s.act (fun l => (fval (fmtOf r.ty) (r.val s.cb l)).special) := by
  rw [LaneRule.special, hc]; rfl

theorem laneWriteO_next (s : State) (ty : Ty) (d : VReg) (lat : Latency) (x : Nat → Nat) (t : Nat → Nat → W32) (ovf : Bool) :
    ∃ u, laneWriteO s ty d lat x t ovf = .next u := by
  cases lat <;> exact ⟨_, rfl⟩

theorem laneWriteF_next (s : State) (ty : Ty) (d : VReg) (lat : Latency) (x : Nat → Nat) (t : Nat → Nat → W32) :
    ∃ u, laneWriteF s ty d lat x t = .next u := by
  unfold laneWriteF; simp only; split <;> exact laneWriteO_next ..

/-- A lane write whose results count follows the rule that gives its values. -/
theorem LaneRule.holds_of_laneWriteF {r : LaneRule} {s : State} {i : Instr} {x : Nat → Nat} {t : Nat → Nat → W32}
    (hexec : exec i s = laneWriteF s r.ty r.d (latencyOf r.lat) x t) (hc : r.counts = true)
    (hx : (∀ e ∈ r.srcs, steady s e.1 e.2) → x = r.val s.cb ∧ t = r.tan s.cb) : r.holds s i := by
  obtain ⟨u, hu⟩ := laneWriteF_next s r.ty r.d (latencyOf r.lat) x t
  refine ⟨u, hexec.trans hu, fun hsrc hland => ?_⟩
  obtain ⟨rfl, rfl⟩ := hx hsrc
  have same := sameLanes_setOverflowLanes s (r.special s != 0) (r.special s)
  rw [laneWriteF, ← special_eq_maskWhere hc] at hu
  simp only [flagged_eq_setOverflowLanes]
  cases hlat : r.lat with
  | some n =>
    rw [hlat, latencyOf, if_neg (by simp), laneWriteT, laneWriteO_fixed (same.landable hland)] at hu
    cases hu
    have := laneFixed_finishL (s := setOverflowLanes s (r.special s != 0) (r.special s)) (ty := r.ty) (d := r.d) n
      (r.val s.cb) (r.tan s.cb)
    rw [same.laneWrites] at this
    exact same.laneFixed this
  | none =>
    rw [hlat, latencyOf] at hu
    cases hbody : s.cb.inBody with
    | false =>
      rw [if_pos ⟨rfl, hbody⟩, laneWriteO_variable hland] at hu
      cases hu
      exact laneVariable_finishL _ _ _
    | true =>
      rw [if_neg (by simp [hbody]), laneWriteT, laneWriteO_variable (same.landable hland)] at hu
      cases hu
      have := laneVariable_finishL (s := setOverflowLanes s (r.special s != 0) (r.special s)) (ty := r.ty) (d := r.d)
        (r.val s.cb) (r.tan s.cb) false
      rw [same.laneWrites] at this
      exact this

/-- A lane write whose results do not count follows the rule that gives its values. -/
theorem LaneRule.holds_of_laneWriteT {r : LaneRule} {s : State} {i : Instr} {x : Nat → Nat} {t : Nat → Nat → W32}
    (hexec : exec i s = laneWriteT s r.ty r.d (latencyOf r.lat) x t) (hc : r.counts = false)
    (hx : (∀ e ∈ r.srcs, steady s e.1 e.2) → x = r.val s.cb ∧ t = r.tan s.cb) : r.holds s i := by
  obtain ⟨u, hu⟩ := laneWriteO_next s r.ty r.d (latencyOf r.lat) x t false
  refine ⟨u, hexec.trans hu, fun hsrc hland => ?_⟩
  obtain ⟨rfl, rfl⟩ := hx hsrc
  have hspecial : r.special s = 0 := by rw [LaneRule.special, hc]; rfl
  have hflag (m : Mask) : flagged s false m = s := rfl
  simp only [hspecial, bne_self_eq_false, hflag]
  cases hlat : r.lat with
  | some n =>
    rw [hlat, latencyOf, laneWriteO_fixed hland] at hu
    cases hu
    exact laneFixed_finishL n _ _
  | none =>
    rw [hlat, latencyOf, laneWriteO_variable hland] at hu
    cases hu
    simp only [ite_self]
    exact laneVariable_finishL _ _ _

end Sys2Proof.Machine
end

section
/-!
SUPPORT. O27: the lane floating instructions (spec/07 R147 to R149, spec/03 R54, spec/11 R235).
-/
namespace Sys2Proof.Machine
open Sys2Proof.Claims

/-! ### The sign bit of a pattern (R149) -/

theorem fmtOf_bits {ty : Ty} (h : ty.isFp = true) : (fmtOf ty).eb + (fmtOf ty).mb = bitsOf ty - 1 := by
  cases ty with
  | f32 | f16 | bf16 | f64 => rfl
  | _ => cases h

/-- Inverting the top bit of a pattern of k + 1 bits adds it, modulo 2^(k+1). -/
theorem xor_top_bit (x k : Nat) : (x % 2 ^ (k + 1)) ^^^ 2 ^ k = (x + 2 ^ k) % 2 ^ (k + 1) := by
  refine Nat.eq_of_testBit_eq fun i => ?_
  rw [Nat.testBit_xor, Nat.testBit_mod_two_pow, Nat.testBit_mod_two_pow, Nat.testBit_two_pow, Nat.add_comm x]
  rcases lt_trichotomy i k with hi | rfl | hi
  · rw [Nat.testBit_two_pow_add_gt hi]
    simp [hi.ne']
  · rw [Nat.testBit_two_pow_add_eq]
    simp
  · have hout : ¬ i < k + 1 := by omega
    simp [hout, hi.ne]

theorem fnegB_eq {ty : Ty} (h : ty.isFp = true) (x : Nat) :
    fnegB (fmtOf ty) x = (x + 2 ^ (bitsOf ty - 1)) % 2 ^ bitsOf ty := by
  have hw : bitsOf ty = bitsOf ty - 1 + 1 := by have := bitsOf_pos ty; omega
  rw [fnegB, Fmt.width, fmtOf_bits h, xor_top_bit, ← hw]

theorem fabsB_eq {ty : Ty} (h : ty.isFp = true) (x : Nat) : fabsB (fmtOf ty) x = x % 2 ^ (bitsOf ty - 1) := by
  rw [fabsB, fmtOf_bits h]

/-- Inverting the sign bit negates the value. -/
theorem fval_fnegB (f : Fmt) (x : Nat) : fval f (fnegB f x) = fnegV (fval f x) := by
  have hsign : (fnegB f x).testBit (f.eb + f.mb) = !x.testBit (f.eb + f.mb) := by
    simp [fnegB, Fmt.width, Nat.testBit_xor, Nat.testBit_mod_two_pow, Nat.testBit_two_pow_self]
  have hother (i : Nat) (hi : i < f.eb + f.mb) : (fnegB f x).testBit i = x.testBit i := by
    simp [fnegB, Fmt.width, Nat.testBit_xor, Nat.testBit_mod_two_pow, hi.ne', Nat.lt_succ_of_lt hi]
  have hexp : bitsN (fnegB f x) f.mb f.eb = bitsN x f.mb f.eb := by
    refine Nat.eq_of_testBit_eq fun i => ?_
    simp only [bitsN, Nat.testBit_mod_two_pow, Nat.testBit_div_two_pow]
    by_cases hi : i < f.eb
    · rw [hother _ (by omega)]
    · simp [hi]
  have hfrac : fnegB f x % 2 ^ f.mb = x % 2 ^ f.mb := by
    refine Nat.eq_of_testBit_eq fun i => ?_
    simp only [Nat.testBit_mod_two_pow]
    by_cases hi : i < f.mb
    · rw [hother _ (by omega)]
    · simp [hi]
  simp only [fval, hsign, hexp, hfrac]
  split_ifs <;> rfl

/-! ### The choice of fmax and fmin (R148) -/

theorem orderKey_eq_rankOf {ty : Ty} (h : ty.isFp = true) (x : Nat) : orderKey (fmtOf ty) x = rankOf ty x := by
  rw [orderKey, rankOf, fmtOf_bits h, Nat.testBit_eq_decide_div_mod_eq]
  simp only [decide_eq_true_iff]
  split <;> omega

theorem selected_eq {ty : Ty} (h : ty.isFp = true) (most : Bool) (x y : Nat) :
    selected ty most x y =
      if (fval (fmtOf ty) x).isNan && (fval (fmtOf ty) y).isNan then none else some (picksFirst (fmtOf ty) most x y) := by
  unfold selected valueOf picksFirst
  rw [orderKey_eq_rankOf h, orderKey_eq_rankOf h]
  cases fval (fmtOf ty) x <;> cases fval (fmtOf ty) y <;> cases most <;> rfl

/-! ### The latencies (R139) -/

theorem lat24_eq (ty : Ty) : lat24 ty = latencyOf (latFor ty (some 2) (some 4)) := by
  rw [latencyOf_latFor]; rfl

theorem latF4_eq (ty : Ty) : latF4 ty = latencyOf (latFor ty (some 4) none) := by
  rw [latencyOf_latFor]; rfl

/-! ### The moulds -/

/-- A floating instruction of two sources follows its rule. -/
theorem holds_of_fmould {s : State} {i : Instr} {ty : Ty} {d : VReg} {a : Src} {c : Src ⊕ W32} {lat : Option Nat}
    {f g : Nat → Nat → Nat} {t u : Nat → Nat → Nat → Nat → Nat → Nat}
    (hexec : exec i s = fmould s ty d a (lastOf c) (latencyOf lat) f t) (hf : ∀ x y, f x y = g x y)
    (ht : ∀ x y p q, t x y (g x y) p q = u x y (g x y) p q) : (floats ty d a c lat g u).holds s i := by
  refine LaneRule.holds_of_laneWriteF hexec rfl fun hsrc => ?_
  have ha : steady s ty a := hsrc (ty, a) List.mem_cons_self
  have hc : ∀ e ∈ secondSrc ty c, steady s e.1 e.2 := fun e he => hsrc e (List.mem_cons_of_mem _ he)
  constructor
  · funext l
    rw [rd_of_steady ha, rdLast_of_steady hc, hf]; rfl
  · funext l j
    simp only [rd_of_steady ha, rdLast_of_steady hc, tanOf_of_steady ha, tanLast_of_steady hc, hf, ht]; rfl

/-- A floating instruction of one source follows its rule. -/
theorem holds_of_fmould1 {s : State} {i : Instr} {o : Un} {lat : Option Nat} {f : Nat → Nat} {t : Nat → Nat → Nat → Nat}
    (hexec : exec i s = fmould1 s o.ty o.d o.a (latencyOf lat) f t) : (floats1 o lat f t).holds s i := by
  refine LaneRule.holds_of_laneWriteF hexec rfl fun hsrc => ?_
  have ha : steady s o.ty o.a := hsrc (o.ty, o.a) List.mem_cons_self
  constructor
  · funext l
    rw [rd_of_steady ha]; rfl
  · funext l j
    simp only [rd_of_steady ha, tanOf_of_steady ha]; rfl

/-- An operation on the bits of one source follows its rule. -/
theorem holds_of_onOne {s : State} {i : Instr} {o : Un} {f g : Nat → Nat}
    (hexec : exec i s = laneWrite s o.ty o.d (lat24 o.ty) (fun l => f (s.rd o.ty o.a l))) (hf : ∀ x, f x = g x) :
    (onOne o g).holds s i := by
  rw [lat24_eq] at hexec
  refine LaneRule.holds_of_laneWriteT (r := onOne o g) hexec rfl fun hsrc => ⟨?_, rfl⟩
  · have ha : steady s o.ty o.a := hsrc (o.ty, o.a) List.mem_cons_self
    funext l
    rw [rd_of_steady ha, hf]; rfl

/-! ### Each instruction -/

section
variable {s : State} {i : Instr} {ty : Ty} {rm : Rm} {d : VReg} {a : Src} {c : Src ⊕ W32}

theorem holds_of_doFadd (hexec : exec i s = doFadd s ty rm d a (lastOf c)) : (faddRule ty rm d a c).holds s i := by
  rw [doFadd, latF4_eq] at hexec
  exact holds_of_fmould hexec (fun _ _ => rfl) fun _ _ _ _ => rfl

theorem holds_of_doFsub (hexec : exec i s = doFsub s ty rm d a (lastOf c)) : (fsubRule ty rm d a c).holds s i := by
  rw [doFsub, latF4_eq] at hexec
  exact holds_of_fmould hexec (fun _ _ => rfl) fun _ _ _ _ => rfl

theorem holds_of_doFmul (hexec : exec i s = doFmul s ty rm d a (lastOf c)) : (fmulRule ty rm d a c).holds s i := by
  rw [doFmul, latF4_eq] at hexec
  exact holds_of_fmould hexec (fun _ _ => rfl) fun _ _ _ _ => rfl

/-- The tangent of a quotient takes the result negated: by its value in the rule, by its sign bit in the model. -/
theorem tDiv_tFma_tNeg (y v p q : Nat) : tDiv (tFma (tNeg v) q p) y = overT (fmsT v q p) y := by
  rw [tFma, ffmaB, tNeg, fval_fnegB]; rfl

theorem holds_of_doFdiv (hexec : exec i s = doFdiv s ty rm d a (lastOf c)) : (fdivRule ty rm d a c).holds s i :=
  holds_of_fmould (lat := none) hexec (fun _ _ => rfl) fun _ y _ _ => tDiv_tFma_tNeg y _ _ _

theorem holds_of_doFmax {most : Bool} (hty : ty.isFp = true) (hexec : exec i s = doFmax s most ty d a (lastOf c)) :
    (fmaxRule most ty d a c).holds s i := by
  have hlat : latOf ty (.fixed 2) (.fixed 4) = latencyOf (latFor ty (some 2) (some 4)) := lat24_eq ty
  rw [doFmax, hlat] at hexec
  refine holds_of_fmould hexec (fun x y => ?_) fun x y p q => ?_
  · rw [fmaxB, selected_eq hty]
    split
    · rfl
    · cases picksFirst (fmtOf ty) most x y <;> rfl
  · rw [selected_eq hty]
    split
    · rfl
    · cases picksFirst (fmtOf ty) most x y <;> rfl

end

theorem holds_of_ffma {s : State} {o : TriR} {r : LaneRule} (hr : floatRule (.ffma o) = some r) : r.holds s (.ffma o) := by
  cases hr
  have hexec : exec (.ffma o) s = execFfma o s := rfl
  simp only [execFfma, latF4_eq] at hexec
  refine LaneRule.holds_of_laneWriteF hexec rfl fun hsrc => ?_
  have ha : steady s o.ty o.a := hsrc (o.ty, o.a) (by simp)
  have hb : steady s o.ty o.b := hsrc (o.ty, o.b) (by simp)
  have hc : steady s o.ty o.c := hsrc (o.ty, o.c) (by simp)
  constructor
  · funext l
    rw [rd_of_steady ha, rd_of_steady hb, rd_of_steady hc]; rfl
  · funext l j
    rw [rd_of_steady ha, rd_of_steady hb, tanOf_of_steady ha, tanOf_of_steady hb, tanOf_of_steady hc]; rfl

theorem holds_of_frnd {s : State} {o : UnR} {r : LaneRule} (hr : floatRule (.frnd o) = some r) : r.holds s (.frnd o) := by
  cases hr
  have hexec : exec (.frnd o) s = execFrnd o s := rfl
  rw [execFrnd, latF4_eq] at hexec
  exact holds_of_fmould1 (o := ⟨o.ty, o.d, o.a⟩) hexec

/-! ### The types of well-formed operands (R139) -/

theorem Bin.ty_of_ok {tys : Ty → Bool} {amount : Bool} {o : Bin} (h : o.ok tys amount = true) : tys o.ty = true := by
  simp only [Bin.ok, Bool.and_eq_true] at h
  obtain ⟨⟨⟨hty, -⟩, -⟩, -⟩ := h
  exact hty

theorem BinI.ty_of_ok {tys : Ty → Bool} {o : BinI} (h : o.ok tys = true) : tys o.ty = true := by
  simp only [BinI.ok, Bool.and_eq_true] at h
  obtain ⟨⟨⟨hty, -⟩, -⟩, -⟩ := h
  exact hty

theorem Un.ty_of_ok {tys : Ty → Bool} {o : Un} (h : o.ok tys = true) : tys o.ty = true := by
  simp only [Un.ok, Bool.and_eq_true] at h
  obtain ⟨⟨hty, -⟩, -⟩ := h
  exact hty

/-- Settles O27: each instruction by the mould that it follows. -/
theorem laneFloats : Obligations.LaneFloats := by
  unfold Obligations.LaneFloats
  intro s i r hwf hr
  cases i with
  | fadd o | faddImm o => cases hr; exact holds_of_doFadd rfl
  | fsub o | fsubImm o => cases hr; exact holds_of_doFsub rfl
  | fmul o | fmulImm o => cases hr; exact holds_of_doFmul rfl
  | fdiv o | fdivImm o => cases hr; exact holds_of_doFdiv rfl
  | ffma o => exact holds_of_ffma hr
  | fsqrt o => cases hr; exact holds_of_fmould1 rfl
  | frnd o => exact holds_of_frnd hr
  | fmax o | fmin o => cases hr; exact holds_of_doFmax (Bin.ty_of_ok hwf) rfl
  | fmaxImm o | fminImm o => cases hr; exact holds_of_doFmax (BinI.ty_of_ok hwf) rfl
  | fabs o => cases hr; exact holds_of_onOne rfl (fabsB_eq (Un.ty_of_ok hwf))
  | fneg o => cases hr; exact holds_of_onOne rfl (fnegB_eq (Un.ty_of_ok hwf))
  | _ => cases hr

end Sys2Proof.Machine
end

section
/-!
SUPPORT. Lane masks as lists of lanes, and the ballots and votes (spec/08 R165, R166).
-/
namespace Sys2Proof.Machine
open Sys2Proof.Claims

/-! ### Masks and their lanes -/

theorem getLsbD_maskBit {l : Nat} (hl : l < 128) (i : Nat) : (maskBit l).getLsbD i = decide (i = l) := by
  rw [maskBit, BitVec.getLsbD_ofNat, Nat.testBit_two_pow]
  by_cases h : i = l
  · simp [h, hl]
  · simp [h, Ne.symm h]

theorem getLsbD_foldl_maskBit (p : Nat → Bool) {ls : List Nat} (hls : ∀ l ∈ ls, l < 128) (m : Mask) (i : Nat) :
    (ls.foldl (fun acc l => if p l then acc ||| maskBit l else acc) m).getLsbD i =
      (m.getLsbD i || (decide (i ∈ ls) && p i)) := by
  induction ls generalizing m with
  | nil => simp
  | cons a ls ih =>
    rw [List.foldl_cons, ih (fun l hl => hls l (List.mem_cons_of_mem _ hl))]
    have hbit := getLsbD_maskBit (hls a List.mem_cons_self) i
    by_cases h : i = a
    · subst h
      cases hp : p i <;> simp [hbit]
    · cases hp : p a <;> simp [hbit, h]

theorem mem_lanesOf_iff (m : Mask) (i : Nat) : i ∈ lanesOf m ↔ m.getLsbD i = true :=
  mem_lanesOf.trans ⟨And.right, fun h => ⟨BitVec.lt_of_getLsbD h, h⟩⟩

theorem getLsbD_maskWhere (m : Mask) (p : Nat → Bool) (i : Nat) :
    (maskWhere m p).getLsbD i = (m.getLsbD i && p i) := by
  rw [maskWhere, getLsbD_foldl_maskBit p fun l hl => (mem_lanesOf.1 hl).1]
  simp [mem_lanesOf_iff]

theorem lanesOf_eq_nil_iff {m : Mask} : lanesOf m = [] ↔ m = 0 := by
  constructor
  · intro h
    refine BitVec.eq_of_getLsbD_eq fun i hi => ?_
    have hnot : i ∉ lanesOf m := by rw [h]; exact List.not_mem_nil
    simpa [mem_lanesOf_iff] using hnot
  · rintro rfl
    simp [lanesOf]

theorem contains_lanesOf (m : Mask) (i : Nat) : (lanesOf m).contains i = m.getLsbD i := by
  rw [Bool.eq_iff_iff, List.contains_iff_mem, mem_lanesOf_iff]

theorem lanesOf_act (s : State) : lanesOf s.act = activeLanes s := rfl

/-! ### Predicates without a result under way -/

/-- A steady predicate reads as it stands. -/
theorem pread_of_steadyP {s : State} {p : PReg} (h : steadyP s p) : s.pread s.cb p.toNat = s.cb.pmask p.toNat := by
  rw [State.pread]
  split
  · rfl
  · refine BitVec.eq_of_getLsbD_eq fun i hi => ?_
    rw [getLsbD_maskWhere]
    simp only [h i, Bool.false_eq_true, if_false, BitVec.getLsbD_allOnes, hi, decide_true, Bool.true_and]

theorem lanesOf_picked {s : State} {p : PReg} (h : steadyP s p) : lanesOf (s.picked p) = pickedLanes s p := by
  rw [lanesOf, State.picked, pread_of_steadyP h, pickedLanes, activeLanes, List.filter_filter]
  simp [Band.p, Bool.and_comm]

theorem getLsbD_picked {s : State} {p : PReg} (h : steadyP s p) (i : Nat) :
    (s.picked p).getLsbD i = (pickedLanes s p).contains i := by
  rw [← lanesOf_picked h, contains_lanesOf]

/-! ### Ballots (R165) -/

theorem bitsN_eq_sum (x lo n : Nat) :
    bitsN x lo n = ((List.range n).map (fun i => if x.testBit (lo + i) then 2 ^ i else 0)).sum := by
  induction n with
  | zero => simp [bitsN, Nat.mod_one]
  | succ n ih =>
    rw [List.range_succ, List.map_append, List.sum_append, ← ih, bitsN, bitsN, Nat.mod_pow_succ, ← Nat.toNat_testBit,
      Nat.testBit_div_two_pow, Nat.add_comm n lo, List.map_singleton, List.sum_singleton]
    cases x.testBit (lo + n) <;> simp

/-- The bits of a ballot, from lane `lo` on. -/
theorem bitsN_picked {s : State} {p : PReg} (h : steadyP s p) (lo n : Nat) :
    bitsN (s.picked p).toNat lo n =
      ((List.range n).map (fun i => if (pickedLanes s p).contains (lo + i) then 2 ^ i else 0)).sum := by
  rw [bitsN_eq_sum]
  simp only [BitVec.testBit_toNat, getLsbD_picked h]

theorem holds_ballot {s : State} {p : PReg} (h : steadyP s p) (d : VReg) :
    (given .n32 d (some 4) (fun _ l =>
      ((List.range 32).map (fun i => if (pickedLanes s p).contains (l / 32 * 32 + i) then 2 ^ i else 0)).sum)).holds s
        (.ballot (.v d) p) := by
  refine LaneRule.holds_of_laneWriteT (x := fun l => bitsN (s.picked p).toNat (l / 32 * 32) 32) (t := fun _ _ => 0)
    rfl rfl fun _ => ⟨?_, rfl⟩
  funext l
  exact bitsN_picked h _ _

/-! ### Scalar results of lane instructions -/

theorem laneWriteSO_eq (s : State) (d : SReg) (v : W64) (counts : Bool) :
    laneWriteSO s d v counts = .next (laneCounted s d v counts) := by
  rw [laneCounted, laneDone_eq]; rfl

theorem laneWriteQ_eq (s : State) (q : QReg) (v : Bool) : laneWriteQ s q v = .next (laneTruth s q v) := by
  rw [laneTruth, laneDone_eq]; rfl

theorem exec_ballot_scalar {s : State} {p : PReg} (h : steadyP s p) (d : SReg) (half : Bool) :
    exec (.ballot (.s d half) p) s = .next (laneScalar s d (BitVec.ofNat 64 ((List.range 64).map (fun i =>
      if (pickedLanes s p).contains ((if half then 64 else 0) + i) then 2 ^ i else 0)).sum)) := by
  have hexec : exec (.ballot (.s d half) p) s = laneWriteS s d (w64 (bitsN (s.picked p).toNat (half.toNat * 64) 64)) := rfl
  have hlo : half.toNat * 64 = if half then 64 else 0 := by cases half <;> rfl
  rw [hexec, laneWriteS, laneWriteSO_eq, bitsN_picked h, hlo]; rfl

/-! ### Votes (R166) -/

theorem exec_voteCnt {s : State} {p : PReg} (h : steadyP s p) (d : SReg) :
    exec (.voteCnt d p) s = .next (laneScalar s d (BitVec.ofNat 64 (pickedLanes s p).length)) := by
  have hexec : exec (.voteCnt d p) s = laneWriteS s d (w64 (lanesOf (s.picked p)).length) := rfl
  rw [hexec, laneWriteS, laneWriteSO_eq, lanesOf_picked h]; rfl

theorem exec_voteAny {s : State} {p : PReg} (h : steadyP s p) (q : QReg) :
    exec (.voteAny q p) s = .next (laneTruth s q (decide (0 < (pickedLanes s p).length))) := by
  have hexec : exec (.voteAny q p) s = laneWriteQ s q (s.picked p != 0) := rfl
  have hany : (s.picked p != 0) = decide (0 < (pickedLanes s p).length) := by
    rw [Bool.eq_iff_iff, bne_iff_ne, ne_eq, ← lanesOf_eq_nil_iff, lanesOf_picked h, decide_eq_true_iff,
      List.length_pos_iff]
  rw [hexec, laneWriteQ_eq, hany]

/-- A predicate picks every lane of A when it picks as many. -/
theorem picked_eq_act_iff {s : State} {p : PReg} (h : steadyP s p) :
    s.picked p = s.act ↔ (pickedLanes s p).length = (activeLanes s).length := by
  rw [pickedLanes, List.length_filter_eq_length_iff]
  constructor
  · intro heq l hl
    have hbit : (s.picked p).getLsbD l = true := by rw [heq]; exact (mem_lanesOf.1 hl).2
    rw [State.picked, pread_of_steadyP h, BitVec.getLsbD_and, Bool.and_eq_true] at hbit
    exact hbit.2
  · intro hall
    refine BitVec.eq_of_getLsbD_eq fun i hi => ?_
    rw [State.picked, pread_of_steadyP h, BitVec.getLsbD_and]
    cases ha : s.act.getLsbD i with
    | false => rfl
    | true => exact hall i (mem_lanesOf.2 ⟨hi, ha⟩)

theorem exec_voteAll {s : State} {p : PReg} (h : steadyP s p) (q : QReg) :
    exec (.voteAll q p) s =
      .next (laneTruth s q (decide ((pickedLanes s p).length = (activeLanes s).length))) := by
  have hexec : exec (.voteAll q p) s = laneWriteQ s q (s.picked p == s.act) := rfl
  have hall : (s.picked p == s.act) = decide ((pickedLanes s p).length = (activeLanes s).length) := by
    rw [Bool.eq_iff_iff, beq_iff_eq, decide_eq_true_iff, picked_eq_act_iff h]
  rw [hexec, laneWriteQ_eq, hall]

/-- Every value equals the first exactly when all are equal. -/
theorem all_eq_head (ls : List Nat) (x : Nat → Nat) :
    ls.all (fun l => x l == x (ls.headD 0)) = ls.all (fun l => ls.all (fun m => x l == x m)) := by
  rw [Bool.eq_iff_iff]
  simp only [List.all_eq_true, beq_iff_eq]
  constructor
  · intro h l hl m hm
    rw [h l hl, h m hm]
  · intro h l hl
    cases ls with
    | nil => cases hl
    | cons a ls => exact h l hl a List.mem_cons_self

theorem exec_voteUni {s : State} {o : VoteUniOp} (h : steady s o.ty (.v o.a)) :
    exec (.voteUni o) s = .next (laneTruth s o.q ((activeLanes s).all (fun l => (activeLanes s).all (fun m =>
      patternOf s.cb o.ty (.v o.a) l == patternOf s.cb o.ty (.v o.a) m)))) := by
  have hexec : exec (.voteUni o) s = laneWriteQ s o.q ((activeLanes s).all (fun l =>
      s.rd o.ty (.v o.a) l == s.rd o.ty (.v o.a) ((activeLanes s).headD 0))) := rfl
  rw [hexec, laneWriteQ_eq]
  simp only [rd_of_steady h]
  rw [all_eq_head]

end Sys2Proof.Machine
end

section
/-!
SUPPORT. Shuffles and permutes (spec/08 R167, R168): the elements and the flag that they write, and the source of each element.
-/
namespace Sys2Proof.Machine
open Sys2Proof.Claims

/-! ### A band after a lane instruction -/

/-- With no band at its turn a lane instruction changes nothing. -/
theorem finishL_of_no_band {s : State} (h : tget? s.bands s.cur.band = none) (f : Band → Band) : finishL s f = s := by
  rw [finishL_frame, State.modBand, tmod, h]

/-- What the end of a lane instruction does not change reads as the instruction left it; in a band that is not there nothing
may have changed. -/
theorem finishL_read {β : Type} (g : Band → β) (hg : ∀ (b : Band) c n a k, g (b.moveL c n a k) = g b) {s : State}
    {f : Band → Band} (h : tget? s.bands s.cur.band = none → g (f s.cb) = g s.cb) : g (finishL s f).cb = g (f s.cb) := by
  cases hb : tget? s.bands s.cur.band with
  | none => rw [finishL_of_no_band hb, h hb]
  | some b =>
    have hcb := State.cb_modCb (s := s) (fun b => (f b).moveL s.cur (s.cycleOf s.cb) (s.cf.pc + 12) true) (by rw [hb]; rfl)
    rw [finishL, hcb, hg]

/-! ### A predicate written in the lanes of a mask -/

theorem p_setP (b : Band) (n : Nat) (m v : Mask) (j : Nat) {l : Nat} :
    (b.setP n m v).p j l = if j = n ∧ n ≠ 0 ∧ m.getLsbD l = true then v.getLsbD l else b.p j l := by
  rw [Band.p, Band.pmask_setP]
  by_cases hj : j = n ∧ n ≠ 0
  · obtain ⟨rfl, hn⟩ := hj
    by_cases hl : l < 128
    · cases hm : m.getLsbD l <;> simp [hn, hm, hl, Band.p, -BitVec.getLsbD_eq_getElem]
    · simp [hn, Band.p, BitVec.getLsbD_of_ge _ l (Nat.le_of_not_lt hl)]
  · rw [if_neg hj, if_neg (fun h => hj ⟨h.1, h.2.1⟩), Band.p]

theorem errP_setP (b : Band) (n : Nat) (m v : Mask) (j : Nat) {l : Nat} (hl : l < 128) :
    (b.setP n m v).errP.contains (vkey j l) = true ↔
      b.errP.contains (vkey j l) = true ∧ ¬ (j = n ∧ n ≠ 0 ∧ m.getLsbD l = true) := by
  have hdiv : vkey j l / 128 = j := by unfold vkey; omega
  by_cases hn : n = 0
  · simp [Band.setP, hn]
  · simp only [Band.setP, hn, if_false, List.contains_iff_mem, List.mem_filter, hdiv, vkey_mod hl, ne_eq, not_false_eq_true,
      true_and, Bool.not_eq_true', Bool.and_eq_false_iff, beq_eq_false_iff_ne, not_and_or, Bool.not_eq_true]

/-- A predicate where nothing is under way is written in every lane. -/
theorem putP_of_not_early {s : State} {b : Band} {n : Nat} (h : ∀ l, s.early b true n l = false) (m v : Mask) :
    s.putP b n m v = b.setP n m v := by
  have hkeep : maskWhere m (fun _ => false) = 0 :=
    BitVec.eq_of_getLsbD_eq fun i _ => by rw [getLsbD_maskWhere, Bool.and_false]; exact BitVec.getLsbD_zero.symm
  have hall : m &&& ~~~(0 : Mask) = m := BitVec.and_allOnes
  rw [State.putP]
  simp only [h, Bool.false_and, hkeep, ite_self, hall]

/-- The writes of registers leave the predicates. -/
theorem preds_putRegs (b : Band) (ws : List (Nat × W32)) : (b.putRegs ws).preds = b.preds := by rw [putRegs_frame]
theorem errP_putRegs (b : Band) (ws : List (Nat × W32)) : (b.putRegs ws).errP = b.errP := by rw [putRegs_frame]

/-! ### The writes of elements -/

theorem elemTy_eq_elementTy (wide : Bool) : elemTy wide = elementTy wide := rfl

theorem wide_elementTy (wide : Bool) : (elementTy wide).wide = wide := by cases wide <;> rfl

/-- The register writes of the elements x in the lanes of a mask. -/
def elementWrites (wide : Bool) (d : VReg) (m : Mask) (x : Nat → Nat) : List (Nat × W32) :=
  (lanesOf m).flatMap (fun l => resultWrites (elementTy wide) d.toNat l (x l))

/-- What the writes of elements leave in each register. -/
theorem lastWrite_elementWrites (wide : Bool) (d : VReg) (m : Mask) (x : Nat → Nat) (r : Nat) {l : Nat} (hl : l < 128) :
    lastWrite (elementWrites wide d m x) (vkey r l) = if m.getLsbD l then
      (if r = d.toNat then some (BitVec.ofNat 32 (x l))
        else if wide ∧ r = d.toNat + 1 then some (BitVec.ofNat 32 (x l / 2 ^ 32)) else none)
      else none := by
  have hlane : ∀ l ∈ lanesOf m, ∀ e ∈ resultWrites (elementTy wide) d.toNat l (x l), e.1 % 128 = l := fun l hl e he => by
    obtain ⟨r, hr⟩ := mem_resultWrites he
    rw [hr, vkey_mod (mem_lanesOf.1 hl).1]
  rw [elementWrites, lastWrite_flatMap hlane, vkey_mod hl, lastWrite_resultWrites, wide_elementTy]
  simp only [mem_lanesOf_iff]
  refine if_congr Iff.rfl ?_ rfl
  cases wide with
  | true =>
    by_cases hd : r = d.toNat
    · simp [hd]
    · simp [hd]
  | false =>
    have hext : extended (elementTy false) (x l) = BitVec.ofNat 32 (x l) :=
      BitVec.eq_of_toNat_eq (by simp [extended, elementTy, Ty.signed, bitsOf])
    simp [hext]

/-- Elements written in lanes of A are writes of a lane instruction with their destination. -/
theorem mem_laneWs_of_elementWrites {s : State} {wide : Bool} {d : VReg} {m : Mask} {x : Nat → Nat}
    (hm : ∀ l, m.getLsbD l = true → s.act.getLsbD l = true) {e : Nat × W32} (he : e ∈ elementWrites wide d m x) :
    e ∈ laneWs s (elementTy wide) d x (fun _ _ => 0) := by
  obtain ⟨l, hl, he⟩ := List.mem_flatMap.1 he
  rw [laneWs_eq]
  refine List.mem_flatMap.2 ⟨l, (mem_lanesOf_iff _ _).2 (hm l ((mem_lanesOf_iff _ _).1 hl)), ?_⟩
  exact List.mem_append_left _ (List.mem_append_left _ he)

/-- What a shuffle or permute does to the band. -/
def Band.withElements (s : State) (wide : Bool) (d : VReg) (f : PReg) (m : Mask) (x : Nat → Nat) (flag : Nat → Bool)
    (b : Band) : Band :=
  { (b.putRegs (elementWrites wide d m x)).setP f.toNat s.act (maskWhere s.act flag) with
    ready := b.ready ++ [readyAt s d.toNat 4] ++
      (if f = 0 then [] else [⟨true, f.toNat, s.act, (s.tile s.cb.ptile).cycle.toNat + 4, []⟩]) ++
      (if wide then [readyAt s (d.toNat + 1) 4] else []) }

theorem Band.due_true (b : Band) (f : PReg) (m : Mask) (c : Nat) (old : List (Nat × W32)) :
    b.due true f.toNat m c old = { b with ready := b.ready ++ (if f = 0 then [] else [⟨true, f.toNat, m, c, old⟩]) } := by
  have hzero : f.toNat = 0 ↔ f = 0 := by rw [← BitVec.toNat_inj]; rfl
  by_cases hf : f = 0
  · simp [Band.due, hf]
  · have hne : (f.toNat == 0) = false := by rw [beq_eq_false_iff_ne]; exact mt hzero.1 hf
    rw [Band.due, hne, if_neg hf]; rfl

theorem Band.setP_frame (b : Band) (n : Nat) (m v : Mask) :
    b.setP n m v = { b with preds := (b.setP n m v).preds, errP := (b.setP n m v).errP } := by
  unfold Band.setP; split <;> rfl

theorem readyAt_eq (s : State) (reg n : Nat) : readyAt s reg n = ⟨false, reg, s.act, s.cycleOf s.cb + n, s.olds reg⟩ := rfl

/-- The writes of a shuffle or permute, where nothing is under way. -/
theorem writeElems_eq {s : State} {wide : Bool} {d : VReg} {f : PReg} (hland : landable s (elementTy wide) d)
    (hf : steadyP s f) {m : Mask} (hm : ∀ l, m.getLsbD l = true → s.act.getLsbD l = true) (x : Nat → Nat) (flag : Nat → Bool) :
    writeElems s wide d f m x flag = .next (finishL s (Band.withElements s wide d f m x flag)) := by
  unfold writeElems
  simp only
  congr 1
  refine State.modCb_congr s ?_
  have hregs : (elementWrites wide d m x).foldl s.putV s.cb = s.cb.putRegs (elementWrites wide d m x) :=
    foldl_putV_of_not_early fun e he => not_early_of_landable hland (mem_laneWs_of_elementWrites hm he)
  have hearly (l : Nat) : s.early (s.cb.putRegs (elementWrites wide d m x)) true f.toNat l = false := by
    rw [putRegs_frame]; exact hf l
  have hpred := putP_of_not_early hearly s.act (maskWhere s.act flag)
  have hready :
      ((s.cb.putRegs (elementWrites wide d m x)).setP f.toNat s.act (maskWhere s.act flag)).ready = s.cb.ready := by
    rw [Band.setP_frame, putRegs_frame]
  rw [elementWrites] at hregs hpred hready
  simp only [elemTy_eq_elementTy, hregs, hpred]
  congr 1
  simp only [Band.due_false, Band.due_true, hready, ← readyAt_eq, Band.withElements, elementWrites]
  cases wide with
  | true => rfl
  | false => simp only [Bool.false_eq_true, if_false, List.append_nil]; rfl

section
variable (s : State) (wide : Bool) (d : VReg) (f : PReg) (m : Mask) (x : Nat → Nat) (flag : Nat → Bool)

theorem withElements_vregs :
    (Band.withElements s wide d f m x flag s.cb).vregs = (s.cb.putRegs (elementWrites wide d m x)).vregs := by
  rw [Band.withElements, Band.setP_frame]

theorem withElements_errV :
    (Band.withElements s wide d f m x flag s.cb).errV = (s.cb.putRegs (elementWrites wide d m x)).errV := by
  rw [Band.withElements, Band.setP_frame]

theorem withElements_p (j l : Nat) : (Band.withElements s wide d f m x flag s.cb).p j l =
    if j = f.toNat ∧ f.toNat ≠ 0 ∧ s.act.getLsbD l = true then flag l else s.cb.p j l := by
  have hset : (Band.withElements s wide d f m x flag s.cb).p j l =
      ((s.cb.putRegs (elementWrites wide d m x)).setP f.toNat s.act (maskWhere s.act flag)).p j l := rfl
  rw [hset, p_setP, Band.p, Band.pmask_congr (preds_putRegs s.cb _)]
  refine if_ctx_congr Iff.rfl (fun h => ?_) fun _ => rfl
  rw [getLsbD_maskWhere, h.2.2, Bool.true_and]

theorem withElements_errP (j : Nat) {l : Nat} (hl : l < 128) :
    (Band.withElements s wide d f m x flag s.cb).errP.contains (vkey j l) = true ↔
      s.cb.errP.contains (vkey j l) = true ∧ ¬ (j = f.toNat ∧ f.toNat ≠ 0 ∧ s.act.getLsbD l = true) := by
  have hset : (Band.withElements s wide d f m x flag s.cb).errP =
      ((s.cb.putRegs (elementWrites wide d m x)).setP f.toNat s.act (maskWhere s.act flag)).errP := rfl
  rw [hset, errP_setP _ _ _ _ _ hl, errP_putRegs]

theorem withElements_frame : Band.withElements s wide d f m x flag s.cb = { s.cb with
    vregs := (Band.withElements s wide d f m x flag s.cb).vregs
    errV := (Band.withElements s wide d f m x flag s.cb).errV
    preds := (Band.withElements s wide d f m x flag s.cb).preds
    errP := (Band.withElements s wide d f m x flag s.cb).errP
    ready := (Band.withElements s wide d f m x flag s.cb).ready } := by
  unfold Band.withElements
  rw [Band.setP_frame, putRegs_frame]

end

/-- The state after a shuffle or permute, its band's registers and predicates apart. -/
theorem finishL_withElements_frame (s : State) (wide : Bool) (d : VReg) (f : PReg) (m : Mask) (x : Nat → Nat)
    (flag : Nat → Bool) :
    let t := finishL s (Band.withElements s wide d f m x flag)
    t = laneDone s (fun b => { b with
      vregs := t.cb.vregs
      errV := t.cb.errV
      preds := t.cb.preds
      errP := t.cb.errP
      ready := b.ready ++ [readyAt s d.toNat 4] ++
        (if f = 0 then [] else [⟨true, f.toNat, s.act, (s.tile s.cb.ptile).cycle.toNat + 4, []⟩]) ++
        (if wide then [readyAt s (d.toNat + 1) 4] else []) }) := by
  intro t
  rw [laneDone_eq]
  cases hb : tget? s.bands s.cur.band with
  | none => rw [finishL_of_no_band hb]; exact finishL_of_no_band hb _
  | some b =>
    have hread {β : Type} (g : Band → β) (hg : ∀ (b : Band) c n a k, g (b.moveL c n a k) = g b) :
        g t.cb = g (Band.withElements s wide d f m x flag s.cb) :=
      finishL_read g hg fun h => by rw [hb] at h; cases h
    refine State.modCb_congr s ?_
    rw [hread Band.vregs (by simp), hread Band.errV (by simp), hread Band.preds (by simp), hread Band.errP (by simp)]
    congr 1
    exact withElements_frame s wide d f m x flag

/-- A shuffle or permute that writes the elements x in the lanes of a mask, in the words of the statements: y says which lanes of
A take one. -/
theorem writeElems_moved {s : State} {wide : Bool} {d : VReg} {f : PReg} (hland : landable s (elementTy wide) d)
    (hf : steadyP s f) {m : Mask} {x : Nat → Nat} {y : Nat → Option Nat} (flag : Nat → Bool)
    (hm : ∀ l, m.getLsbD l = true → s.act.getLsbD l = true)
    (hy : ∀ l, s.act.getLsbD l = true → y l = if m.getLsbD l then some (x l) else none) :
    ∃ t, writeElems s wide d f m x flag = .next t ∧ elementsMoved s t wide d f y flag := by
  have hfzero : f ≠ 0 ↔ f.toNat ≠ 0 := by rw [ne_eq, ← BitVec.toNat_inj]; rfl
  refine ⟨_, writeElems_eq hland hf hm x flag, finishL_withElements_frame s wide d f m x flag, fun r l hl => ?_,
    fun j l hl => ?_⟩
  · intro w
    have hw : lastWrite (elementWrites wide d m x) (vkey r l) = w := by
      rw [lastWrite_elementWrites wide d m x r hl]
      by_cases ha : s.act.getLsbD l = true
      · simp only [w, ha, if_true, hy l ha]
        cases m.getLsbD l <;> rfl
      · rw [if_neg fun h => ha (hm l h)]
        exact (if_neg ha).symm
    have hnone (hb : tget? s.bands s.cur.band = none) : w = none := by
      simp [w, act_of_no_band hb]
    have hv : (Band.withElements s wide d f m x flag s.cb).v r l = w.getD (s.cb.v r l) := by
      rw [← hw, Band.v, withElements_vregs]; exact reg_putRegs s.cb _ _
    have he : (Band.withElements s wide d f m x flag s.cb).errV.contains (vkey r l) = true ↔
        s.cb.errV.contains (vkey r l) = true ∧ w = none := by
      rw [← hw, withElements_errV]; exact errV_putRegs s.cb _ _
    constructor
    · rw [← hv]
      exact finishL_read (fun b => b.v r l) (fun b c n a k => Band.v_congr (by simp) r l)
        fun hb => by rw [hv, hnone hb]; rfl
    · rw [← he, finishL_read (fun b => b.errV.contains (vkey r l)) (by simp) fun hb => Bool.eq_iff_iff.2 (by
        rw [he]; exact and_iff_left (hnone hb))]
  · intro here
    have hhere : (j = f.toNat ∧ f.toNat ≠ 0 ∧ s.act.getLsbD l = true) ↔ here := by rw [← hfzero]
    have hnot (hb : tget? s.bands s.cur.band = none) : ¬ here := by
      simp [here, act_of_no_band hb]
    have hp := withElements_p s wide d f m x flag j l
    have he := withElements_errP s wide d f m x flag j hl
    simp only [hhere] at hp he
    constructor
    · rw [finishL_read (fun b => b.p j l) (fun b c n a k => by simp [Band.p, Band.pmask])
        fun hb => by rw [hp, if_neg (hnot hb)], hp]
      by_cases h : here <;> simp [h]
    · rw [← he, finishL_read (fun b => b.errP.contains (vkey j l)) (by simp) fun hb => Bool.eq_iff_iff.2 (by
        rw [he]; exact and_iff_left (hnot hb))]

/-! ### Shuffles (R167) -/

theorem shflSource_eq (mode : ShflMode) (lanes l n : Nat) : shflSource mode lanes l n = shuffleFrom mode lanes l n := by
  cases mode with
  | idx | down | xor => rfl
  | up => by_cases h : n ≤ l <;> simp [shflSource, shuffleFrom, h]

/-- A lane of the other fragment gives the register as it stands, where nothing is under way. -/
theorem vreadOther_of_steady {s : State} {wide : Bool} {a : VReg} (h : steady s (elementTy wide) (.v a)) (l : Nat) :
    s.vreadOther s.cb wide a.toNat l = patternOf s.cb (elementTy wide) (.v a) l := by
  have hold {n : Nat} (hn : s.early s.cb false n l = false) :
      s.cb.ready.findSome? (fun r =>
        if !r.pred && r.reg == n && r.mask.getLsbD l && decide (s.cycleOf s.cb < r.due) then
          (r.old.find? (fun e => e.1 == l)).map (·.2)
        else none) = none := by
    rw [List.findSome?_eq_none_iff]
    intro r hr
    have hr := List.any_eq_false.1 hn r hr
    rw [beq_false] at hr
    rw [if_neg hr]
  obtain ⟨hlow, hhigh⟩ := h l
  rw [wide_elementTy] at hhigh
  have hlt := (s.cb.v a.toNat l).isLt
  simp only [State.vreadOther, hold hlow, Option.getD_none, ite_self]
  cases wide with
  | false => simpa [patternOf, elementTy, Ty.wide, bitsOf] using (Nat.mod_eq_of_lt hlt).symm
  | true =>
    have hlt' := (s.cb.v (a.toNat + 1) l).isLt
    simp only [hold (hhigh rfl), Option.getD_none, ite_self, if_true, patternOf, elementTy, Ty.wide, bitsOf]
    omega

theorem shflElem_of_steady {s : State} {wide : Bool} {a : VReg} (h : steady s (elementTy wide) (.v a)) (l : Nat) :
    shflElem s wide a l = patternOf s.cb (elementTy wide) (.v a) l := by
  rw [shflElem, elemTy_eq_elementTy, rd_of_steady h, vreadOther_of_steady h, ite_self]

theorem shfl_moved {s : State} {o : ShflOp} (ha : steady s (elementTy o.wide) (.v o.a)) (hb : steady s .n32 o.b)
    (hland : landable s (elementTy o.wide) o.d) (hf : steadyP s o.f) :
    let from_ (l : Nat) : Option Nat := shuffleFrom o.mode s.cb.lanes l (patternOf s.cb .n32 o.b l)
    ∃ t, exec (.shfl o) s = .next t ∧ elementsMoved s t o.wide o.d o.f
      (fun l => some (match from_ l with
        | none => patternOf s.cb (elementTy o.wide) (.v o.a) l
        | some m => if s.cb.dead.getLsbD m then 0 else patternOf s.cb (elementTy o.wide) (.v o.a) m))
      (fun l => (from_ l).any (fun m => !s.cb.dead.getLsbD m)) := by
  intro from_
  have hexec : exec (.shfl o) s = execShfl o s := rfl
  have hflag : (fun l => match from_ l with
      | none => false
      | some i => !s.cb.dead.getLsbD i) = fun l => (from_ l).any (fun m => !s.cb.dead.getLsbD m) := by
    funext l; cases from_ l <;> rfl
  simp only [hexec, execShfl, shflSource_eq, State.rdN32, rd_of_steady hb, elemTy_eq_elementTy, rd_of_steady ha,
    shflElem_of_steady ha]
  rw [← hflag]
  exact writeElems_moved hland hf _ (fun _ h => h) fun l hl => (if_pos hl).symm

/-! ### Permutes (R168) -/

theorem permWinner_eq {s : State} {o : PermOp} (hb : steady s .n32 o.b) (t : Nat) : permWinner s o t = namedBy s o.b t := by
  simp only [permWinner, namedBy, State.rdN32, rd_of_steady hb, lanesOf_act]

theorem perm_moved {s : State} {o : PermOp} (ha : steady s (elementTy o.wide) (.v o.a)) (hb : steady s .n32 o.b)
    (hland : landable s (elementTy o.wide) o.d) (hf : steadyP s o.f) :
    ∃ t, exec (.perm o) s = .next t ∧ elementsMoved s t o.wide o.d o.f
      (fun l => (namedBy s o.b l).map (patternOf s.cb (elementTy o.wide) (.v o.a)))
      (fun l => (activeLanes s).contains (patternOf s.cb .n32 o.b l) &&
        namedBy s o.b (patternOf s.cb .n32 o.b l) == some l) := by
  have hexec : exec (.perm o) s = execPerm o s := rfl
  have hmem (n : Nat) : (decide (n < 128) && s.act.getLsbD n) = (activeLanes s).contains n := by
    rw [← lanesOf_act, Bool.eq_iff_iff, List.contains_iff_mem, mem_lanesOf, Bool.and_eq_true, decide_eq_true_iff]
  simp only [hexec, execPerm, permWinner_eq hb, State.rdN32, rd_of_steady hb, elemTy_eq_elementTy, rd_of_steady ha, hmem]
  refine writeElems_moved hland hf _ (fun l hl => ?_) fun l hl => ?_
  · rw [getLsbD_maskWhere, Bool.and_eq_true] at hl
    exact hl.1
  · rw [getLsbD_maskWhere, hl, Bool.true_and]
    cases namedBy s o.b l <;> rfl

end Sys2Proof.Machine
end

section
/-!
SUPPORT. Reductions across the lanes (spec/08 R169, spec/03 R68): the model's folds over patterns against the folds of the
statements, and O31.
-/
namespace Sys2Proof.Machine
open Sys2Proof.Claims

/-! ### Patterns and their integers -/

theorem patternOf_lt (b : Band) (ty : Ty) (x : Src) (l : Nat) : patternOf b ty x l < 2 ^ bitsOf ty := by
  cases x <;> exact Nat.mod_lt _ (by positivity)

theorem ofInt_eq_wrapped (ty : Ty) (x : Int) : ofInt (tyBits ty) x = wrapped ty x := by
  rw [tyBits_eq_bitsOf, ofInt, wrapped]; push_cast; rfl

theorem wrapped_lt (ty : Ty) (x : Int) : wrapped ty x < 2 ^ bitsOf ty := by
  have hpos : (0 : Int) < 2 ^ bitsOf ty := by positivity
  have := Int.emod_lt_of_pos x hpos
  have := Int.emod_nonneg x hpos.ne'
  zify [wrapped]; omega

theorem intOf_eq_integerOf {ty : Ty} {x : Nat} (h : x < 2 ^ bitsOf ty) : intOf ty x = integerOf ty x := by
  have hbits : tySize ty * 8 = bitsOf ty := tyBits_eq_bitsOf ty
  rw [intOf, integerOf, hbits, toInt_eq_signedField (bitsOf_pos ty), Nat.mod_eq_of_lt h]

/-- A pattern is the pattern of its integer. -/
theorem wrapped_integerOf {ty : Ty} {x : Nat} (h : x < 2 ^ bitsOf ty) : wrapped ty (integerOf ty x) = x := by
  have hmod : (integerOf ty x) % 2 ^ bitsOf ty = (x : Int) := by
    have hx : (x : Int) % 2 ^ bitsOf ty = x := Int.emod_eq_of_lt (by omega) (by exact_mod_cast h)
    unfold integerOf signedField
    split_ifs
    · rw [Int.sub_emod_right, hx]
    · exact hx
    · exact hx
  rw [wrapped, hmod, Int.toNat_natCast]

/-- The integers of a type lie between its ends. -/
theorem integerOf_bounds {ty : Ty} {x : Nat} (h : x < 2 ^ bitsOf ty) :
    lowEnd ty ≤ integerOf ty x ∧ integerOf ty x ≤ highEnd ty := by
  obtain ⟨k, hk⟩ : ∃ k, bitsOf ty = k + 1 := ⟨bitsOf ty - 1, by have := bitsOf_pos ty; omega⟩
  have hpow : (2 : Int) ^ (k + 1) = 2 * 2 ^ k := by ring
  have hlt : (x : Int) < 2 ^ (k + 1) := by rw [← hk]; exact_mod_cast h
  have hbit : x.testBit k = decide (2 ^ k ≤ x) := by
    rw [hk] at h
    rw [Nat.testBit_eq_decide_div_mod_eq, Bool.eq_iff_iff, decide_eq_true_iff, decide_eq_true_iff]
    have hdiv : x / 2 ^ k < 2 := Nat.div_lt_of_lt_mul (by rw [← Nat.pow_succ]; exact h)
    rw [Nat.mod_eq_of_lt hdiv, ← Nat.one_le_div_iff (by positivity)]
    omega
  have hcast : 2 ^ k ≤ x ↔ (2 : Int) ^ k ≤ x := by exact_mod_cast Iff.rfl
  unfold lowEnd highEnd integerOf signedField
  rw [hk, Nat.add_sub_cancel, hbit]
  simp only [decide_eq_true_iff, hcast]
  split_ifs <;> omega

/-! ### The folds of integers -/

/-- A fold that chooses between integers, over patterns, is the fold over their integers. -/
theorem foldl_choose {pick : Int → Int → Int} (hpick : ∀ p q, pick p q = p ∨ pick p q = q) {ty : Ty} {xs : List Nat}
    (hxs : ∀ y ∈ xs, y < 2 ^ bitsOf ty) {x : Nat} (hx : x < 2 ^ bitsOf ty) :
    xs.foldl (fun p q => ofInt (tyBits ty) (pick (intOf ty p) (intOf ty q))) x =
      wrapped ty ((xs.map (integerOf ty)).foldl pick (integerOf ty x)) := by
  induction xs generalizing x with
  | nil => exact (wrapped_integerOf hx).symm
  | cons y xs ih =>
    have hy := hxs y List.mem_cons_self
    have hint : integerOf ty (wrapped ty (pick (integerOf ty x) (integerOf ty y))) = pick (integerOf ty x) (integerOf ty y) := by
      rcases hpick (integerOf ty x) (integerOf ty y) with h | h
      · rw [h, wrapped_integerOf hx]
      · rw [h, wrapped_integerOf hy]
    rw [List.foldl_cons, List.map_cons, List.foldl_cons, intOf_eq_integerOf hx, intOf_eq_integerOf hy, ofInt_eq_wrapped,
      ih (fun z hz => hxs z (List.mem_cons_of_mem _ hz)) (wrapped_lt ty _), hint]

theorem foldl_add_mod (m : Nat) {x : Nat} (hx : x < m) (xs : List Nat) :
    xs.foldl (fun p q => (p + q) % m) x = (x + xs.sum) % m := by
  induction xs generalizing x with
  | nil => exact (Nat.mod_eq_of_lt hx).symm
  | cons y xs ih =>
    rw [List.foldl_cons, ih (Nat.mod_lt _ (by omega)), Nat.mod_add_mod, List.sum_cons, Nat.add_assoc]

theorem foldl_lt {m : Nat} {op : Nat → Nat → Nat} (hop : ∀ p q, p < m → q < m → op p q < m) {xs : List Nat}
    (hxs : ∀ y ∈ xs, y < m) {x : Nat} (hx : x < m) : xs.foldl op x < m := by
  induction xs generalizing x with
  | nil => exact hx
  | cons y xs ih =>
    exact ih (fun z hz => hxs z (List.mem_cons_of_mem _ hz)) (hop _ _ hx (hxs y List.mem_cons_self))

/-! ### Floating reductions -/

theorem canonNan_eq_canonical {ty : Ty} (h : ty.isFp = true) (x : Nat) : canonNan ty x = canonical ty x := by
  rw [canonNan, canonical, h, Bool.true_and]; rfl

theorem sumRound_eq_pairUp (ty : Ty) (rm : Rm) (xs : List Nat) : sumRound (fmtOf ty) rm xs = pairUp ty rm xs := by
  induction xs using pairUp.induct with
  | case1 x y rest ih => rw [sumRound, pairUp, ih]; rfl
  | case2 xs h =>
    cases xs with
    | nil => rfl
    | cons x xs =>
      cases xs with
      | nil => rfl
      | cons y xs => exact absurd rfl (h x y xs)

theorem sumTree_eq_foldl (ty : Ty) (rm : Rm) (n : Nat) (xs : List Nat) :
    sumTree (fmtOf ty) rm n xs = ((List.range n).foldl (fun ys _ => pairUp ty rm ys) xs).headD 0 := by
  induction n generalizing xs with
  | zero => rfl
  | succ n ih =>
    rw [sumTree, ih, sumRound_eq_pairUp, List.range_succ_eq_map, List.foldl_cons, List.foldl_map]

theorem fmaxB_eq_selected {ty : Ty} (h : ty.isFp = true) (most : Bool) (x y : Nat) :
    fmaxB (fmtOf ty) most x y = match selected ty most x y with
      | some true => x
      | some false => y
      | none => roundedTo ty .rne .nan := by
  rw [fmaxB, selected_eq h]
  split
  · rfl
  · cases picksFirst (fmtOf ty) most x y <;> rfl

/-! What the statements say of each floating operation. -/

section
variable {ty : Ty} (h : ty.isFp = true) (rm : Rm) (x : Nat) (rest xs : List Nat)
include h

theorem reduced_add_of_isFp : reduced .add ty rm xs =
    if xs = [] then 0 else canonical ty (((List.range 7).foldl (fun ys _ => pairUp ty rm ys) xs).headD 0) := if_pos h

theorem reduced_min_nil_of_isFp : reduced .min ty rm [] = (fmtOf ty).inf false := if_pos h
theorem reduced_max_nil_of_isFp : reduced .max ty rm [] = (fmtOf ty).inf true := if_pos h

theorem reduced_min_cons_of_isFp :
    reduced .min ty rm (x :: rest) = canonical ty (rest.foldl (fmaxB (fmtOf ty) false) x) := by
  rw [funext₂ (fmaxB_eq_selected h false)]; exact if_pos h

theorem reduced_max_cons_of_isFp :
    reduced .max ty rm (x :: rest) = canonical ty (rest.foldl (fmaxB (fmtOf ty) true) x) := by
  rw [funext₂ (fmaxB_eq_selected h true)]; exact if_pos h

theorem lredPair_min_of_isFp : lredPair .min ty = fmaxB (fmtOf ty) false := funext₂ fun _ _ => if_pos h
theorem lredPair_max_of_isFp : lredPair .max ty = fmaxB (fmtOf ty) true := funext₂ fun _ _ => if_pos h

theorem isInt4_of_isFp : ty.isInt4 = false := by
  cases ty with
  | f32 | f16 | bf16 | f64 => rfl
  | _ => cases h

end

/-- The floating operations of R169. -/
theorem lredOf_of_isFp {fn : LredFn} {ty : Ty} (h : ty.isFp = true) (hfn : fn.tys ty = true) (rm : Rm) (xs : List Nat) :
    lredOf fn ty rm xs = reduced fn ty rm xs := by
  cases fn with
  | add =>
    rw [reduced_add_of_isFp h]
    cases xs with
    | nil => rfl
    | cons x rest =>
      rw [if_neg (List.cons_ne_nil x rest), ← sumTree_eq_foldl, ← canonNan_eq_canonical h]
      simp only [lredOf, h]; rfl
  | min =>
    cases xs with
    | nil => exact (if_pos h).trans (reduced_min_nil_of_isFp h rm).symm
    | cons x rest =>
      rw [reduced_min_cons_of_isFp h, ← canonNan_eq_canonical h, ← lredPair_min_of_isFp h]; rfl
  | max =>
    cases xs with
    | nil => exact (if_pos h).trans (reduced_max_nil_of_isFp h rm).symm
    | cons x rest =>
      rw [reduced_max_cons_of_isFp h, ← canonNan_eq_canonical h, ← lredPair_max_of_isFp h]; rfl
  | and | or | xor =>
    have hfn : ty.isInt4 = true := hfn
    rw [isInt4_of_isFp h] at hfn
    cases hfn

/-! ### Integer reductions -/

theorem canonNan_of_not_isFp {ty : Ty} (h : ty.isFp = false) (x : Nat) : canonNan ty x = x := by
  simp [canonNan, h]

theorem tyMax_eq_highEnd (ty : Ty) : tyMax ty = highEnd ty := by
  simp only [tyMax, highEnd, tyBits_eq_bitsOf]; push_cast; rfl

theorem tyMin_eq_lowEnd (ty : Ty) : tyMin ty = lowEnd ty := by
  simp only [tyMin, lowEnd, tyBits_eq_bitsOf]; push_cast; rfl

theorem min_eq_ite : (min : Int → Int → Int) = fun p q => if q < p then q else p := by
  funext p q; split <;> omega

theorem max_eq_ite : (max : Int → Int → Int) = fun p q => if p < q then q else p := by
  funext p q; split <;> omega

/-! What the statements say of each integer operation, and the model's steps. -/

section
variable {ty : Ty} (h : ty.isFp = false) (rm : Rm) (xs : List Nat)
include h

theorem reduced_add_of_not_isFp : reduced .add ty rm xs = xs.sum % 2 ^ bitsOf ty := if_neg (by simp [h])

theorem reduced_min_of_not_isFp :
    reduced .min ty rm xs = wrapped ty ((xs.map (integerOf ty)).foldl min (highEnd ty)) := by
  rw [min_eq_ite]; exact if_neg (by simp [h])

theorem reduced_max_of_not_isFp :
    reduced .max ty rm xs = wrapped ty ((xs.map (integerOf ty)).foldl max (lowEnd ty)) := by
  rw [max_eq_ite]; exact if_neg (by simp [h])

theorem reduced_and_of_not_isFp : reduced .and ty rm xs = xs.foldl (· &&& ·) (2 ^ bitsOf ty - 1) := if_neg (by simp [h])
theorem reduced_or_of_not_isFp : reduced .or ty rm xs = xs.foldl (· ||| ·) 0 := if_neg (by simp [h])
theorem reduced_xor_of_not_isFp : reduced .xor ty rm xs = xs.foldl (· ^^^ ·) 0 := if_neg (by simp [h])

theorem lredPair_min_of_not_isFp : lredPair .min ty = fun p q => ofInt (tyBits ty) (min (intOf ty p) (intOf ty q)) :=
  funext₂ fun _ _ => if_neg (by simp [h])

theorem lredPair_max_of_not_isFp : lredPair .max ty = fun p q => ofInt (tyBits ty) (max (intOf ty p) (intOf ty q)) :=
  funext₂ fun _ _ => if_neg (by simp [h])

theorem lredOf_cons_of_not_isFp (fn : LredFn) (x : Nat) : lredOf fn ty rm (x :: xs) = xs.foldl (lredPair fn ty) x := by
  simp only [lredOf, h, Bool.and_false, Bool.false_eq_true, if_false, canonNan_of_not_isFp h]

end

/-- The integer operations of R169 over no lanes. -/
theorem lredEmpty_of_not_isFp (fn : LredFn) {ty : Ty} (h : ty.isFp = false) (rm : Rm) :
    lredEmpty fn ty = reduced fn ty rm [] := by
  cases fn with
  | add => rw [reduced_add_of_not_isFp h, List.sum_nil, Nat.zero_mod]; rfl
  | min =>
    rw [reduced_min_of_not_isFp h, List.map_nil, List.foldl_nil, ← tyMax_eq_highEnd, ← ofInt_eq_wrapped]
    exact if_neg (by simp [h])
  | max =>
    rw [reduced_max_of_not_isFp h, List.map_nil, List.foldl_nil, ← tyMin_eq_lowEnd, ← ofInt_eq_wrapped]
    exact if_neg (by simp [h])
  | and => rw [reduced_and_of_not_isFp h, List.foldl_nil, ← tyBits_eq_bitsOf]; rfl
  | or => rw [reduced_or_of_not_isFp h]; rfl
  | xor => rw [reduced_xor_of_not_isFp h]; rfl

/-- The integer operations of R169: a fold from the first value is the one from the value of no lanes. -/
theorem lredOf_of_not_isFp (fn : LredFn) {ty : Ty} (h : ty.isFp = false) (rm : Rm) {xs : List Nat}
    (hxs : ∀ y ∈ xs, y < 2 ^ bitsOf ty) : lredOf fn ty rm xs = reduced fn ty rm xs := by
  cases xs with
  | nil => exact lredEmpty_of_not_isFp fn h rm
  | cons x rest =>
    have hx := hxs x List.mem_cons_self
    have hrest : ∀ y ∈ rest, y < 2 ^ bitsOf ty := fun y hy => hxs y (List.mem_cons_of_mem _ hy)
    obtain ⟨hlow, hhigh⟩ := integerOf_bounds hx
    rw [lredOf_cons_of_not_isFp h]
    cases fn with
    | add =>
      have hop : lredPair .add ty = fun p q => (p + q) % 2 ^ bitsOf ty := by rw [← tyBits_eq_bitsOf]; rfl
      rw [hop, foldl_add_mod _ hx, reduced_add_of_not_isFp h, List.sum_cons]
    | min =>
      rw [lredPair_min_of_not_isFp h, foldl_choose (fun p q => by omega) hrest hx, reduced_min_of_not_isFp h, List.map_cons,
        List.foldl_cons, min_eq_right hhigh]
    | max =>
      rw [lredPair_max_of_not_isFp h, foldl_choose (fun p q => by omega) hrest hx, reduced_max_of_not_isFp h, List.map_cons,
        List.foldl_cons, max_eq_right hlow]
    | and =>
      rw [reduced_and_of_not_isFp h, List.foldl_cons, Nat.and_comm, Nat.and_two_pow_sub_one_of_lt_two_pow hx]; rfl
    | or => rw [reduced_or_of_not_isFp h, List.foldl_cons, Nat.zero_or]; rfl
    | xor => rw [reduced_xor_of_not_isFp h, List.foldl_cons, Nat.zero_xor]; rfl

/-- An integer reduction gives a pattern of its type. -/
theorem reduced_lt_of_not_isFp (fn : LredFn) {ty : Ty} (h : ty.isFp = false) (rm : Rm) {xs : List Nat}
    (hxs : ∀ y ∈ xs, y < 2 ^ bitsOf ty) : reduced fn ty rm xs < 2 ^ bitsOf ty := by
  have hpos : 0 < 2 ^ bitsOf ty := by positivity
  cases fn with
  | add => rw [reduced_add_of_not_isFp h]; exact Nat.mod_lt _ hpos
  | min => rw [reduced_min_of_not_isFp h]; exact wrapped_lt ty _
  | max => rw [reduced_max_of_not_isFp h]; exact wrapped_lt ty _
  | and =>
    rw [reduced_and_of_not_isFp h]
    exact foldl_lt (fun p q _ hq => Nat.and_lt_two_pow p hq) hxs (Nat.sub_lt hpos (by decide))
  | or => rw [reduced_or_of_not_isFp h]; exact foldl_lt (fun _ _ => Nat.or_lt_two_pow) hxs hpos
  | xor => rw [reduced_xor_of_not_isFp h]; exact foldl_lt (fun _ _ => Nat.xor_lt_two_pow) hxs hpos

theorem lredOf_eq_reduced {fn : LredFn} {ty : Ty} (hfn : fn.tys ty = true) (rm : Rm) {xs : List Nat}
    (hxs : ∀ y ∈ xs, y < 2 ^ bitsOf ty) : lredOf fn ty rm xs = reduced fn ty rm xs := by
  cases hty : ty.isFp with
  | true => exact lredOf_of_isFp hty hfn rm xs
  | false => exact lredOf_of_not_isFp fn hty rm hxs

/-! ### The instruction (R169) -/

/-- A pattern in a scalar register: sign-extended for the signed types, else zero-extended. -/
theorem scalar_extension {ty : Ty} {x : Nat} (h : ty.signed = true → x < 2 ^ bitsOf ty) :
    w64 (if ty.signed then sextN (tyBits ty) 64 x else x) =
      if ty.signed then BitVec.ofInt 64 (integerOf ty x) else BitVec.ofNat 64 x := by
  cases hs : ty.signed with
  | false => rfl
  | true =>
    have hw (z : Int) : w64 (ofInt 64 z) = BitVec.ofInt 64 z :=
      BitVec.eq_of_toNat_eq (by simp [w64, ofInt, BitVec.toNat_ofInt]; omega)
    simp only [if_true, sextN, hw, tyBits_eq_bitsOf, toInt_eq_signedField (bitsOf_pos ty), Nat.mod_eq_of_lt (h hs), integerOf, hs]

/-- The state in which a reduction writes: in the body of a region ±Inf or NaN is held for the commit. -/
def lredHeld (s : State) (special : Bool) : State := if s.cb.inBody then flagged s special s.act else s

theorem lredHeld_eq (s : State) (special : Bool) :
    (if (special && !s.cb.inBody) = true then s else setOverflowHere s special) = lredHeld s special := by
  cases hbody : s.cb.inBody with
  | true => simp [lredHeld, hbody, setOverflowHere, flagged_eq_setOverflowLanes]
  | false =>
    cases special with
    | true => simp [lredHeld, hbody]
    | false => simp [lredHeld, hbody, setOverflowHere, setOverflowLanes]

theorem sameLanes_lredHeld (s : State) (special : Bool) : SameLanes s (lredHeld s special) := by
  rw [lredHeld]
  split
  · rw [flagged_eq_setOverflowLanes]; exact sameLanes_setOverflowLanes s special s.act
  · exact ⟨rfl, rfl, rfl, rfl, rfl⟩

/-- A destination of variable latency where nothing is under way, after the count of ±Inf and NaN. -/
theorem laneVariable_of_sameLanes {s u : State} (h : SameLanes s u) {ty : Ty} {d : VReg} (hland : landable s ty d)
    (x : Nat → Nat) (t : Nat → Nat → W32) (ovf : Bool) :
    ∃ v, laneWriteO u ty d .variable x t ovf = .next v ∧ laneVariable u v (laneWrites s ty d x t) ovf := by
  refine ⟨_, laneWriteO_variable (h.landable hland) x t ovf, ?_⟩
  rw [← h.laneWrites]
  exact laneVariable_finishL x t ovf

section
variable {s : State} {o : LredOp} (hok : o.ok = true) (ha : steady s o.ty (.v o.a))

theorem LredOp.tys_of_ok (h : o.ok = true) : o.fn.tys o.ty = true := by
  simp only [LredOp.ok, Bool.and_eq_true] at h
  obtain ⟨⟨⟨htys, -⟩, -⟩, -⟩ := h
  exact htys

/-- What a reduction computes over the lanes of A. -/
def lredValue (s : State) (o : LredOp) : Nat :=
  reduced o.fn o.ty o.rm ((activeLanes s).map (patternOf s.cb o.ty (.v o.a)))

theorem active_patterns_lt (s : State) (ty : Ty) (x : Src) :
    ∀ y ∈ (activeLanes s).map (patternOf s.cb ty x), y < 2 ^ bitsOf ty := by
  intro y hy
  obtain ⟨l, -, rfl⟩ := List.mem_map.1 hy
  exact patternOf_lt s.cb ty x l

include hok ha in
/-- The model's value of a reduction over the lanes of A. -/
theorem lredOf_active : lredOf o.fn o.ty o.rm ((lanesOf s.act).map (fun l => s.rd o.ty (.v o.a) l)) = lredValue s o := by
  simp only [rd_of_steady ha]
  exact lredOf_eq_reduced (LredOp.tys_of_ok hok) o.rm (active_patterns_lt s o.ty (.v o.a))

include hok ha in
theorem lred_vector {d : VReg} (hd : o.d = .v d) : ∃ t, exec (.lred o) s = .next t ∧ (landable s o.ty d →
    let x := o.ty.isFp && (valueOf o.ty (lredValue s o)).special && decide (s.act ≠ 0)
    laneVariable (lredHeld s x) t (laneWrites s o.ty d (fun _ => lredValue s o) (fun _ _ => 0)) (x && !s.cb.inBody)) := by
  have hact : (s.act != 0) = decide (s.act ≠ 0) := by rw [Bool.eq_iff_iff, bne_iff_ne, decide_eq_true_iff]
  have hexec : exec (.lred o) s = execLred o s := rfl
  simp only [execLred, lredOf_active hok ha, lredHeld_eq, hd, Bool.or_false, hact] at hexec
  refine ⟨_, hexec, fun hland => ?_⟩
  obtain ⟨v, hv, hwrites⟩ :=
    laneVariable_of_sameLanes (sameLanes_lredHeld s _) hland (fun _ => lredValue s o) (fun _ _ => 0) _
  cases hv
  exact hwrites

include hok ha in
theorem lred_scalar {d : SReg} (hd : o.d = .s d) :
    let special := o.ty.isFp && (valueOf o.ty (lredValue s o)).special
    exec (.lred o) s = .next (laneCounted (lredHeld s special) d
      (if o.ty.signed then BitVec.ofInt 64 (integerOf o.ty (lredValue s o)) else BitVec.ofNat 64 (lredValue s o))
      (special && !s.cb.inBody)) := by
  have hlt : o.ty.signed = true → lredValue s o < 2 ^ bitsOf o.ty := fun hs => by
    have hty : o.ty.isFp = false := by
      cases h : o.ty with
      | f32 | f16 | bf16 | f64 => rw [h] at hs; cases hs
      | _ => rfl
    exact reduced_lt_of_not_isFp o.fn hty o.rm (active_patterns_lt s o.ty (.v o.a))
  have hexec : exec (.lred o) s = execLred o s := rfl
  simp only [execLred, lredOf_active hok ha, lredHeld_eq, hd, Bool.or_true, Bool.and_true] at hexec
  rw [laneWriteSO_eq, scalar_extension hlt] at hexec
  exact hexec

end

/-- Settles O31: the ballots, votes, shuffles, permutes and reductions each by the lemma of its instruction. -/
theorem crossLane : Obligations.CrossLane := by
  unfold Obligations.CrossLane
  intro s p
  refine ⟨fun hp => ?_, fun o _ ha => exec_voteUni ha, fun o _ ha hb hland hf => shfl_moved ha hb hland hf,
    fun o _ ha hb hland hf => perm_moved ha hb hland hf, fun o hok ha => ?_⟩
  · exact ⟨holds_ballot hp, exec_ballot_scalar hp, exec_voteCnt hp, exec_voteAny hp, exec_voteAll hp⟩
  · exact ⟨fun d hd => lred_vector hok ha hd, fun d hd => lred_scalar hok ha hd⟩

end Sys2Proof.Machine
end
